-- ==== Sys2Proof/Word.lean ====
section
/-! DEFINITION. The word types of the Kesol-8 model, and the shape of a sparse table.

Bit vectors are kept for what the manual treats as bits (headers, data blocks, packets, keys);
counts, levels and addresses already decoded are `Nat` or `Int`. -/

namespace Sys2Proof

/-- One byte. -/
abbrev Byte := BitVec 8

/-- A block address: bits [43:6] of a byte address (R13). -/
abbrev BlkAddr := BitVec 38

/-- The 64 bytes of one block; byte `k` lies in bits `8k+7 : 8k` (R9, R13). -/
abbrev Block512 := BitVec 512

/-- A sparse table: strictly rising keys, and no entry that equals the table's default. -/
abbrev Tab (α : Type) := List (Nat × α)

/-- `x` divided by `d`, rounded up. -/
def ceilDiv (x d : Nat) : Nat := (x + d - 1) / d

/-- `x` clamped to `lo … hi`. -/
def clampNat (x lo hi : Nat) : Nat := if x < lo then lo else if hi < x then hi else x

/-- `x` clamped to `lo … hi`, signed. -/
def clampInt (x lo hi : Int) : Int := if x < lo then lo else if hi < x then hi else x

/-- The sum that sticks at `2 ^ w - 1`. -/
def satAdd (w x y : Nat) : Nat := min (x + y) (2 ^ w - 1)

/-- The sum that wraps at `2 ^ w`. -/
def wrapAdd (w x y : Nat) : Nat := (x + y) % 2 ^ w

/-- Bits `lo + w - 1 : lo` of a number. -/
def bitsOf (x lo w : Nat) : Nat := (x >>> lo) % 2 ^ w

/-- Number of ones among the low `w` bits. -/
def popcount : Nat → Nat → Nat
  | 0, _ => 0
  | w + 1, x => x % 2 + popcount w (x / 2)

end Sys2Proof
end

