-- ==== Sys2Proof/Syntax.lean ====
section
/-! DEFINITION. The commands of the Kesol-8 block: one constructor of `Instr` for each row of the
table of operations and events, with the row's operands.

An operand is either something the outside presents (a request beat, a packet, a register access) or
something the outside world answers in that step (DRAM data, a sensor reading, a training result). -/

namespace Sys2Proof

/-- A source of packets: the management port, or the command sub-channel of an inlet (R118). -/
inductive Src where
  | mgmt
  | inlet (i : Fin 4)
  deriving DecidableEq, Repr

/-- A request as a requester presents it, parity correct, less its operation (R82). -/
structure ReqHdr where
  requester : BitVec 8
  tag : BitVec 11
  cls : BitVec 3
  addr : BlkAddr
  noAlloc : Bool
  forceSound : Bool
  deriving DecidableEq, Repr

/-- A packet: the fields of its 16-byte header (R112) and its body. -/
structure Packet where
  level : BitVec 4
  reply : Bool
  event : Bool
  rsvd : BitVec 2
  opcode : BitVec 8
  length : BitVec 8
  requester : BitVec 8
  status : BitVec 8
  detail : BitVec 8
  seq : BitVec 16
  param0 : BitVec 64
  body : List Byte
  deriving DecidableEq, Repr

/-- What a read of an internal SRAM found in the step (R303, R380, R381, R427, R452). -/
inductive SramFault where
  /-- every byte read has correct parity -/
  | clean
  /-- the request header, its tag state or the packet fails parity -/
  | header
  /-- the write or read data of a request fails parity -/
  | data
  /-- the data of the cache line or shallows entry read fails parity -/
  | line
  /-- both copies of the tag entry of this way of the set looked up fail parity -/
  | tagBoth (way : Fin 16)
  /-- one copy of the tag entry of this way of the set looked up fails parity -/
  | tagOne (way : Fin 16)
  /-- record or slot `k` of the log or of the soundings buffer fails parity -/
  | entry (k : Nat)
  /-- the index of the silt log fails parity -/
  | index
  deriving DecidableEq, Repr

/-- A discontinuity of network time (R65). -/
inductive StepKind where
  | ntStep | backward | forwardJump
  deriving DecidableEq, Repr

/-- One MR4 reading of a rank unit (R257): a multiplier above 1x; a temperature above the operating range. -/
structure Mr4Read where
  unit : Fin 8
  fast : Bool
  hot : Bool
  deriving DecidableEq, Repr

/-- One drift sample of a rank unit: oscillator counts per nibble (DDR5, R327), or for each lane whether
the lowered and the raised read passed (DDR4, R328). -/
structure DriftRead where
  unit : Fin 8
  counts : List Nat
  lanes : List (Bool × Bool)
  deriving DecidableEq, Repr

/-- Why a verify failed (R330): unit, chip ID, failing pass and the failing lanes. -/
structure VerifyFail where
  unit : Fin 8
  chip : Fin 8
  pass : Fin 6
  lanes : Nat
  deriving DecidableEq, Repr

/-- Values that training found for one rank unit: cells of records 0x1100 and 0x1101, each by its lowest bit. -/
structure UnitTrain where
  unit : Fin 8
  delays : List (Nat × Nat)
  margins : List (Nat × Nat)
  deriving DecidableEq, Repr

/-- The SPD facts of one DIMM that the check of R313 reads. -/
structure SpdInfo where
  width : Nat
  density : Nat
  ranks : Nat
  stack : Nat
  tckMinPs : Nat
  /-- minimum times in ps, by field of record 0x0200 (lowest bit of the field) -/
  minsPs : List (Nat × Nat)
  /-- CAS latencies that the SPD lists -/
  casList : List Nat
  /-- RAAIMT and RAAMMT where the DIMM needs refresh management -/
  rfm : Option (Nat × Nat)
  deriving DecidableEq, Repr

/-- What discovery or a full read found in one DIMM slot (R310, R312). -/
structure SlotInfo where
  chan : Fin 8
  slot : Fin 2
  present : Bool
  devType : BitVec 8
  identity : BitVec 64
  i3c : Bool
  spd : List Byte
  deriving DecidableEq, Repr

/-- What the DIMMs answered while one channel trained. -/
structure TrainRes where
  units : List UnitTrain
  fail : Option VerifyFail
  deriving DecidableEq, Repr

/-- What the outside answered while one channel was brought up (R319): VDDQ, the full read of its slots and their SPD
facts, and the outcomes of verify and training. -/
structure BringUp where
  vddqMv : Nat
  found : List SlotInfo
  spd : List SpdInfo
  verify : Option VerifyFail
  train : TrainRes
  verify2 : Option VerifyFail
  deriving DecidableEq, Repr

/-- What one row of a post-package repair came to (R353): repaired, no resource, or compare failed. -/
inductive PprRow where
  | repaired | noResource | compare
  deriving DecidableEq, Repr

/-- A read of the image mirror through the retained-state port (R62): it failed, or it returned these bytes. -/
inductive PortRead where
  | failed
  | bytes (b : List Byte)
  deriving DecidableEq, Repr

/-- The commands: the operations and events of the block, each whole and indivisible. -/
inductive Instr where
  | pwrGoodLow
  | resetRelease (rootSel : BitVec 2) (lcState : BitVec 2)
  | powerOnReset (lowNs : Nat)
  | warmReset (lowNs : Nat)
  | softResetStart (dt : Nat)
  | pfailWarn
  | pfailCleared (us : Nat)
  | tailEmitted (failed : Nat)
  | wake (level : Bool)
  | dormantExitComplete (faulted : BitVec 8) (temps : List (Fin 8 × Fin 6 × BitVec 16)) (drift : List (Fin 8 × DriftRead))
  | lifecycleStrobe (lcState : BitVec 2)
  | lifecycleFillEnd (failed : BitVec 8) (dt : Nat)
  | lifecycleUnauthorised (seen : BitVec 2)
  | seedValid (seed : BitVec 128)
  | seedFallback (dt : Nat)
  | timeStep (kind : StepKind) (nt : BitVec 64)
  | sluiceFreeRun
  | timeValidReturn (nt : BitVec 64)
  | sluiceRealigned (dt : Nat)
  | pcapTaken (mw : BitVec 16) (valid : Bool)
  | dieTempTaken (t : BitVec 12)
  | tempInputLost
  | vddqCheck (c : Fin 8) (mv : BitVec 16)
  | thermalPoll (c : Fin 8) (readings : List (Option (BitVec 16)))
  | alert (c : Fin 8)
  | missingBurst (c : Fin 8)
  | alertReleased (c : Fin 8)
  | stuckAlertFence (c : Fin 8)
  | alertReplayed (c : Fin 8)
  | read (i : Fin 4) (h : ReqHdr) (f : SramFault)
  | writeFull (i : Fin 4) (h : ReqHdr) (data : Block512) (f : SramFault)
  | writePartial (i : Fin 4) (h : ReqHdr) (data : Block512) (mask : BitVec 64) (f : SramFault)
  | cancel (i : Fin 4) (h : ReqHdr)
  | fence (i : Fin 4) (h : ReqHdr)
  | fenceComplete (requester : BitVec 8) (tag : BitVec 11)
  | requestFraming (i : Fin 4) (hdr : BitVec 128) (data : Block512) (mask : BitVec 64)
  | inletCreditViolation (i : Fin 4) (hdr : BitVec 128)
  | arbiterGrant (c : Fin 8)
  | tenureFollowOn (c : Fin 8)
  | enqueue (c : Fin 8)
  | commandSelect (c : Fin 8) (q : Fin 2)
  | governorCycle (c : Fin 8) (dt : Nat)
  | energyStall (c : Fin 8)
  | keepOpenTimeout (c : Fin 8) (q : Fin 2) (bank : Nat)
  | powerDownEntry (c : Fin 8) (u : Fin 8)
  | readDataDecode (c : Fin 8) (q : Fin 2) (raw : BitVec 640) (f : SramFault)
  | lineFillReturn (c : Fin 8) (q : Fin 2) (raw : BitVec 640)
  | rmwMerge (c : Fin 8) (q : Fin 2) (raw : BitVec 640)
  | writeDataSent (c : Fin 8) (q : Fin 2)
  | responsePresent (i : Fin 4) (k : Nat) (f : SramFault)
  | responseCreditGrant (i : Fin 4)
  | replyCreditGrant (i : Fin 4)
  | commandFlit (i : Fin 4) (flit : BitVec 128) (last : Bool) (f : SramFault)
  | commandFlitNoCredit (i : Fin 4) (flit : BitVec 128) (last : Bool)
  | packetFraming (src : Src) (p : Packet)
  | replySend (src : Src)
  | eventPacketSend (src : Src)
  | pktTxWord (w : BitVec 32)
  | submit
  | abort (alsoSubmit : Bool)
  | pktRxRead
  | overflowClear
  | underflowClear
  | intStatusClear (bits : BitVec 4)
  | intMaskWrite (bits : BitVec 4)
  | intSet (bits : BitVec 4)
  | timeLoRead
  | mgmtRegisterWrite (off : BitVec 10) (data : BitVec 32) (be : BitVec 4)
  | debugRead (addr : BitVec 41)
  | debugWrite (addr : BitVec 41) (data : BitVec 64) (be : BitVec 8)
  | attach (src : Src) (p : Packet)
  | detach (src : Src) (p : Packet)
  | detachDone (slot : Fin 128)
  | queryCaps (src : Src) (p : Packet)
  | ping (src : Src) (p : Packet)
  | configWrite (src : Src) (p : Packet)
  | configRead (src : Src) (p : Packet)
  | configStage (src : Src) (p : Packet)
  | configCommit (src : Src) (p : Packet)
  | configAbort (src : Src) (p : Packet)
  | stageExpired (src : Src) (txn : BitVec 16)
  | modeSet (src : Src) (p : Packet)
  | dormantEntryComplete
  | dormantReplyTimeout
  | dormantClockStop
  | imageSave (src : Src) (p : Packet)
  | imageSaved (ok : Bool) (written : Nat)
  | imageRestore (src : Src) (p : Packet)
  | train (src : Src) (p : Packet)
  | trainingDone (found : List SlotInfo) (spd : List (Fin 8 × SpdInfo)) (res : List (Fin 8 × TrainRes)) (us : Nat)
  | verify (src : Src) (p : Packet)
  | verifyDone (res : List (Fin 8 × Option VerifyFail))
  | lifecycle (src : Src) (p : Packet)
  | reset (src : Src) (p : Packet)
  | pondRebuild (src : Src) (p : Packet)
  | pondRebuilt (p : Fin 64)
  | pondProtect (src : Src) (p : Packet)
  | pondWipe (src : Src) (p : Packet)
  | pondWipeDone (p : Fin 64)
  | cachePreload (src : Src) (p : Packet)
  | cachePreloadDone
  | cacheLock (src : Src) (p : Packet)
  | cacheLockDone
  | cacheUnlock (src : Src) (p : Packet)
  | cacheUnlockDone
  | cacheRange (src : Src) (p : Packet)
  | cacheRangeDone
  | cacheEnable (src : Src) (p : Packet)
  | relockDone
  | cacheDisable (src : Src) (p : Packet)
  | cacheDisableDone
  | cacheWayMode (src : Src) (p : Packet)
  | wayConversionDone
  | fill (src : Src) (p : Packet)
  | fillDone
  | eventsRead (src : Src) (p : Packet) (f : SramFault)
  | eventsSubscribe (src : Src) (p : Packet)
  | eventsClear (src : Src) (p : Packet)
  | countersRead (src : Src) (p : Packet)
  | countersClear (src : Src) (p : Packet)
  | soundingsRead (src : Src) (p : Packet) (f : SramFault)
  | soundingsControl (src : Src) (p : Packet)
  | spareAdd (src : Src) (p : Packet)
  | spareAdded (c : Fin 8)
  | spareList (src : Src) (p : Packet)
  | pprRun (src : Src) (p : Packet)
  | pprDone (c : Fin 8) (rows : List PprRow) (verify : Option VerifyFail)
  | statusRead (src : Src) (p : Packet)
  | debugSramRead (src : Src) (p : Packet)
  | debugSramWrite (src : Src) (p : Packet)
  | imageLoad (port : PortRead)
  | imageReadTimeout (dt : Nat)
  | discoveryDone (slots : List SlotInfo)
  | channelBringUpDone (c : Fin 8) (r : BringUp)
  | restoreEnd
  | sluiceEntryStart (dt : Nat)
  | sluiceActivated (dt : Nat)
  | leadInEnd (dt : Nat)
  | turnoverClaim (c : Fin 8) (mr4 : List Mr4Read) (drift : List DriftRead) (dt : Nat)
  | turnoverStallEnd (c : Fin 8)
  | turnoverLate (c : Fin 8) (dt : Nat)
  | doubledExtraOccasion (c : Fin 8) (mr4 : List Mr4Read) (drift : List DriftRead) (dt : Nat)
  | rfmEmergency (c : Fin 8) (bank : Nat)
  | driftForced (c : Fin 8) (drift : List DriftRead)
  | dirtyAgeWriteback (loc : Nat) (f : SramFault)
  | shallowsStall
  | admissionSaturated (c : Fin 8)
  | dredgeRead (p : Fin 63)
  | dredgeDecode (c : Fin 8) (q : Fin 2) (raw : BitVec 640)
  | rateWindowBoundary (dt : Nat)
  | queueSounding (dt : Nat)
  | rootPllLock
  | imageRestoreDone (port : PortRead)
  deriving DecidableEq, Repr

end Sys2Proof
end

