-- ==== Sys2Proof/Config.lean ====
section
/-! DEFINITION. What one implementation fixes and the manual leaves open: free values, opaque to every proof.

`silicon` values are fuses (R58, R74). `keyOf` derives a key slot from the seed (R71, R299) and `keystream`
is the scrambler's function (R300): the manual fixes neither, and any function will do. `shortPulse` says
whether a reset pulse that is too short is taken (R42). `retryHint` is the block's estimate of R121.
`sramWord` is a word of an internal memory that the manual gives no layout for (R133, DEBUG_SRAM_READ). -/

namespace Sys2Proof.Config

/-- SILICON_REV, fuse bits [15:8] (R74). -/
opaque siliconRev : BitVec 8

/-- The device serial number, fuse bits [79:16] (R74). -/
opaque serial : BitVec 64

/-- The trim fuses, bits [223:80] (R74). -/
opaque trims : BitVec 144

/-- The key of slot `n` under a seed (R71, R299). -/
opaque keyOf : BitVec 128 → Nat → BitVec 128

/-- The keystream under a key for a block address (R300). -/
opaque keystream : BitVec 128 → Nat → BitVec 640

/-- Whether the `n`-th free draw takes a reset pulse that is too short (R42). -/
opaque shortPulse : Nat → Bool

/-- The block's estimate in microseconds of the time until an object is released (R121). -/
opaque retryHint : Nat → BitVec 32

/-- A word of an internal SRAM by memory ID, word offset and draw (R133). -/
opaque sramWord : Nat → Nat → Nat → BitVec 64

/-- The Memory ID that event 0x13 gives a memory, by its place in the list of R303; the manual numbers none. -/
opaque memoryId : Nat → BitVec 8

/-- The entry index of the `n`-th parity error: the manual does not say how entries are numbered (R304). -/
opaque parityEntry : Nat → BitVec 32

/-- A value that the manual leaves unstated, by draw. -/
opaque unstated : Nat → BitVec 64

/-- The fuse bits (R74). -/
def fuses : BitVec 256 :=
  (0 : BitVec 32) ++ trims ++ serial ++ siliconRev ++ (8 : BitVec 8)

end Sys2Proof.Config
end

