-- ==== Sys2Proof/Machine/Events.lean ====
section
/-! DEFINITION. The event sources: severity and default limit of each code, and which codes are reserved
(R433, R434 and the event tables they name), which are tenant-visible and which are pond announcements (R424). -/

namespace Sys2Proof.Machine

/-- The severities and default limits of the local codes 0x0 to 0xF of a channel (R434). -/
def localEvents : List (Nat × Nat) :=
  [(0, 16), (1, 16), (2, 16), (2, 4), (1, 16), (2, 4), (2, 4), (0, 4),
   (1, 4), (2, 1), (0, 4), (1, 4), (2, 1), (2, 1), (2, 1), (3, 1)]

/-- Codes 0x00 to 0x7F that are not reserved, with severity and default limit (R433). -/
def blockEvents : List (Nat × Nat × Nat) :=
  [(0x00, 0, 8), (0x01, 1, 255), (0x02, 2, 4), (0x03, 3, 1), (0x04, 1, 1), (0x05, 1, 4), (0x06, 1, 4),
   (0x07, 0, 4), (0x08, 2, 1), (0x09, 1, 4), (0x0A, 2, 1), (0x0C, 2, 1), (0x0D, 1, 1), (0x0E, 1, 1),
   (0x10, 1, 4), (0x11, 2, 1), (0x12, 1, 1), (0x13, 2, 4), (0x20, 1, 16), (0x21, 1, 16), (0x22, 0, 4),
   (0x23, 1, 4), (0x24, 0, 16), (0x25, 0, 16), (0x26, 1, 4), (0x27, 1, 4), (0x28, 1, 4), (0x29, 1, 4)] ++
  [(0x2B, 1, 16), (0x2D, 2, 4), (0x2E, 2, 4), (0x30, 1, 4), (0x31, 2, 4), (0x32, 2, 4), (0x33, 1, 4),
   (0x34, 1, 4), (0x35, 0, 4), (0x3E, 1, 1), (0x3F, 0, 255), (0x40, 0, 16), (0x41, 1, 4), (0x42, 0, 4),
   (0x43, 1, 4), (0x44, 1, 4), (0x45, 1, 4), (0x46, 1, 1), (0x47, 1, 4), (0x48, 2, 1), (0x49, 1, 4),
   (0x4A, 0, 4), (0x60, 2, 16), (0x61, 3, 1), (0x62, 0, 4), (0x63, 1, 4), (0x64, 1, 4), (0x65, 0, 4)] ++
  [(0x70, 2, 64), (0x71, 1, 16), (0x72, 1, 16), (0x73, 0, 16), (0x74, 0, 4), (0x75, 1, 4), (0x76, 1, 16),
   (0x77, 0, 4), (0x78, 1, 4), (0x79, 1, 4), (0x7A, 1, 4)]

/-- Severity and default limit of a code; none where the code is reserved (R433, R434). -/
def evInfo (code : Nat) : Option (Nat × Nat) :=
  if code < 0x80 then (blockEvents.find? (fun e => e.1 == code)).map (·.2)
  else if code < 0x100 then localEvents[(code - 0x80) % 16]? else none

/-- The code's severity; 0 for a reserved code, which is never recorded. -/
def evSev (code : Nat) : Nat := ((evInfo code).map (·.1)).getD 0

/-- The code's default BUDGET (R428); 0 for a reserved code. -/
def evLimit (code : Nat) : Nat := ((evInfo code).map (·.2)).getD 0

/-- The code is reserved (R433). -/
def evReserved (code : Nat) : Bool := (evInfo code).isNone

/-- Codes whose BUDGET is 1 to 255 (R428). -/
def evNeedsBudget (code : Nat) : Bool :=
  code == 0x03 || code == 0x60 || code == 0x61 || code == 0x70 ||
    (0x80 ≤ code && ((code - 0x80) % 16 == 2 || (code - 0x80) % 16 == 15))

/-- The per-channel code of local code `l` on channel `c` (R248). -/
def chanCode (c l : Nat) : Nat := 0x80 + 16 * c + l

/-- Codes that a tenant may subscribe to (R424). -/
def evTenantVisible (code : Nat) : Bool :=
  [0x00, 0x03, 0x40, 0x42, 0x43, 0x45, 0x71, 0x72, 0x73].contains code

/-- The pond announcements (R424). -/
def evAnnounce (code : Nat) : Bool :=
  code == 0x60 || code == 0x70 || (0x80 ≤ code && (code - 0x80) % 16 == 2)

end Sys2Proof.Machine
end

