-- ==== Sys2Proof/Machine/Records.lean ====
section
/-! DEFINITION. The configuration records: for each record ID its size and instance count (R8), and for each
field its position, default, Out of range entry and Kept through letters, as the field tables give them
(R15 to R17). A field is named by FIELD_ID, 8 x Offset + lowest bit (R142). -/

namespace Sys2Proof.Machine

/-- The Out of range column (R16), with the reasons of R144 that a table names itself. -/
inductive Oor where
  /-- every encodable value is in range -/
  | none
  /-- read-only: a written value is ignored -/
  | ro
  /-- nearest bound; reason 0x01 below, 0x02 above -/
  | clamp (lo hi : Nat)
  /-- 0 is a setting, otherwise as `clamp` -/
  | zeroOr (lo hi : Nat)
  /-- listed values 0 to `hi`; any other becomes `to_`, reason 0x03 -/
  | listed (hi to_ : Nat)
  /-- 0, or `lo` and above; 1 to `lo` - 1 becomes `lo`, reason 0x03 (AGE_CAP) -/
  | gap (lo : Nat)
  /-- CBS, PBS, BURST: 0 becomes 64 + OVERHEAD (field at `ov`), 1 to 63 become 64, above `hi` clamps -/
  | bucket (hi ov : Nat)
  /-- OSC_RUNTIME: 16 to 1,008, then rounded down to a multiple of 16, reason 0x03 -/
  | osc
  /-- BASE_SEL: 6 to 14 become 15, reason 0x03 -/
  | baseSel
  /-- RETIRED_DEV: above 16 becomes 0, reason 0x02 -/
  | retired
  /-- DRIFT_ADJ: two's complement, -64 to 63 -/
  | drift
  /-- BUDGET of a code limited to 1 to 255: 0 becomes 1, reason 0x04 -/
  | budget
  /-- an event number in the list, or 0; any other becomes 0, reason 0x03 -/
  | event (hi : Nat)
  /-- a subscription bit of a reserved code: 0, reason 0x03 -/
  | noSub
  deriving DecidableEq, Repr

/-- A field: FIELD_ID, width, Default, Kept through letters as bits I 8, W 4, S 2, D 1, and Out of range. -/
structure FieldSpec where
  bit : Nat
  w : Nat
  dflt : Nat
  kept : Nat
  oor : Oor
  deriving DecidableEq, Repr

/-- A field of Kept through I W S D at byte `off`, bit `lo`. -/
def fld (off lo w dflt : Nat) (oor : Oor) : FieldSpec := ⟨8 * off + lo, w, dflt, 15, oor⟩

/-- A field with other Kept through letters. -/
def fldK (off lo w dflt kept : Nat) (oor : Oor) : FieldSpec := ⟨8 * off + lo, w, dflt, kept, oor⟩

/-- Record 0x0100 (R307). -/
def rec0100 : List FieldSpec :=
  [fld 0 0 1 0 .none, fld 0 1 1 0 .none, fld 0 2 1 0 .none, fld 0 3 1 0 .none, fld 0 4 2 0 .none,
   fld 0 6 2 0 (.listed 2 2), fld 1 0 5 4 (.clamp 4 16), fld 1 5 2 0 .none, fld 2 0 7 8 (.clamp 1 64),
   fld 3 0 2 1 .none, fld 3 2 3 3 .none, fld 4 0 3 2 .none, fld 4 3 3 3 .none, fld 4 6 2 0 (.listed 2 2),
   fld 5 0 3 0 .none, fld 5 3 3 0 .none, fld 8 0 10 128 .osc, fld 10 0 8 16 (.clamp 1 255),
   fld 11 0 6 12 (.clamp 4 32)]

/-- Record 0x0101 (R310). -/
def rec0101 : List FieldSpec :=
  [fldK 0 0 16 0 0 .ro, fldK 2 0 1 0 0 .ro, fldK 2 1 1 0 0 .ro, fldK 2 2 2 0 0 .ro, fldK 3 0 8 0 0 .ro,
   fldK 4 0 8 0 0 .ro, fldK 8 0 64 0 0 .ro, fldK 16 0 64 0 0 .ro] ++
  (List.range 6).map (fun s => fldK (0x18 + 2 * s) 0 16 0x8000 0 .ro)

/-- Record 0x0102 (R311). -/
def rec0102 : List FieldSpec := (List.range 1024).map (fun k => fldK k 0 8 0 0 .ro)

/-- Record 0x0200 (R238). -/
def rec0200 : List FieldSpec :=
  [fld 0x00 0 8 60 (.clamp 10 80), fld 0x01 0 8 58 (.clamp 8 78), fld 0x02 0 8 52 (.clamp 8 120),
   fld 0x03 0 8 52 (.clamp 8 120), fld 0x04 0 10 116 (.clamp 16 512), fld 0x06 0 10 168 (.clamp 24 640),
   fld 0x08 0 8 8 (.clamp 4 32), fld 0x09 0 8 18 (.clamp 4 64), fld 0x0A 0 8 40 (.clamp 16 160),
   fld 0x0B 0 8 8 (.clamp 4 16), fld 0x0C 0 8 18 (.clamp 4 64), fld 0x0D 0 8 72 (.clamp 4 160),
   fld 0x0E 0 8 9 (.clamp 2 32), fld 0x0F 0 8 36 (.clamp 4 64), fld 0x10 0 8 27 (.clamp 4 64)] ++
  [fld 0x11 0 8 108 (.clamp 10 200), fld 0x12 0 4 2 .none, fld 0x12 4 4 2 .none, fld 0x13 0 8 8 (.clamp 0 63),
   fld 0x14 0 8 14 (.clamp 4 80), fld 0x16 0 13 1062 (.clamp 64 8191), fld 0x18 0 16 14040 (.clamp 1024 65535),
   fld 0x1A 0 8 27 (.clamp 4 64), fld 0x1B 0 8 18 (.clamp 2 64), fld 0x1C 0 8 51 (.clamp 8 128),
   fld 0x1D 0 8 51 (.clamp 8 128), fld 0x1E 0 14 3600 (.clamp 64 16383), fld 0x20 0 14 1098 (.clamp 64 16383)]

/-- Record 0x0300 (R149), ponds 0 to 62. -/
def rec0300 : List FieldSpec :=
  [fld 0 0 16 0 (.clamp 0 65534), fld 2 0 16 0 .none, fld 4 0 3 0 .none, fld 4 3 1 0 .none,
   fld 4 4 4 4 (.clamp 0 8), fld 5 0 2 1 (.listed 1 1), fld 5 2 2 0 (.listed 2 0), fld 5 4 4 0 .none,
   fld 6 0 1 0 .none, fld 6 1 2 0 (.listed 2 0), fld 6 3 1 0 .none, fldK 7 0 1 0 0 .ro,
   fld 8 0 16 0 (.clamp 0 32767), fld 10 0 12 0 .none, fld 12 0 14 168 (.clamp 1 10000), fld 14 0 8 0 .none]

/-- Record 0x0300, instance 63: every field but WRITE_PROTECT and DEFAULT_ACCESS reads zero (R153). -/
def rec0300p63 : List FieldSpec :=
  rec0300.map (fun f =>
    if f.bit == 48 || f.bit == 49 || f.bit == 56 then f else { f with dflt := 0, oor := .none })

/-- Record 0x0302 (R154). -/
def rec0302 : List FieldSpec := (List.range 64).map (fun p => ⟨2 * p, 2, 0, 15, .none⟩)

/-- Record 0x0700 (R183). -/
def rec0700 : List FieldSpec :=
  [fld 0 0 9 0 (.clamp 0 256), fld 2 0 1 0 .none, fld 4 0 32 0 (.zeroOr 32 4294967295), fld 8 0 64 0 .none,
   fld 16 0 64 0 .none, fld 0x18 0 8 100 (.clamp 0 100), fld 0x19 0 8 75 (.clamp 0 100),
   fld 0x1A 0 8 50 (.clamp 0 100), fld 0x1B 0 8 0 (.clamp 0 100), fld 0x1C 0 8 255 .none, fld 0x1D 0 2 0 .none] ++
  (List.range 256).flatMap (fun e =>
    [fld (0x20 + 8 * e) 0 8 255 .none, fld (0x21 + 8 * e) 0 24 32 (.clamp 32 16777215),
     fld (0x24 + 8 * e) 0 1 0 .none, fld (0x24 + 8 * e) 1 2 0 .none])

/-- Record 0x0701: the layout of 0x0700, read-only to packets (R183). The retained image checks it as 0x0700. -/
def rec0701 : List FieldSpec := rec0700

/-- Record 0x0900 (R236). -/
def rec0900 : List FieldSpec :=
  [fld 0 0 2 0 (.listed 2 0), fld 2 0 12 128 .none, fld 4 0 7 72 (.clamp 8 96), fld 5 0 7 32 (.clamp 0 88)] ++
  (List.range 8).map (fun k => fld (8 + 2 * k) 0 16 4096 (.gap 64))

/-- Record 0x0A00 (R260). -/
def rec0A00 : List FieldSpec :=
  [fld 0 0 1 1 .none, fld 0 1 1 0 .none, fld 0 2 3 0 .none, fldK 1 0 1 0 0 .ro, fldK 1 1 1 0 0 .ro,
   fld 2 0 16 256 .none, fld 4 0 24 0xFAC688 .none, fld 8 0 8 40 (.clamp 8 255), fld 10 0 10 240 (.clamp 16 1023),
   fld 12 0 13 531 (.clamp 64 8191), fldK 15 0 8 0 0 .ro]

/-- Record 0x0B00 (R274). -/
def rec0B00 : List FieldSpec :=
  [fld 0 0 1 1 .none, fld 1 0 8 16 (.clamp 1 255), fld 2 0 7 4 (.clamp 1 64), fld 4 0 16 0x07D0 .none,
   fld 6 0 16 0x0578 .none, fld 8 0 16 0x0640 .none, fld 10 0 16 0x6EA6 .none, fld 12 0 16 0x5EA6 .none,
   fld 14 0 16 0x012C .none, fld 16 0 16 0x5C35 .none]

/-- Record 0x0E00 (R369): ENABLE and WAY_MODE are read-only to packets and restored from the image. -/
def rec0E00 : List FieldSpec :=
  [fld 0 0 1 1 .none, fld 0 1 3 3 .none, fld 2 0 16 0 .none, fld 4 0 16 100 .none] ++
  (List.range 16).map (fun w => fld 8 (2 * w) 2 0 (.listed 2 0))

/-- Record 0x0F00 (R428). -/
def rec0F00 (code : Nat) : List FieldSpec :=
  [fld 0 0 8 (evLimit code) (if evNeedsBudget code then .budget else .none), fld 1 0 1 0 .none, fldK 4 0 32 0 1 .ro]

/-- Records 0x0F02 and 0x0F03 (R428). -/
def recSubs (kept : Nat) : List FieldSpec :=
  (List.range 256).map (fun e => ⟨e, 1, 0, kept, if evReserved e then .noSub else .none⟩)

/-- Record 0x0F04 (R428). -/
def rec0F04 : List FieldSpec :=
  [fldK 0 0 15 0 7 .ro, fldK 2 0 16 0 7 .ro, fldK 4 0 19 0 7 .ro, fldK 8 0 16 0 7 .ro] ++
  (List.range 8).map (fun s => fldK (0x10 + 4 * s) 0 32 0 7 .ro)

/-- Records 0x1000 and 0x1001 (R439). -/
def recSelect (hi : Nat) : List FieldSpec :=
  (List.range 8).flatMap (fun i =>
    [fld (4 * i) 0 8 0 (.event hi), fld (4 * i + 1) 0 8 0 .none, fld (4 * i + 2) 0 8 0 .none,
     fld (4 * i + 3) 0 1 0 .none, fld (4 * i + 3) 1 2 0 (.listed 2 0)])

/-- Record 0x1100 (R316). -/
def rec1100 : List FieldSpec :=
  fld 0 0 1 0 .none ::
  ((List.range 72).flatMap (fun n =>
    [fld (8 + 4 * n) 0 10 0 .none, fld (8 + 4 * n) 10 9 0 .none, fld (8 + 4 * n) 19 7 64 .none]) ++
   (List.range 18).flatMap (fun k =>
    [fld (0x128 + 8 * k) 0 12 0 .none, fld (0x128 + 8 * k) 12 12 0 .none, fld (0x128 + 8 * k) 24 7 64 .none,
     fld (0x128 + 8 * k) 32 16 0 .none, fld (0x128 + 8 * k) 48 8 0 .drift]))

/-- Record 0x1101 (R317). -/
def rec1101 : List FieldSpec :=
  fldK 0 0 2 0 7 .ro ::
  (List.range 72).flatMap (fun n => [fldK (8 + 2 * n) 0 8 0 7 .ro, fldK (8 + 2 * n) 8 8 0 7 .ro])

/-- Record 0x1200 (R157). -/
def rec1200 : List FieldSpec :=
  [fld 0 0 8 0 .none, fld 1 0 3 2 .none] ++
  (List.range 9).flatMap (fun j =>
    (if 3 ≤ j then [fld (8 + 8 * j) 0 4 15 .baseSel] else []) ++ [fld (0x0C + 8 * j) 0 32 0 .none])

/-- Size in bytes and instance count of a record; none where the ID is unknown (R8). -/
def recShape (id : Nat) : Option (Nat × Nat) :=
  match id with
  | 0x0100 => some (16, 8) | 0x0101 => some (40, 8) | 0x0102 => some (1024, 16) | 0x0200 => some (40, 8)
  | 0x0300 => some (16, 64) | 0x0302 => some (16, 128) | 0x0400 => some (8, 128) | 0x0410 => some (8, 1)
  | 0x0401 => some (8, 128) | 0x0500 => some (24, 128) | 0x0600 => some (16, 64) | 0x0700 => some (2080, 1)
  | 0x0701 => some (2080, 1) | 0x0800 => some (16, 8) | 0x0801 => some (8, 128) | 0x0802 => some (8, 1)
  | 0x0900 => some (24, 8) | 0x0A00 => some (16, 8) | 0x0A01 => some (8, 1) | 0x0B00 => some (24, 8)
  | 0x0B01 => some (8, 1) | 0x0C00 => some (8, 1) | 0x0C01 => some (8, 8) | 0x0C02 => some (8, 1)
  | 0x0C03 => some (24, 63) | 0x0D00 => some (8, 8) | 0x0D01 => some (8, 1) | 0x0D02 => some (16, 2048)
  | 0x0E00 => some (16, 1) | 0x0E01 => some (16, 64) | 0x0F00 => some (8, 256) | 0x0F01 => some (8, 1)
  | 0x0F02 => some (32, 128) | 0x0F03 => some (32, 1) | 0x0F04 => some (48, 1) | 0x1000 => some (32, 1)
  | 0x1001 => some (32, 8) | 0x1003 => some (32, 2048) | 0x1010 => some (8, 1) | 0x1011 => some (16, 1)
  | 0x1100 => some (440, 64) | 0x1101 => some (152, 64) | 0x1200 => some (80, 8)
  | _ => none

/-- The fields of a record, in ascending FIELD_ID, for the instance given (R153 and R428 depend on it). -/
def recFields (id inst : Nat) : List FieldSpec :=
  match id with
  | 0x0100 => rec0100 | 0x0101 => rec0101 | 0x0102 => rec0102 | 0x0200 => rec0200
  | 0x0300 => if inst == 63 then rec0300p63 else rec0300
  | 0x0302 => rec0302
  | 0x0400 => [fldK 0 0 1 0 1 .none, fldK 0 1 1 0 1 .none, fldK 0 2 1 0 1 .none]
  | 0x0410 => [fld 0 0 4 1 (.clamp 1 3)]
  | 0x0401 => [fld 0 0 12 256 (.clamp 1 2048)]
  | 0x0500 => [fld 0 0 2 0 (.listed 2 2), fld 0 2 3 7 .none, fld 1 0 8 0 .none, fld 4 0 19 0 (.clamp 0 460800),
      fld 8 0 19 0 (.clamp 0 460800), fld 12 0 25 65536 (.bucket 16777216 8), fld 16 0 25 131072 (.bucket 16777216 8)]
  | 0x0600 => [fld 0 0 1 0 .none, fld 1 0 8 0 .none, fld 4 0 16 57600 (.clamp 0 57600),
      fld 8 0 25 4096 (.bucket 16777216 8)]
  | 0x0700 => rec0700 | 0x0701 => rec0701
  | 0x0800 => [fld 0 0 7 8 (.clamp 0 64), fld 1 0 5 4 (.clamp 1 16), fld 2 0 1 0 .none,
      fld 4 0 32 1 (.clamp 1 4294967295), fld 8 0 32 0 .none]
  | 0x0801 => [fld 0 0 8 16 .none]
  | 0x0802 => [fld 0 0 8 16 .none, fld 1 0 8 16 .none, fld 2 0 8 16 .none, fld 3 0 8 16 .none, fld 5 0 8 16 .none,
      fld 6 0 3 7 .none]
  | 0x0900 => rec0900 | 0x0A00 => rec0A00
  | 0x0A01 => [fld 0 0 7 0 (.clamp 0 100), fld 1 0 7 4 (.clamp 1 64), fld 2 0 8 85 (.clamp 70 95)]
  | 0x0B00 => rec0B00
  | 0x0B01 => [fld 0 0 8 80 (.clamp 40 110), fld 1 0 8 95 (.clamp 45 115), fld 2 0 8 100 (.clamp 60 120),
      fld 3 0 8 115 (.clamp 65 125)]
  | 0x0C00 => [fld 0 0 1 1 .none, fld 2 0 16 3600 .none]
  | 0x0C01 => (List.range 8).map (fun u => fld u 0 5 0 .retired)
  | 0x0C02 => [fld 0 0 16 65535 .none, fld 2 0 3 6 .none, fld 2 3 3 7 .none, fld 3 0 7 16 (.clamp 1 64)]
  | 0x0C03 => [fldK 0 0 1 0 1 .none, fldK 4 0 32 0 1 .ro, fldK 8 0 38 0 1 .ro, fldK 16 0 64 0 1 .ro]
  | 0x0D00 => [fld 0 0 7 0 (.clamp 0 64), fld 1 0 3 4 .none]
  | 0x0D01 => [fld 0 0 12 0 .ro]
  | 0x0D02 => [fld 0 0 64 0 .ro, fld 8 0 1 0 .ro, fld 8 1 1 0 .ro, fld 8 2 2 0 .ro, fld 8 4 3 0 .ro,
      fld 8 7 3 0 .ro, fld 8 10 2 0 .ro, fld 8 12 18 0 .ro, fld 8 30 6 0 .ro]
  | 0x0E00 => rec0E00
  | 0x0E01 => [fldK 0 0 38 0 1 .ro, fldK 0 38 4 0 1 .ro, fldK 0 42 1 0 1 .ro, fldK 8 0 38 0 1 .ro]
  | 0x0F00 => rec0F00 inst
  | 0x0F01 => [fld 0 0 10 1 (.clamp 1 1000)]
  | 0x0F02 => recSubs 1 | 0x0F03 => recSubs 15 | 0x0F04 => rec0F04
  | 0x1000 => recSelect 0x14 | 0x1001 => recSelect 0x1E
  | 0x1003 => [fldK 0 0 48 0 1 .ro, fldK 6 0 48 0 1 .ro, fldK 12 0 48 0 1 .ro, fldK 0x12 0 32 0 1 .ro,
      fldK 0x16 0 32 0 1 .ro, fldK 0x1A 0 32 0 1 .ro]
  | 0x1010 => [fld 0 0 1 0 .none, fld 0 1 1 0 .none, fld 0 2 5 10 (.clamp 0 24), fld 1 0 8 255 .none,
      fld 2 0 16 0 .none, fld 4 0 8 255 .none]
  | 0x1011 => [fldK 0 0 12 0 1 .ro, fldK 0 12 1 0 1 .ro, fldK 0 13 1 0 1 .ro, fldK 2 0 13 0 1 .ro,
      fldK 4 0 32 0 1 .ro, fldK 8 0 32 0 1 .ro]
  | 0x1100 => rec1100 | 0x1101 => rec1101 | 0x1200 => rec1200
  | _ => []

/-- The Default of a field (R15); 0 for a reserved place. -/
def fieldDefault (id inst bit : Nat) : Nat :=
  (((recFields id inst).find? (fun f => f.bit == bit)).map (·.dflt)).getD 0

/-- Every record ID of R8, ascending. -/
def recIds : List Nat :=
  [0x0100, 0x0101, 0x0102, 0x0200, 0x0300, 0x0302, 0x0400, 0x0401, 0x0410, 0x0500, 0x0600, 0x0700, 0x0701,
   0x0800, 0x0801, 0x0802, 0x0900, 0x0A00, 0x0A01, 0x0B00, 0x0B01, 0x0C00, 0x0C01, 0x0C02, 0x0C03, 0x0D00,
   0x0D01, 0x0D02, 0x0E00, 0x0E01, 0x0F00, 0x0F01, 0x0F02, 0x0F03, 0x0F04, 0x1000, 0x1001, 0x1003, 0x1010,
   0x1011, 0x1100, 0x1101, 0x1200]

end Sys2Proof.Machine
end

