-- ==== Sys2Proof/Machine/State.lean ====
section
/-! DEFINITION. The state of the block, as plain data: every register, queue, buffer, counter, mode and pin
that the manual gives it, and the queue of commands that wait. `State.reset` is the block before its first
command: in OFF, with every field at the manual's reset value, or at the value that log entry 3 names. -/

namespace Sys2Proof.Machine

/-- No rule of the manual stops the block: this type is empty, and no meaning faults. -/
inductive Fault where
  deriving DecidableEq, Repr

/-- Why a command has no meaning. `notModelled` is raised by the dispatcher alone, for a command that has
no meaning yet; a refusal is safe (nothing is claimed of the refused step). -/
inductive Refusal where
  | notModelled (mnemonic : String)
  deriving DecidableEq, Repr

/-! ### Modes, clocks, pins -/

/-- The six modes (R38), in the order of MW_MODE.MODE (R58). -/
inductive Mode where
  | off | restore | commission | serve | degraded | dormant
  deriving DecidableEq, Repr

/-- The life-cycle states (R70). -/
inductive Lc where
  | factory | deployed | retired
  deriving DecidableEq, Repr

/-- The resets (R404), in the order of LAST_RESET (R414). -/
inductive ResetKind where
  | powerOn | warm | soft | lifeCycle
  deriving DecidableEq, Repr

/-- Clocks (R34, R40, R41): the root frequency in MHz, cclk counted, ns elapsed with its exact fraction in
units of 1 / rootMhz ns, and whether the root PLL runs. -/
structure Clk where
  rootMhz : Nat := 14400
  cclk : Nat := 0
  ns : Nat := 0
  frac : Nat := 0
  pll : Bool := false
  deriving DecidableEq, Repr

/-- Levels and values taken from the slow inputs (R40, R66 to R70). `pfail` is a warning acted on since the
last reset; `pfailHigh` is the level last taken, and `warmHeld` a warm reset that waits for the tail (R43). -/
structure Pins where
  pfail : Bool := false
  pfailHigh : Bool := false
  warmHeld : Bool := false
  wake : Bool := false
  dieTemp : Option (BitVec 12) := none
  lastDie : BitVec 12 := 0
  capMw : Nat := 65535
  capValid : Bool := false
  deriving DecidableEq, Repr

/-- Network time as used (R64, R65, R185, R190 to R192). Network time is `ns + off`, block time is
`ns + blkOff`; `realign` is the boundary B that a return of time waits for. -/
structure Net where
  valid : Bool := false
  ever : Bool := false
  timeValid : Bool := false
  off : Int := 0
  lastValid : Int := 0
  blkOff : Int := 0
  realign : Option Int := none
  deriving DecidableEq, Repr

/-- MW_BOOT_STATUS less REPORT_COUNT (R58). -/
structure Boot where
  phase : Nat := 0
  imageValid : Bool := false
  fromPort : Bool := false
  seedFallback : Bool := false
  trained : Nat := 0
  failed : Nat := 0
  deriving DecidableEq, Repr

/-- The management port (R57 to R59). `rx` holds whole packets, oldest first, the first less its words read. -/
structure Mgmt where
  intStatus : BitVec 4 := 0
  intMask : BitVec 4 := 15
  tx : List (BitVec 32) := []
  overflow : Bool := false
  underflow : Bool := false
  rx : List (List (BitVec 32)) := []
  rdata : BitVec 32 := 0
  err : Bool := false
  timeHi : BitVec 32 := 0
  deriving DecidableEq, Repr

/-- The debug access bus (R73): an access outstanding with the byte lane it reads, its last answer, and the words that
DEBUG_SRAM_WRITE stored (R133), keyed by 2^24 x memory ID + word offset. -/
structure Dbg where
  busy : Bool := false
  lane : Nat := 0
  rdata : BitVec 64 := 0
  status : Nat := 0
  sram : List (Nat × BitVec 64) := []
  deriving DecidableEq, Repr

/-! ### Inlets, requesters, requests -/

/-- An event record (R416) less the fields its code fixes; `payload` is unpadded. -/
structure LogRec where
  code : Nat
  sev : Nat
  chanValid : Bool
  chan : Nat
  timeValid : Bool
  seq : Nat
  ts : BitVec 64
  payload : List Byte
  deriving DecidableEq, Repr

/-- An event packet that waits (R146). -/
structure EvPkt where
  recipient : Nat
  seq : Nat
  pond : Option Nat
  notLogged : Bool
  record : LogRec
  deriving DecidableEq, Repr

/-- One inlet (R44 to R56). The fabric's credit counters are `reqCred` and `cmdCred`; `cmdOwed` are command flit credits held
back (R55). `flits` and `flitBad` are the packet being taken; `lastRsp` and `lastPkt` are the last response and the last packet
that the block presented. -/
structure Inlet where
  reqVoid : Bool := true
  reqVoidAt : Nat := 0
  reqCred : Nat := 0
  rspCred : Nat := 0
  cmdVoid : Bool := true
  cmdVoidAt : Nat := 0
  cmdCred : Nat := 0
  cmdOwed : Nat := 0
  rplCred : Nat := 0
  flits : List (BitVec 128) := []
  flitBad : Bool := false
  lastRsp : Option (BitVec 64 × Block512) := none
  lastPkt : Option Packet := none
  dropped : Nat := 0
  deriving DecidableEq, Repr

/-- Attachment of a slot (R127 to R129). -/
inductive Attach where
  | free
  | att (inlet : Fin 4) (level : Nat)
  | detaching (inlet : Fin 4) (level : Nat)
  deriving DecidableEq, Repr

/-- A token bucket (R172): level in units of 2^-16 byte, and the cclk of its last refill. -/
structure Bucket where
  tok : Int := 0
  last : Nat := 0
  deriving DecidableEq, Repr

/-- One requester slot (R127, R174, R194). -/
structure Slot where
  attach : Attach := .free
  polC : Bucket := {}
  polP : Bucket := {}
  reds : Nat := 0
  deriving DecidableEq, Repr

/-- What the block keeps of an event recipient (R146). -/
structure Recip where
  seq : Nat := 0
  dropped : Nat := 0
  deriving DecidableEq, Repr

/-- Memory operations (R80). -/
inductive Op where
  | read | writeFull | writePartial | cancel | fence
  deriving DecidableEq, Repr

/-- A policer's colour, or no policer (R174, R447). -/
inductive Colour where
  | off | green | yellow | red
  deriving DecidableEq, Repr

/-- DRAM coordinates (R148). -/
structure Coord where
  chan : Nat := 0
  sc : Nat := 0
  rank : Nat := 0
  cid : Nat := 0
  bg : Nat := 0
  ba : Nat := 0
  row : Nat := 0
  col : Nat := 0
  deriving DecidableEq, Repr

/-- Where a request in flight is (R22, R93, R101, R333, R359, R360). -/
inductive Stage where
  /-- held by a FENCE before step 8 of R87 -/
  | fenceHeld
  /-- a FENCE that holds -/
  | fencing
  /-- behind an earlier request of its requester to its block (R93) -/
  | order
  /-- waiting on the fill of tile `t` (R333) -/
  | tile (t : Nat)
  /-- a miss that waits for one of the 512 line fills (R359) -/
  | fillSlot
  /-- a miss that waits for the shallows head (R365) -/
  | victim
  /-- DRAM-bound under a request of its own (stages 5 to 10) -/
  | chan
  /-- joined to the line fill of its block (R360) -/
  | joined
  /-- completed; its response waits for a credit (R52) -/
  | ready
  deriving DecidableEq, Repr

/-- What a sounding records of a request (R447, R448); `none` is a stage never reached. -/
structure Sound where
  sampled : Bool := false
  forced : Bool := false
  tPolice : Option Nat := none
  tLookup : Option Nat := none
  tGrant : Option Nat := none
  tCmd : Option Nat := none
  tData : Option Nat := none
  cacheOut : Nat := 0
  rowOut : Nat := 0
  rmw : Bool := false
  fwd : Bool := false
  coal : Bool := false
  decode : Nat := 7
  reread : Bool := false
  replays : Nat := 0
  resGrant : Bool := false
  followOn : Bool := false
  coord : Option Coord := none
  deriving DecidableEq, Repr

/-- A request in flight: its entry in the staging buffer and the completion table (R25, R88). -/
structure Req where
  id : Nat
  inlet : Option (Fin 4)
  op : Op
  requester : Nat
  tag : Nat
  cls : Nat
  served : Nat
  blk : Nat
  pond : Option Nat := none
  data : Block512 := 0
  mask : BitVec 64 := 0
  noAlloc : Bool := false
  stage : Stage
  takenAt : Nat
  counted : Bool := false
  tracked : Bool := false
  status : Nat := 0
  rdata : Option Block512 := none
  dup : Bool := false
  cancelHit : Bool := false
  cacheHit : Bool := false
  colour : Colour := .off
  coloured : Bool := false
  snd : Sound := {}
  deriving DecidableEq, Repr

/-! ### Channels -/

/-- The DRAM-bound requests (R171, R215). -/
inductive DKind where
  | read | lineFill | prefetch | dredgeRead | copyRead | debugRead
  | writeFull | writeback | fillWrite | dredgeWb | copyWrite | poisonWrite | writePartial
  deriving DecidableEq, Repr

/-- A DRAM-bound request (R195). `owner` is the request in flight that it serves; `ref` names the cache line,
tile, fill or column that it works for; `stale` says that a write to the block reached the ordering point
after its RD (R296, R345). -/
structure DReq where
  id : Nat
  kind : DKind
  requester : Nat
  tag : Nat
  cls : Nat
  blk : Nat
  pond : Nat
  owner : Option Nat := none
  ref : Nat := 0
  data : Block512 := 0
  mask : BitVec 64 := 0
  poison : Bool := false
  coord : Coord := {}
  born : Nat := 0
  grantAt : Nat := 0
  cost : Nat := 0
  charged : Bool := false
  followOn : Bool := false
  reserved : Bool := false
  stale : Bool := false
  deriving DecidableEq, Repr

/-- An entry of a transaction queue (R214, R216). `whole` is a write-buffer entry that holds a whole block;
`sel` says that its column command has been selected. -/
structure QEnt where
  d : DReq
  held : Bool := false
  whole : Bool := false
  sel : Bool := false
  hadPre : Bool := false
  hadAct : Bool := false
  first : Bool := false
  reread : Bool := false
  enqAt : Nat := 0
  deriving DecidableEq, Repr

/-- DRAM commands (R239, R253, R263). The flag of a column command is its auto-precharge form. -/
inductive CmdKind where
  | act | pre | preab | rd (ap : Bool) | wr (ap : Bool) | refab | rfmab | pde | pdx | mr | sre | srx
  deriving DecidableEq, Repr

/-- A command issued: its kind, place, CK of issue, and the request it serves with its write data (R243). -/
structure Cmd where
  kind : CmdKind
  rank : Nat := 0
  cid : Nat := 0
  bg : Nat := 0
  ba : Nat := 0
  row : Nat := 0
  at_ : Nat := 0
  dreq : Option Nat := none
  blk : Nat := 0
  data : Block512 := 0
  poison : Bool := false
  deriving DecidableEq, Repr

/-- A bank of a queue: its open row, its page predictor state and its deferred close (R232, R234, R235). -/
structure Bank where
  hist : Nat := 0
  lastRow : Nat := 0
  lastValid : Bool := false
  keep : Bool := true
  openRow : Option Nat := none
  deferred : Bool := false
  lastCol : Nat := 0
  raa : Nat := 0
  deriving DecidableEq, Repr

/-- One queue of a channel with its scheduler, predictor, write direction and replay buffer (R214). -/
structure Queue where
  ents : List QEnt := []
  locks : List (Nat × Nat) := []
  dirWrite : Bool := false
  banks : Tab Bank := []
  ctr : Tab Nat := []
  replay : List Cmd := []
  openBefore : List (Nat × Nat) := []
  issued : List Cmd := []
  flight : List Nat := []
  sending : List Nat := []
  selCol : Option Nat := none
  selOther : Option Nat := none
  deriving DecidableEq, Repr

/-- A tenure in progress (R205). -/
structure Tenure where
  requester : Nat
  cls : Nat
  count : Nat
  deriving DecidableEq, Repr

/-- Command/address alert handling of a channel (R244, R245). -/
inductive AlertState where
  | none | waitHigh (missing : Bool) | replaying (missing : Bool) | recoveryWait | recovery
  deriving DecidableEq, Repr

/-- A reading that stops doubling (R258): its sensor, the temperature it reports, and whether the occasion that follows it has started. -/
structure Stopping where
  sensor : Nat := 0
  temp : Nat := 0
  due : Bool := false
  deriving DecidableEq, Repr

/-- Turnover of a channel (R249 to R262). -/
structure Turn where
  lastStart : Nat := 0
  lastRef : Nat := 0
  stalled : Bool := false
  occasions : Nat := 0
  lateCause : Nat := 3
  aligned : Bool := false
  failCond : Nat := 0
  stride : Nat := 1
  doubled : Bool := false
  stopping : Option Stopping := none
  mr4 : Tab Nat := []
  deriving DecidableEq, Repr

/-- The governor of a channel (R268, R271). -/
structure Gov where
  level : Int := 0
  short : Bool := false
  shortSince : Nat := 0
  nj : Nat := 0
  deriving DecidableEq, Repr

/-- What the sideband and the PHY hold of a channel (R77, R310, R311, R314, R317, R325, R328). -/
structure Phy where
  vddqMv : Nat := 0
  vddqSeen : Bool := false
  vddqBad : Nat := 0
  present : List Bool := [false, false]
  sbMode : Nat := 0
  devType : List Nat := [0, 0]
  identity : List Nat := [0, 0]
  temps : List Nat := [0x8000, 0x8000, 0x8000, 0x8000, 0x8000, 0x8000]
  tempBad : List Nat := [0, 0, 0, 0, 0, 0]
  tempGood : List Nat := [0, 0, 0, 0, 0, 0]
  spd : List (List Byte) := [[], []]
  margins : Tab Nat := []
  driftDue : Tab Nat := []
  zqAt : Tab Nat := []
  eyeFail : Tab Nat := []
  changed : Bool := false
  hold : Bool := false
  warned : Bool := false
  deriving DecidableEq, Repr

/-- An entry of the remap CAM (R348). -/
structure CamEnt where
  idx : Nat
  active : Bool
  sc : Nat
  rank : Nat
  cid : Nat
  bg : Nat
  ba : Nat
  row : Nat
  spare : Nat
  deriving DecidableEq, Repr

/-- A SPARE_ADD in progress: its CAM entry, the column it works on, the copied mask, its counts, and whether the column's block is
on its way (R349, R350). -/
structure Copy where
  idx : Nat
  col : Nat
  mask : Nat
  copied : Nat
  poisoned : Nat
  busy : Bool := false
  deriving DecidableEq, Repr

/-- The rebuild count of a data device (R288). -/
structure Rebuild where
  count : Nat := 0
  start : Nat := 0
  last : Nat := 0
  deriving DecidableEq, Repr

/-- One DRAM channel. `state` is CHc_STATE of MW_CHANNEL_STATUS (R58). -/
structure Chan where
  state : Nat := 0
  wait : List DReq := []
  outside : List DReq := []
  granted : List DReq := []
  lfsr : BitVec 32 := 1
  resCount : Nat := 0
  tenure : Option Tenure := none
  deadAt : Option Nat := none
  lastAdmit : Option Nat := none
  lastEnq : Option Nat := none
  fullSince : Option Nat := none
  shapers : Tab Bucket := []
  frozenTold : Nat := 0
  queues : List Queue := [{}, {}]
  ck2 : Nat := 0
  ckBase : Nat := 0
  alert : AlertState := .none
  fails : List Nat := []
  replays : List Nat := []
  pd : List Nat := []
  pdDisabled : Nat := 0
  pdAlerts : Tab Nat := []
  unitLast : Tab Nat := []
  turn : Turn := {}
  gov : Gov := {}
  phy : Phy := {}
  cam : List CamEnt := []
  copy : Option Copy := none
  rebuilds : Tab Rebuild := []
  deriving DecidableEq, Repr

/-! ### Ponds, fills, dredge, cache -/

/-- The placement fields of a pond (R151). -/
structure Place where
  base : Nat := 0
  size : Nat := 0
  set : Nat := 0
  striped : Bool := false
  grain : Nat := 0
  writeFirst : Bool := true
  key : Nat := 0
  setOff : Nat := 0
  tileBase : Nat := 0
  exclude : Nat := 0
  deriving DecidableEq, Repr

/-- What the block keeps of a pond beside its record (R152, R169, R170, R339): the old placements that drain, each with the ns at
which it was disabled. -/
structure PondRt where
  draining : List (Place × Nat) := []
  lost : Bool := false
  rebuild : Bool := false
  wiping : Bool := false
  deriving DecidableEq, Repr

/-- A tile fill (R333), or the whole tile of a pattern FILL (R338): writes issued and writes that reached the ordering
point. -/
structure TileFill where
  tile : Nat
  pond : Nat
  cls : Nat
  issued : Nat := 0
  ordered : Nat := 0
  pattern : Option (BitVec 64) := none
  deriving DecidableEq, Repr

/-- The other work of the fill engine (R338, R339, R170): blocks still to write, from `next` to `stop`. -/
structure FillJob where
  opcode : Nat
  pond : Nat
  first : Nat
  next : Nat
  stop : Nat
  pattern : BitVec 64 := 0
  isPattern : Bool := false
  poison : Bool := false
  covered : Nat := 0
  pending : Nat := 0
  started : Nat := 0
  stopped : Bool := false
  deriving DecidableEq, Repr

/-- The walk of the dredge over one pond (R342 to R346). -/
structure Dredge where
  wfReady : Bool := false
  passes : Nat := 0
  cursor : Nat := 0
  passStart : Int := 0
  waitNext : Bool := false
  read : Nat := 0
  corrected : Nat := 0
  poisoned : Nat := 0
  bad : Nat := 0
  unwritten : Nat := 0
  deriving DecidableEq, Repr

/-- A VALID line of a normal or locked way (R355). `wb` is the writeback in flight, `dirtyAt` the block time at
which the line became dirty, `newer` says that it was written after its writeback was issued, and `age` holds the DIRTY_AGE that
the line became dirty under where it has changed since (R369). -/
structure Line where
  blk : Nat
  data : Block512
  dirty : Bool := false
  poison : Bool := false
  wb : Option Nat := none
  newer : Bool := false
  dirtyAt : Int := 0
  age : Option Nat := none
  deriving DecidableEq, Repr

/-- A line fill in flight (R359 to R361): the slot it fills, if any, and the requests that joined, in order. -/
structure LineFill where
  id : Nat
  blk : Nat
  pond : Nat
  slot : Option Nat
  waiters : List Nat
  prefetch : Bool := false
  preload : Option Nat := none
  superseded : Bool := false
  dropAfter : Bool := false
  deriving DecidableEq, Repr

/-- A way conversion in progress (R371, R372). -/
structure Conv where
  mask : Nat
  mode : Nat
  written : Nat := 0
  deriving DecidableEq, Repr

/-- The block cache and the shallows (R355, R363, R364, R373, R376, R378). `lines` is keyed by 16 x set + way,
`scratch` by way x 2^20 + offset. -/
structure Cache where
  lines : List (Nat × Line) := []
  pl : Tab Nat := []
  shallows : List Line := []
  fills : List LineFill := []
  waitFill : List Nat := []
  waitVictim : List Nat := []
  victimSince : Nat := 0
  stallTold : Bool := false
  scratch : List Host.Cell := []
  scratchPoison : List Nat := []
  conv : Option Conv := none
  disabling : Option Nat := none
  relock : Option Nat := none
  relockCause : Nat := 0
  relockLoaded : Nat := 0
  relockMoved : Nat := 0
  relockRuns : Nat := 0
  relockStart : Nat := 0
  deriving DecidableEq, Repr

/-- A recorded preload range, record 0x0E01 (R375). -/
structure Preload where
  first : Nat
  count : Nat
  way : Nat
  deriving DecidableEq, Repr

/-! ### Packets, sluice, modes, image, log, counters -/

/-- An entry of a clamp report (R142). -/
structure RepEnt where
  record : Nat
  inst : Nat
  field : Nat
  reason : Nat
  requested : Nat
  applied : Nat
  deriving DecidableEq, Repr

/-- A packet in the queue of the control sequencer (R118), with the bytes taken; `late` says that it arrived after its slot
began to detach (R129). -/
structure QPkt where
  src : Src
  pkt : Packet
  bytes : Nat
  parityBad : Bool := false
  late : Bool := false
  deriving DecidableEq, Repr

/-- A long packet in progress, with the objects that it holds and what its engine counts (R120, R121). -/
structure LongOp where
  src : Src
  pkt : Packet
  objs : List Nat := []
  n : Nat := 0
  m : Nat := 0
  detail : Nat := 0
  next : Nat := 0
  blks : List Nat := []
  report : List RepEnt := []
  started : Nat := 0
  deriving DecidableEq, Repr

/-- A reply that waits for reply credits or for room in the receive FIFO (R55, R59), with the objects that its packet holds until
it is sent (R121). `busy` replies hold no queue entry. -/
structure Reply where
  src : Src
  pkt : Packet
  busy : Bool := false
  objs : List Nat := []
  deriving DecidableEq, Repr

/-- An open transaction (R137, R138): staged bytes of each record and instance, by byte offset. -/
structure Txn where
  src : Src
  id : Nat
  staged : List (Nat × Nat × Tab Nat) := []
  bytes : Nat := 0
  last : Nat := 0
  deriving DecidableEq, Repr

/-- The packet service (R118 to R138). -/
structure Pkts where
  queue : List QPkt := []
  ops : List LongOp := []
  replies : List Reply := []
  txns : List Txn := []
  evq : List (Src × EvPkt) := []
  resetDue : Bool := false
  detachers : List (Nat × Src × Packet) := []
  deriving DecidableEq, Repr

/-- The sluice engine (R185 to R192). `leadIn` holds until the list's next boundary `boundary`. -/
structure Sluice where
  running : Bool := false
  leadIn : Bool := false
  boundary : Int := 0
  deriving DecidableEq, Repr

/-- RESTORE in progress (R388) and its record (R414). `up` says that bring-up has begun, `upDone` and `camDone` are masks of
the channels that it is done with and whose CAM has been rebuilt since the reset, and `late` holds the report entries of
R293, R313 and R352, as rules 0, 1 and 2, with their channel (R413). -/
structure Restore where
  imageDone : Bool := false
  seedDone : Bool := false
  discovered : Bool := false
  up : Bool := false
  upDone : Nat := 0
  camDone : Nat := 0
  late : List (Nat × Nat × RepEnt) := []
  since : Nat := 0
  durationUs : Nat := 0
  ended : Mode := .off
  bootAtEnd : Nat := 0
  deriving DecidableEq, Repr

/-- One DIMM identity of the image (R409). -/
structure DimmId where
  identity : Nat := 0
  present : Bool := false
  devType : Nat := 0
  deriving DecidableEq, Repr

/-- A record of the sparing map (R351). -/
structure SpareRec where
  identity : Nat
  repaired : Bool
  sc : Nat
  dimmRank : Nat
  cid : Nat
  bg : Nat
  ba : Nat
  row : Nat
  spare : Nat
  deriving DecidableEq, Repr

/-- A retained image (R407 to R411), less the bytes that its parts fix. -/
structure Image where
  rev : Nat
  serial : Nat
  saveSeq : Nat
  saveTime : BitVec 64
  dimms : List DimmId
  cfg : Tab Nat
  spares : List SpareRec
  deriving DecidableEq, Repr

/-- DORMANT entry and exit in progress (R400 to R403); `since` is the ns at which the change began, and `op` says that MODE_SET began
the exit. -/
inductive Dorm where
  | none
  | entering (src : Src)
  | replying (since : Nat)
  | asleep
  | clocked
  | leaving (op : Bool) (since : Nat)
  deriving DecidableEq, Repr

/-- A life-cycle wipe in progress (R340): the state before, and the ns at which it began. -/
structure Wipe where
  old : Lc
  since : Nat := 0
  deriving DecidableEq, Repr

/-- Suppressed occurrences of a code in the window (R421, R422). -/
structure Supp where
  count : Nat
  firstTs : BitVec 64
  lastTs : BitVec 64
  deriving DecidableEq, Repr

/-- The silt log (R416 to R428). BUDGET and WINDOW are held as in force for the window in progress. -/
structure Log where
  recs : List LogRec := []
  nextSeq : Nat := 0
  used : Tab Nat := []
  supp : List (Nat × Supp) := []
  occ : Tab Nat := []
  evicted : List Nat := [0, 0, 0, 0]
  discarded : List Nat := [0, 0, 0, 0]
  budget : Tab Nat := []
  windowMs : Nat := 1
  deriving DecidableEq, Repr

/-- The tail being written (R429 to R431): its 4,096 bytes, whether it started before its warning ended. -/
structure Tail where
  bytes : List Byte
  records : Nat
  size : Nat
  modeBits : Nat
  deriving DecidableEq, Repr

/-- Counters (R435 to R444). `prog` is keyed by 8 x set + i, `vis` by 32 x slot + k, `arb` by
8 x (256 x channel + requester) + k; OVF words by set number. -/
structure Ctr where
  cycle0 : Nat := 0
  prog : Tab Nat := []
  ovf : Tab Nat := []
  vis : Tab Nat := []
  arb : Tab Nat := []
  deriving DecidableEq, Repr

/-- The soundings (R445 to R451). -/
structure Snd where
  buf : List (Nat × Block512) := []
  hold : List Block512 := []
  writeIndex : Nat := 0
  stopped : Bool := false
  wrapped : Bool := false
  records : Nat := 0
  lost : Nat := 0
  sampled : Nat := 0
  lfsr : BitVec 32 := 1
  countdown : Nat := 1
  deriving DecidableEq, Repr

/-- Figures STATUS_READ reports (R414) and flags of modes (R386, R391); `dredgeAt` is the ns at which the dredge's time stopped
(R343), `reportAt` APPLY_TIME of the restore report (R413) and `resetMode` the mode at the last reset (R415). -/
structure Stat where
  force : Bool := false
  lastReset : ResetKind := .powerOn
  modeAt : BitVec 64 := 0
  savedSince : Bool := true
  resetMode : Mode := .off
  dredgeAt : Nat := 0
  reportAt : BitVec 64 := 0
  dieHold : Bool := false
  dieWarned : Bool := false
  deriving DecidableEq, Repr

/-- The block: everything but the queue of commands. `cfg` is the live configuration, a table of the fields that
differ from their defaults; `free` counts the free values drawn. -/
structure Block where
  clk : Clk := {}
  pins : Pins := {}
  net : Net := {}
  mode : Mode := .off
  drain : Bool := false
  lc : Lc := .factory
  boot : Boot := {}
  mgmt : Mgmt := {}
  dbg : Dbg := {}
  inlets : List Inlet := [{}, {}, {}, {}]
  slots : Tab Slot := []
  recips : Tab Recip := []
  reqs : List Req := []
  nextId : Nat := 0
  chans : List Chan := [{}, {}, {}, {}, {}, {}, {}, {}]
  ponds : Tab PondRt := []
  tiles : Tab Bool := []
  tileFills : List TileFill := []
  tileWait : List TileFill := []
  jobs : List FillJob := []
  dredge : Tab Dredge := []
  poisonPending : List Nat := []
  cache : Cache := {}
  preloads : List (Nat × Preload) := []
  keys : List (BitVec 128) := List.replicate 16 0
  cfg : Tab Nat := []
  pkts : Pkts := {}
  sluice : Sluice := {}
  restore : Restore := {}
  report : List RepEnt := []
  ids : List DimmId := []
  spares : List SpareRec := []
  ret : Option Image := none
  dorm : Dorm := .none
  wipe : Option Wipe := none
  log : Log := {}
  tail : Option Tail := none
  ctr : Ctr := {}
  snd : Snd := {}
  stat : Stat := {}
  free : Nat := 0
  deriving DecidableEq, Repr

/-- The state: the block and the queue of the commands that wait, first in first out. -/
structure State where
  pending : List Instr
  blk : Block
  deriving DecidableEq, Repr

/-- The block before its first command (R38, R58; log entry 3 names the values the manual does not state). -/
def State.reset : State := { pending := [], blk := {} }

end Sys2Proof.Machine
end

