-- ==== Sys2Proof/Machine/Ops.lean ====
section
/-! DEFINITION. The named operations over the state: sparse tables, channels and inlets, live configuration,
programmable counters, clocks and time. -/

namespace Sys2Proof.Machine

/-! ### Sparse tables -/

/-- The value at key `k`, or the default `d`. -/
def tget {α : Type} (d : α) : Tab α → Nat → α
  | [], _ => d
  | (i, v) :: t, k => if k == i then v else tget d t k

/-- The table with value `v` at key `k`; writing the default removes the entry. -/
def tput {α : Type} [DecidableEq α] (d : α) : Tab α → Nat → α → Tab α
  | [], k, v => if v = d then [] else [(k, v)]
  | (i, w) :: t, k, v =>
    if k < i then (if v = d then (i, w) :: t else (k, v) :: (i, w) :: t)
    else if k = i then (if v = d then t else (k, v) :: t)
    else (i, w) :: tput d t k v

/-- The table with `g` applied at key `k`. -/
def tmod {α : Type} [DecidableEq α] (d : α) (t : Tab α) (k : Nat) (g : α → α) : Tab α :=
  tput d t k (g (tget d t k))

/-- The table less the keys from `lo` up to, not including, `hi`. -/
def tclear {α : Type} (t : Tab α) (lo hi : Nat) : Tab α := t.filter (fun e => e.1 < lo || hi ≤ e.1)

/-- Keys of an association list rise strictly. -/
def risingKeys {α : Type} : List (Nat × α) → Bool
  | [] => true
  | [_] => true
  | a :: b :: t => decide (a.1 < b.1) && risingKeys (b :: t)

/-- The canonical form of a table: keys rise strictly and no entry equals the default. -/
def twf {α : Type} [DecidableEq α] (d : α) (t : Tab α) : Bool :=
  risingKeys t && t.all (fun e => !decide (e.2 = d))

/-- The entry at key `k` of an association list in rising order. -/
def aget {α : Type} (t : List (Nat × α)) (k : Nat) : Option α := (t.find? (fun e => e.1 == k)).map (·.2)

/-- The association list with `v` at key `k`. -/
def aput {α : Type} : List (Nat × α) → Nat → α → List (Nat × α)
  | [], k, v => [(k, v)]
  | (i, w) :: t, k, v =>
    if k < i then (k, v) :: (i, w) :: t else if k = i then (k, v) :: t else (i, w) :: aput t k v

/-- The association list less key `k`. -/
def adel {α : Type} (t : List (Nat × α)) (k : Nat) : List (Nat × α) := t.filter (fun e => !(e.1 == k))

/-! ### The scratch ways' memory (R373) -/

/-- The byte at an address of the scratch ways; a byte never written reads zero (R382). -/
def Memory.read (m : List Host.Cell) (a : Nat) : Byte := tget 0 m a

/-- The memory with byte `v` at address `a`. -/
def Memory.write (m : List Host.Cell) (a : Nat) (v : Byte) : List Host.Cell := tput 0 m a v

/-- The canonical form of a memory: addresses rise strictly and no listed byte is zero. -/
def Memory.wf (m : List Host.Cell) : Bool := twf 0 m

/-- Byte `k` of a block (R9, R13). -/
def blockByte (d : Block512) (k : Nat) : Byte := d.extractLsb' (8 * k) 8

/-- The memory with the bytes of block `d` that the mask selects written at the block that starts at `a` (R98). -/
def Memory.writeBlock (m : List Host.Cell) (a : Nat) (d : Block512) (mask : BitVec 64) : List Host.Cell :=
  (List.range 64).foldl (fun m k => if mask.getLsbD k then Memory.write m (a + k) (blockByte d k) else m) m

/-- The block whose byte `k` is `f k`. -/
def blockOf (bytes : List Byte) : Block512 :=
  BitVec.ofNat 512 ((bytes.reverse).foldl (fun n b => n * 256 + b.toNat) 0)

/-- The block of 64 bytes that starts at address `a`. -/
def Memory.readBlock (m : List Host.Cell) (a : Nat) : Block512 :=
  blockOf ((List.range 64).map (fun k => Memory.read m (a + k)))

/-- The mask of a block whose selected bytes are ones (R98). -/
def maskBits (mask : BitVec 64) : Block512 :=
  blockOf ((List.range 64).map (fun k => if mask.getLsbD k then 255 else 0))

/-- The block with the selected bytes of `new` over `old` (R98). -/
def mergeBlock (old new : Block512) (mask : BitVec 64) : Block512 :=
  (new &&& maskBits mask) ||| (old &&& ~~~ (maskBits mask))

/-! ### Parts of the block -/

/-- Channel `c`. -/
def Block.chan (b : Block) (c : Nat) : Chan := b.chans.getD c {}

/-- The block with `g` applied to channel `c`. -/
def Block.modChan (b : Block) (c : Nat) (g : Chan → Chan) : Block := { b with chans := b.chans.modify c g }

/-- Queue `q` of a channel. -/
def Chan.queue (ch : Chan) (q : Nat) : Queue := ch.queues.getD q {}

/-- The channel with `g` applied to queue `q`. -/
def Chan.modQueue (ch : Chan) (q : Nat) (g : Queue → Queue) : Chan := { ch with queues := ch.queues.modify q g }

/-- The block with `g` applied to queue `q` of channel `c`. -/
def Block.modQueue (b : Block) (c q : Nat) (g : Queue → Queue) : Block := b.modChan c (fun ch => ch.modQueue q g)

/-- Inlet `i`. -/
def Block.inlet (b : Block) (i : Nat) : Inlet := b.inlets.getD i {}

/-- The block with `g` applied to inlet `i`. -/
def Block.modInlet (b : Block) (i : Nat) (g : Inlet → Inlet) : Block := { b with inlets := b.inlets.modify i g }

/-- Requester slot `s`. -/
def Block.slot (b : Block) (s : Nat) : Slot := tget {} b.slots s

/-- The block with `g` applied to slot `s`. -/
def Block.modSlot (b : Block) (s : Nat) (g : Slot → Slot) : Block := { b with slots := tmod {} b.slots s g }

/-- What the block keeps of pond `p` beside its record. -/
def Block.pondRt (b : Block) (p : Nat) : PondRt := tget {} b.ponds p

/-- The block with `g` applied to pond `p`. -/
def Block.modPond (b : Block) (p : Nat) (g : PondRt → PondRt) : Block := { b with ponds := tmod {} b.ponds p g }

/-- The request in flight with number `id`. -/
def Block.req? (b : Block) (id : Nat) : Option Req := b.reqs.find? (fun r => r.id == id)

/-- The block with `g` applied to the request with number `id`. -/
def Block.modReq (b : Block) (id : Nat) (g : Req → Req) : Block :=
  { b with reqs := b.reqs.map (fun r => if r.id == id then g r else r) }

/-- The block with `g` applied to the sounding of the request with number `id`, if any. -/
def Block.modSnd (b : Block) (id : Option Nat) (g : Sound → Sound) : Block :=
  match id with
  | none => b
  | some k => b.modReq k (fun r => { r with snd := g r.snd })

/-! ### Live configuration (R15, R142) -/

/-- The key of a field in the live configuration. -/
def cfgKey (id inst bit : Nat) : Nat := id * 2 ^ 28 + inst * 2 ^ 16 + bit

/-- The value of a field in a configuration table: its default where the table does not list it. -/
def cfgGet (t : Tab Nat) (id inst bit : Nat) : Nat :=
  match aget t (cfgKey id inst bit) with
  | some v => v
  | none => fieldDefault id inst bit

/-- The configuration table with a field set. -/
def cfgSet (t : Tab Nat) (id inst bit v : Nat) : Tab Nat :=
  if v = fieldDefault id inst bit then adel t (cfgKey id inst bit) else aput t (cfgKey id inst bit) v

/-- The live value of a field. -/
def Block.f (b : Block) (id inst bit : Nat) : Nat := cfgGet b.cfg id inst bit

/-- The block with a live field set. -/
def Block.setF (b : Block) (id inst bit v : Nat) : Block := { b with cfg := cfgSet b.cfg id inst bit v }

/-- A one-bit field reads 1. -/
def Block.flag (b : Block) (id inst bit : Nat) : Bool := b.f id inst bit == 1

/-- The record is at its defaults in the table. -/
def cfgReset (t : Tab Nat) (id inst : Nat) : Tab Nat :=
  t.filter (fun e => !(e.1 / 2 ^ 16 == id * 2 ^ 12 + inst))

/-! ### Mode and service -/

/-- The block is in SERVE or DEGRADED. -/
def Block.serving (b : Block) : Bool := b.mode == .serve || b.mode == .degraded

/-- MW_MODE.MODE (R58). -/
def Mode.code : Mode → Nat
  | .off => 0 | .restore => 1 | .commission => 2 | .serve => 3 | .degraded => 4 | .dormant => 5

/-- LIFE_CYCLE (R70). -/
def Lc.code : Lc → Nat
  | .factory => 0 | .deployed => 1 | .retired => 2

/-- LC_STATE as taken: 11 is taken as RETIRED (R70). -/
def Lc.ofBits (v : BitVec 2) : Lc := if v = 0 then .factory else if v = 1 then .deployed else .retired

/-- Channel `c` reads state 3 or 4 of MW_CHANNEL_STATUS. -/
def Block.chanServes (b : Block) (c : Nat) : Bool := (b.chan c).state == 3 || (b.chan c).state == 4

/-- IN_USE of record 0x0100 (R307). -/
def Block.inUse (b : Block) (c : Nat) : Bool := b.flag 0x0100 c 0

/-- GENERATION of record 0x0100 is DDR4 (R307). -/
def Block.ddr4 (b : Block) (c : Nat) : Bool := b.flag 0x0100 c 1

/-- Half the burst length (R239). -/
def Block.bl2 (b : Block) (c : Nat) : Nat := if b.ddr4 c then 4 else 8

/-- The divider N of channel `c` (R307). -/
def Block.divider (b : Block) (c : Nat) : Nat := b.f 0x0100 c 8

/-- Physical ranks of channel `c`, per subchannel on DDR5 (R306). -/
def Block.ranks (b : Block) (c : Nat) : Nat :=
  (if b.flag 0x0100 c 2 then 2 else 1) * 2 ^ b.f 0x0100 c 6

/-- Rank units of channel `c` in use (R249). -/
def Block.units (b : Block) (c : Nat) : Nat := if b.ddr4 c then b.ranks c else 2 * b.ranks c

/-- The rank unit of a rank and subchannel (R249). -/
def Block.unitOf (b : Block) (c rank sc : Nat) : Nat := if b.ddr4 c then rank else 2 * rank + sc

/-- The queue that serves a subchannel (R214). -/
def Block.queueOf (b : Block) (c sc : Nat) : Nat := if b.ddr4 c then 0 else sc

/-- Entries per queue (R214). -/
def Block.queueSize (b : Block) (c : Nat) : Nat := if b.ddr4 c then 256 else 128

/-! ### Programmable counters (R436, R439 to R441) -/

/-- The counter set holds a select word that is not all default. -/
def Block.hasSelect (b : Block) (set : Nat) : Bool :=
  b.cfg.any (fun e => if set == 0 then e.1 / 2 ^ 28 == 0x1000 else e.1 / 2 ^ 16 == 0x1001 * 2 ^ 12 + (set - 1))

/-- The OVF word with a bit set. -/
def setBit (w k : Nat) : Nat := w ||| 2 ^ k

/-- Adds `n` occurrences of event `ev` to counter `i` of `set`, where its select word counts them (R439). A filter
that is `none` does not apply to the event. -/
def Block.count1 (b : Block) (set ev : Nat) (cls rq sc : Option Nat) (n i : Nat) : Block :=
  let id := if set == 0 then 0x1000 else 0x1001
  let inst := set - 1
  let sel := b.f id inst (32 * i)
  let mask := b.f id inst (32 * i + 8)
  let en := b.f id inst (32 * i + 24)
  let who := b.f id inst (32 * i + 16)
  let sub := b.f id inst (32 * i + 25)
  let clsOk := match cls with | none => true | some k => mask == 0 || mask.testBit k
  let rqOk := match rq with | none => true | some r => en == 0 || who == r
  let scOk := match sc with | none => true | some q => set == 0 || sub == 0 || sub == q + 1
  if sel == ev && clsOk && rqOk && scOk && !(n == 0) then
    let v := tget 0 b.ctr.prog (8 * set + i) + n
    { b with ctr := { b.ctr with
        prog := tput 0 b.ctr.prog (8 * set + i) (v % 2 ^ 48)
        ovf := if v < 2 ^ 48 then b.ctr.ovf else tmod 0 b.ctr.ovf set (fun w => setBit w i) } }
  else b

/-- Counts an event of set 0 (R440). -/
def Block.count (b : Block) (ev : Nat) (cls rq : Option Nat) (n : Nat) : Block :=
  if b.hasSelect 0 then (List.range 8).foldl (fun b i => b.count1 0 ev cls rq none n i) b else b

/-- Counts an event of channel `c` (R441). The subchannel filter is ignored on DDR4; an unused channel counts nothing. -/
def Block.countC (b : Block) (c ev : Nat) (cls rq sc : Option Nat) (n : Nat) : Block :=
  if b.hasSelect (c + 1) && b.inUse c then
    (List.range 8).foldl (fun b i => b.count1 (c + 1) ev cls rq (if b.ddr4 c then none else sc) n i) b
  else b

/-! ### Clocks and time -/

/-- cclk frequency in Hz at this root (R34). -/
def Clk.hz (k : Clk) : Nat := k.rootMhz * 125000

/-- `n` cclk expressed in ns, rounded down. -/
def Clk.cclkNs (k : Clk) (n : Nat) : Nat := n * 8000 / k.rootMhz

/-- The clock after `dt` ticks: cclk where the root PLL runs, and otherwise always-on clocks of 40 ns. -/
def Clk.advance (k : Clk) (dt : Nat) : Clk :=
  if k.pll then
    let x := k.frac + 8000 * dt
    { k with cclk := k.cclk + dt, ns := k.ns + x / k.rootMhz, frac := x % k.rootMhz }
  else { k with ns := k.ns + 40 * dt }

/-- Inlets in which a response is ready and no response credit is held (R440, RSP_CREDIT_STALL). -/
def Block.stalledInlets (b : Block) : Nat :=
  ((List.range 4).filter (fun i =>
    (b.inlet i).rspCred == 0 && b.reqs.any (fun r => r.stage == .ready && r.inlet.map (·.val) == some i))).length

/-- `dt` ticks pass: clocks run and the counters that count time add them up (R440, R441). -/
def Block.advance (b : Block) (dt : Nat) : Block :=
  let n := if b.clk.pll then dt else 0
  let b := b.count 0x12 none none (n * b.stalledInlets)
  let b := if b.drain then b.count 0x13 none none n else b
  let b := (List.range 8).foldl
    (fun b c => if (b.chan c).wait.length < 512 then b else b.countC c 0x12 none none none n) b
  { b with clk := b.clk.advance dt }

/-- Block time in ns (R185). -/
def Block.blockTime (b : Block) : Int := b.clk.ns + b.net.blkOff

/-- Network time, or the local counter that continues it (R65, R418). -/
def Block.netTime (b : Block) : Int := b.clk.ns + b.net.off

/-- The time that MW_TIME, APPLY_TIME and timestamps use, with TIME_VALID (R418). -/
def Block.stamp (b : Block) : Int × Bool :=
  if b.serving then (b.blockTime, b.net.timeValid)
  else if b.clk.pll then (b.netTime, b.net.valid)
  else (b.blockTime, false)

/-- `stamp` as a 64-bit word. -/
def Block.stamp64 (b : Block) : BitVec 64 := BitVec.ofInt 64 b.stamp.1

/-- A fresh number for a request. -/
def Block.fresh (b : Block) : Nat × Block := (b.nextId, { b with nextId := b.nextId + 1 })

/-- A meaning that changes the block alone: every command answers a next state and leaves the queue. -/
def State.run (s : State) (g : Block → Block) : Host.Outcome State Fault Refusal := .next { s with blk := g s.blk }

end Sys2Proof.Machine
end

