-- ==== Sys2Proof/Machine/Flags.lean ====
section
/-! DEFINITION. Status codes, parity, the response header, and the arithmetic that sets condition bits. -/

namespace Sys2Proof.Machine

/-! ### Status codes (R105) -/

def stOk : Nat := 0x00
def stCorrected : Nat := 0x01
def stUnwritten : Nat := 0x02
def stPoison : Nat := 0x10
def stErrorCommand : Nat := 0x11
def stErrorInternal : Nat := 0x12
def stThrottled : Nat := 0x20
def stNotReady : Nat := 0x21
def stShed : Nat := 0x22
def stBusy : Nat := 0x23
def stCancelled : Nat := 0x24
def stAccessDenied : Nat := 0x30
def stWriteProtected : Nat := 0x31
def stAddressInvalid : Nat := 0x32
def stPondLost : Nat := 0x33
def stBadRequest : Nat := 0x34
def stUnsupported : Nat := 0x35
def stClamped : Nat := 0x40
def stRejected : Nat := 0x41
def stPrivilege : Nat := 0x42
def stWrongMode : Nat := 0x43

/-- The code that a Grenel 1 requester receives: the high four bits of the full code (R107). -/
def mapped (st : Nat) : Nat := st / 16 * 16

/-- The response to a READ with this status carries data (R86). -/
def carriesData (op : Op) (st : Nat) : Bool :=
  op == .read && (st == stOk || st == stCorrected || st == stUnwritten)

/-- The XOR of the low `w` bits of a number. -/
def parityBits (w x : Nat) : Bool := popcount w x % 2 == 1

/-- The number of ones is even (R82, R85). -/
def evenParity (w x : Nat) : Bool := popcount w x % 2 == 0

/-- LATENCY: cclk in units of 8, saturating at 0xFFFF (R86). -/
def latencyField (cclk : Nat) : Nat := min (cclk / 8) 0xFFFF

/-- The response header without parity, for a requester of Grenel level `lvl` (R85). -/
def rspBits (lvl : Nat) (r : Req) (latency : Nat) : Nat :=
  let st := if lvl ≤ 1 then mapped r.status else r.status
  let g2 := if lvl ≤ 1 then 0 else
    (if r.cancelHit then 2 ^ 29 else 0) + r.served * 2 ^ 32
  let g3 := if lvl ≤ 2 then 0 else
    (if r.snd.sampled then 2 ^ 30 else 0) + (if r.cacheHit then 2 ^ 35 else 0) + latencyField latency * 2 ^ 48
  st + r.tag * 2 ^ 8 + r.requester * 2 ^ 19 + (if r.rdata.isSome then 2 ^ 27 else 0) +
    (if r.dup then 2 ^ 28 else 0) + g2 + g3

/-- The 64-bit response header with RSP_PARITY (R85). -/
def rspHeader (lvl : Nat) (r : Req) (latency : Nat) : BitVec 64 :=
  let x := rspBits lvl r latency
  BitVec.ofNat 64 (if evenParity 64 x then x else x + 2 ^ 31)

/-! ### Saturating and wrapping counters -/

/-- A 32-bit counter that saturates (R56, R428, R451). -/
def sat32 (x : Nat) : Nat := min x 0xFFFFFFFF

/-- Rounds a quotient half away from zero (R327). -/
def roundHalfAway (num : Int) (den : Nat) : Int :=
  if 0 ≤ num then (2 * num + den) / (2 * den) else -((2 * (-num) + den) / (2 * den))

/-- The remainder in 0 to c - 1 (R185). -/
def modFloor (x : Int) (c : Nat) : Int := x % (c : Int)

/-- CRC-32 of IEEE 802.3, one byte into the running register (R408). -/
def crc32Byte (c : BitVec 32) (x : Byte) : BitVec 32 :=
  (List.range 8).foldl
    (fun c _ => if c.getLsbD 0 then (c >>> 1) ^^^ 0xEDB88320#32 else c >>> 1) (c ^^^ x.zeroExtend 32)

/-- CRC-32 of a list of bytes (R408). -/
def crc32 (bs : List Byte) : BitVec 32 := ~~~ (bs.foldl crc32Byte 0xFFFFFFFF#32)

/-- The lottery and sampling LFSR, one step (R200). -/
def lfsrStep (s : BitVec 32) : BitVec 32 :=
  let n := (s.getLsbD 31 ^^ s.getLsbD 21) ^^ (s.getLsbD 1 ^^ s.getLsbD 0)
  (s <<< 1) ||| (BitVec.ofBool n).zeroExtend 32

/-- A zero seed is clamped to 1 (R71, R446). -/
def nonzeroSeed (s : BitVec 32) : BitVec 32 := if s = 0 then 1 else s

end Sys2Proof.Machine
end

