-- ==== Sys2Proof/Machine/Operands.lean ====
section
/-! DEFINITION. Operand forms: the request header, packets as flits, words and bytes, and payloads. -/

namespace Sys2Proof.Machine

/-! ### Bytes -/

/-- The `n` little-endian bytes of a number (R9). -/
def leBytes (n x : Nat) : List Byte := (List.range n).map (fun k => BitVec.ofNat 8 (x / 256 ^ k))

/-- The number that little-endian bytes spell (R9). -/
def leNat : List Byte → Nat
  | [] => 0
  | b :: t => b.toNat + 256 * leNat t

/-- Bytes padded with zeros to a multiple of `n`. -/
def padTo (n : Nat) (bs : List Byte) : List Byte :=
  bs ++ List.replicate ((n - bs.length % n) % n) 0

/-- A payload or body of fields, each given by its width in bytes and value, aligned to its width (R432). -/
def encFields (fs : List (Nat × Nat)) : List Byte :=
  fs.foldl (fun acc f => padTo f.1 acc ++ leBytes f.1 f.2) []

/-- A signed value of `n` bytes in two's complement (R432). -/
def twos (n : Nat) (x : Int) : Nat := (x % ((256 ^ n : Nat) : Int)).toNat

/-! ### The request header (R82) -/

/-- A request header as the block reads it. -/
structure Hdr where
  op : Nat
  cls : Nat
  requester : Nat
  tag : Nat
  addr : Nat
  noAlloc : Bool
  force : Bool
  parityOk : Bool
  deriving DecidableEq, Repr

/-- The fields of a 128-bit request header (R82, R83). -/
def parseHdr (h : BitVec 128) : Hdr :=
  let x := h.toNat
  { op := bitsOf x 0 4, cls := bitsOf x 4 3, requester := bitsOf x 8 8, tag := bitsOf x 16 11,
    addr := bitsOf x 32 38, noAlloc := h.getLsbD 70, force := h.getLsbD 71, parityOk := evenParity 128 x }

/-- The OP encoding (R80). -/
def Op.code : Op → Nat
  | .read => 0 | .writeFull => 1 | .writePartial => 2 | .cancel => 3 | .fence => 4

/-- The operation of an OP value; none where it is reserved (R80). -/
def Op.ofCode : Nat → Option Op
  | 0 => some .read | 1 => some .writeFull | 2 => some .writePartial | 3 => some .cancel | 4 => some .fence
  | _ => none

/-- The header of a request presented with correct parity. -/
def hdrOf (op : Op) (h : ReqHdr) : Hdr :=
  { op := op.code, cls := h.cls.toNat, requester := h.requester.toNat, tag := h.tag.toNat,
    addr := h.addr.toNat, noAlloc := h.noAlloc, force := h.forceSound, parityOk := true }

/-- The 128-bit header that spells these fields, parity included (R82). -/
def encodeHdr (op : Op) (h : ReqHdr) : BitVec 128 :=
  let x := op.code + h.cls.toNat * 2 ^ 4 + h.requester.toNat * 2 ^ 8 + h.tag.toNat * 2 ^ 16 +
    h.addr.toNat * 2 ^ 32 + (if h.noAlloc then 2 ^ 70 else 0) + (if h.forceSound then 2 ^ 71 else 0)
  BitVec.ofNat 128 (if evenParity 127 x then x else x + 2 ^ 127)

/-- The level that first allows an operation and its hints (R80, R81). -/
def Hdr.level (h : Hdr) : Nat :=
  if h.noAlloc || h.force then 3 else if h.op ≤ 1 then 1 else 2

/-! ### Packets (R112) -/

/-- The 16 header bytes of a packet (R112). -/
def packetHead (p : Packet) : List Byte :=
  let flags := p.level.toNat + (if p.reply then 16 else 0) + (if p.event then 32 else 0) + p.rsvd.toNat * 64
  [BitVec.ofNat 8 flags, p.opcode, p.length, p.requester, p.status, p.detail] ++
    leBytes 2 p.seq.toNat ++ leBytes 8 p.param0.toNat

/-- The bytes of a packet: header and body (R112, R113). -/
def packetBytes (p : Packet) : List Byte := packetHead p ++ p.body

/-- The packet that bytes spell; missing header bytes read zero. -/
def packetOf (bs : List Byte) : Packet :=
  let g := fun k => (bs.getD k 0)
  let b0 := g 0
  { level := b0.extractLsb' 0 4, reply := b0.getLsbD 4, event := b0.getLsbD 5, rsvd := b0.extractLsb' 6 2,
    opcode := g 1, length := g 2, requester := g 3, status := g 4, detail := g 5,
    seq := BitVec.ofNat 16 (leNat ((bs.drop 6).take 2)), param0 := BitVec.ofNat 64 (leNat ((bs.drop 8).take 8)),
    body := bs.drop 16 }

/-- The bytes of a command flit, byte 0 in bits [7:0] (R53). -/
def flitBytes (f : BitVec 128) : List Byte := leBytes 16 f.toNat

/-- The bytes of a management word, least significant first (R59). -/
def wordBytes (w : BitVec 32) : List Byte := leBytes 4 w.toNat

/-- The words that carry bytes, four to a word (R59). -/
def bytesWords : List Byte → List (BitVec 32)
  | a :: b :: c :: d :: t => BitVec.ofNat 32 (leNat [a, b, c, d]) :: bytesWords t
  | [] => []
  | t => [BitVec.ofNat 32 (leNat t)]

/-- A field of PARAM0. -/
def pP0 (p : Packet) (lo w : Nat) : Nat := bitsOf p.param0.toNat lo w

/-- The number in bytes `off` to `off + n - 1` of the body. -/
def pBody (p : Packet) (off n : Nat) : Nat := leNat ((p.body.drop off).take n)

/-- Length of a packet in 8-byte units for a body of `n` bytes (R113). -/
def unitsOf (n : Nat) : Nat := (16 + n) / 8

/-- The number of a source in payloads (R432). -/
def srcNum : Src → Nat
  | .mgmt => 0
  | .inlet i => i.val + 1

/-- Coordinates in the form of PARAM0 (R133), CHANNEL included. -/
def Coord.param (c : Coord) : Nat :=
  c.chan + c.sc * 2 ^ 3 + c.rank * 2 ^ 4 + c.cid * 2 ^ 6 + c.bg * 2 ^ 9 + c.ba * 2 ^ 12 + c.row * 2 ^ 14

/-- The coordinates in PARAM0 (R133). -/
def coordOfParam (x : Nat) : Coord :=
  { chan := bitsOf x 0 3, sc := bitsOf x 3 1, rank := bitsOf x 4 2, cid := bitsOf x 6 3, bg := bitsOf x 9 3,
    ba := bitsOf x 12 2, row := bitsOf x 14 18 }

/-! ### The clamp report (R142) -/

/-- A value of the entry's field in the 32 bits of REQUESTED or APPLIED, which hold every value in full (R143): a DRIFT_ADJ, the one
clamped field in two's complement, is extended by its sign. -/
def RepEnt.full (e : RepEnt) (x : Nat) : Nat :=
  if (recFields e.record e.inst).any (fun f => f.bit == e.field && decide (f.oor = .drift)) && 128 ≤ x && x < 256 then x + (2 ^ 32 - 2 ^ 8)
  else x

/-- The 16 bytes of a report entry (R142). -/
def RepEnt.bytes (e : RepEnt) : List Byte :=
  leBytes 2 e.record ++ leBytes 2 e.inst ++ leBytes 2 e.field ++ leBytes 1 e.reason ++ [0] ++
    leBytes 4 (e.full e.requested) ++ leBytes 4 (e.full e.applied)

/-- Entries with reason other than 0x07 (R142). -/
def clamps (r : List RepEnt) : Nat := (r.filter (fun e => !(e.reason == 7))).length

/-- The 16-byte summary and at most `n` entries of a report (R142, R143). -/
def reportBody (r : List RepEnt) (n : Nat) (time : BitVec 64) : List Byte :=
  leBytes 2 r.length ++ leBytes 2 (clamps r) ++ leBytes 2 (r.length - clamps r) ++
    [if n < r.length then 1 else 0, 0] ++ leBytes 8 time.toNat ++ (r.take n).flatMap RepEnt.bytes

end Sys2Proof.Machine
end

