-- ==== Sys2Proof/Machine/Silt.lean ====
section
/-! DEFINITION. The silt log (R416 to R434): events, their records, limits, interrupts and event packets. -/

namespace Sys2Proof.Machine

/-! ### Records -/

/-- Bytes of a record: header, timestamp and padded payload (R416). -/
def LogRec.size (r : LogRec) : Nat := 16 + (padTo 8 r.payload).length

/-- The 64-bit header of a record; NOT_LOGGED is bit 18 (R416). -/
def LogRec.head (r : LogRec) (notLogged : Bool) : Nat :=
  r.code + r.sev * 2 ^ 8 + (r.size / 8 - 1) * 2 ^ 10 + (if r.chanValid then 2 ^ 13 else 0) + r.chan * 2 ^ 14 +
    (if r.timeValid then 2 ^ 17 else 0) + (if notLogged then 2 ^ 18 else 0) + r.seq * 2 ^ 32

/-- The bytes of a record (R416). -/
def LogRec.bytes (r : LogRec) (notLogged : Bool) : List Byte :=
  leBytes 8 (r.head notLogged) ++ leBytes 8 r.ts.toNat ++ padTo 8 r.payload

/-- Bytes that a list of records takes. -/
def recsSize (rs : List LogRec) : Nat := (rs.map LogRec.size).sum

/-- Capacity of the log (R419). -/
def logCap : Nat := 262144

/-- The channel that a code names, if it is a per-channel code (R416). -/
def codeChan (code : Nat) : Option Nat := if 0x80 ≤ code then some ((code - 0x80) / 16) else none

/-- The record of an event, with no number yet. -/
def mkRec (b : Block) (code : Nat) (payload : List Byte) : LogRec :=
  { code := code, sev := evSev code, chanValid := (codeChan code).isSome, chan := (codeChan code).getD 0,
    timeValid := b.stamp.2, seq := b.log.nextSeq, ts := b.stamp64, payload := payload }

/-! ### Writing (R420) -/

/-- The SEQs of the records to evict so that `need` more bytes are freed: the oldest of the lowest severity first,
none above severity `sev`; none at all where they would not free enough. -/
def evictees (rs : List LogRec) (sev need : Nat) : Option (List Nat) :=
  let order := (List.range (sev + 1)).flatMap (fun s => rs.filter (fun r => r.sev == s))
  let pick := order.foldl (fun (acc : Nat × List Nat) r =>
    if need ≤ acc.1 then acc else (acc.1 + r.size, acc.2 ++ [r.seq])) (0, [])
  if need ≤ pick.1 then some pick.2 else none

/-- Adds 1, saturating, to the count of severity `s`. -/
def bumpSev (cs : List Nat) (s : Nat) : List Nat := cs.modify s (fun n => sat32 (n + 1))

/-- Writes a record after the records with these SEQs are evicted, or discards it where none may make room (R420); the second
component says that it was written. -/
def Log.put (l : Log) (r : LogRec) : Option (List Nat) → Log × Bool
  | none => ({ l with discarded := bumpSev l.discarded r.sev }, false)
  | some ev =>
    let out := l.recs.filter (fun x => ev.contains x.seq)
    ({ l with
        recs := l.recs.filter (fun x => !(ev.contains x.seq)) ++ [{ r with seq := l.nextSeq }]
        evicted := out.foldl (fun cs x => bumpSev cs x.sev) l.evicted
        nextSeq := (l.nextSeq + 1) % 2 ^ 16 }, true)

/-- Bytes by which `n` exceeds the log's capacity. -/
def spill (n : Nat) : Nat := n - logCap

/-- Writes a record, evicting as R420 says; the second component says that it was written. -/
def Log.write (l : Log) (r : LogRec) : Log × Bool := l.put r (evictees l.recs r.sev (spill (recsSize l.recs + r.size)))

/-- The budget of a code in the window in progress (R421). -/
def Log.limit (l : Log) (code : Nat) : Nat := (aget l.budget code).getD (evLimit code)

/-! ### Event packets (R145 to R147, R424) -/

/-- A slot's access to a pond: 0 none, 1 read-only, 2 read-write (R155). -/
def Block.access (b : Block) (slot pond : Nat) : Nat :=
  let v := b.f 0x0302 slot (2 * pond)
  if v == 0 then b.f 0x0300 pond 49 else v - 1

/-- Level of a slot that is attached, and 0 otherwise. -/
def Block.level (b : Block) (s : Nat) : Nat :=
  match (b.slot s).attach with
  | .att _ l => l
  | _ => 0

/-- The slot holds owner privilege (R130). -/
def Block.owner (b : Block) (s : Nat) : Bool := b.flag 0x0400 s 0

/-- A tenant may receive this subscribed event (R424). The payload's first byte is its slot or pond. -/
def Block.tenantPasses (b : Block) (s code : Nat) (payload : List Byte) : Bool :=
  let first := (payload.headD 0).toNat
  evTenantVisible code &&
    (if code == 0x40 then first == s
     else if code == 0x71 || code == 0x72 || code == 0x73 then !(b.access s first == 0)
     else true)

/-- Slot `s` receives an event packet for this event (R145, R424). -/
def Block.slotReceives (b : Block) (s code : Nat) (payload : List Byte) (pond : Option Nat) : Bool :=
  2 ≤ b.level s &&
    ((b.flag 0x0F02 s code && (b.owner s || b.tenantPasses s code payload)) ||
     (evAnnounce code && (match pond with | some p => b.access s p == 2 | none => false)))

/-- Removes the first entry that satisfies `p`; the second component is what was removed. -/
def takeFirst {α : Type} (p : α → Bool) : List α → List α × Option α
  | [] => ([], none)
  | x :: t => if p x then (t, some x) else ((x :: (takeFirst p t).1), (takeFirst p t).2)

/-- Queues an event packet; a full queue of an inlet drops its oldest (R56). -/
def Block.queueEvent (b : Block) (src : Src) (e : EvPkt) : Block :=
  match src with
  | .mgmt => { b with pkts := { b.pkts with evq := b.pkts.evq ++ [(src, e)] } }
  | .inlet i =>
    if (b.pkts.evq.filter (fun x => x.1 == src)).length < 16 then
      { b with pkts := { b.pkts with evq := b.pkts.evq ++ [(src, e)] } }
    else
      let r := takeFirst (fun x => x.1 == src) b.pkts.evq
      let b := { b with pkts := { b.pkts with evq := r.1 ++ [(src, e)] } }
      let b := b.modInlet i.val (fun n => { n with dropped := sat32 (n.dropped + 1) })
      match r.2 with
      | none => b
      | some x => { b with recips := tmod {} b.recips x.2.recipient (fun q => { q with dropped := min (q.dropped + 1) 0xFFFF }) }

/-- Forms an event packet for one recipient and queues it (R146). -/
def Block.sendEvent (b : Block) (src : Src) (who : Nat) (pond : Option Nat) (notLogged : Bool) (r : LogRec) : Block :=
  let q := tget {} b.recips who
  let b := { b with recips := tput {} b.recips who { q with seq := (q.seq + 1) % 2 ^ 16 } }
  b.queueEvent src { recipient := who, seq := q.seq, pond := pond, notLogged := notLogged, record := r }

/-- The event packets of one occurrence: slots in ascending order, then the management port (R145, R424). -/
def Block.fanOut (b : Block) (code : Nat) (payload : List Byte) (pond : Option Nat) (notLogged : Bool) (r : LogRec) : Block :=
  let ann := if evAnnounce code then pond else none
  let b := b.slots.foldl (fun (b' : Block) s =>
    match s.2.attach with
    | .att i _ => if b.slotReceives s.1 code payload pond then b'.sendEvent (.inlet i) s.1 ann notLogged r else b'
    | _ => b') b
  if b.flag 0x0F03 0 code then b.sendEvent .mgmt 0xF6 ann notLogged r else b

/-! ### Events (R423) -/

/-- Adds 1 to OCCURRENCES of a code (R428). -/
def Log.occur (l : Log) (code : Nat) : Log := { l with occ := tmod 0 l.occ code (fun n => (n + 1) % 2 ^ 32) }

/-- Adds a suppressed occurrence (R421, R422). -/
def Log.suppress (l : Log) (code : Nat) (ts : BitVec 64) : Log :=
  { l with supp := aput l.supp code (match aget l.supp code with
      | none => { count := 1, firstTs := ts, lastTs := ts }
      | some s => { s with count := sat32 (s.count + 1), lastTs := ts }) }

/-- The log after an occurrence whose code has a budget, and whether its record was written (R420, R421). -/
def Log.take (l : Log) (r : LogRec) : Log × Bool :=
  if tget 0 l.used r.code < l.limit r.code then
    ({ l with used := tmod 0 l.used r.code (· + 1) }).write r
  else (l.suppress r.code r.ts, false)

/-- Sets a pending bit (R72). -/
def Block.pend (b : Block) (sev : Nat) : Block :=
  { b with mgmt := { b.mgmt with intStatus := b.mgmt.intStatus ||| (1#4 <<< sev) } }

/-- An event occurs (R423). `pond` is the pond of a pond announcement. A reserved code is never recorded (R433). -/
def Block.emitPond (b : Block) (code : Nat) (payload : List Byte) (pond : Option Nat) : Block :=
  if evReserved code then b else
  let r := mkRec b code payload
  let b := { b with log := b.log.occur code }
  if b.log.limit code = 0 then b else
  let w := b.log.take r
  let b := { b with log := w.1 }.count 0x14 none none (if w.2 then 1 else 0)
  let b := if b.flag 0x0F00 code 8 then b else b.pend r.sev
  b.fanOut code payload pond (!w.2) r

/-- An event that is no pond announcement occurs, with these payload fields (R432). -/
def Block.event (b : Block) (code : Nat) (fields : List (Nat × Nat)) : Block := b.emitPond code (encFields fields) none

/-- The BUDGET fields that differ from their defaults. -/
def Block.budgets (b : Block) : Tab Nat :=
  (b.cfg.filter (fun e => e.1 / 2 ^ 28 == 0x0F00 && e.1 % 2 ^ 16 == 0)).map (fun e => (e.1 / 2 ^ 16 % 2 ^ 12, e.2))

/-- BUDGET and WINDOW as configured come into force (R428). -/
def Block.newLimits (b : Block) : Block :=
  { b with log := { b.log with budget := b.budgets, windowMs := b.f 0x0F01 0 0 } }

/-- The SUPPRESSED record of one code (R422, R432). -/
def suppRec (b : Block) (code : Nat) (s : Supp) : LogRec :=
  { mkRec b 0x3F (encFields [(1, code), (4, s.count), (8, s.firstTs.toNat), (8, s.lastTs.toNat)]) with
    sev := evSev code, chanValid := (codeChan code).isSome, chan := (codeChan code).getD 0 }

/-- A window closes: one SUPPRESSED record for each code that had suppressed occurrences (R421, R422). -/
def Block.closeWindow (b : Block) : Block :=
  let b' := b.log.supp.foldl (fun (b' : Block) e =>
    let w := (b'.log.occur 0x3F).write (suppRec b e.1 e.2)
    { b' with log := w.1 }.count 0x14 none none (if w.2 then 1 else 0)) b
  { b' with log := { b'.log with used := [], supp := [] } }

/-- The log is emptied; the result counts the records removed (R426). -/
def Block.clearLog (b : Block) : Block × Nat := ({ b with log := { b.log with recs := [] } }, b.log.recs.length)

/-- OLDEST_SEQ (R428). -/
def Log.oldest (l : Log) : Nat := match l.recs with | [] => l.nextSeq | r :: _ => r.seq

/-- EVENTS_CLEAR by `who` (R426): the reply's count, and EVENTS_CLEARED as the first record of the empty log. -/
def Block.eventsClear (b : Block) (who : Nat) : Block × Nat :=
  let r := b.clearLog
  (r.1.event 0x3E [(1, who), (4, r.2)], r.2)

/-- INTERNAL_PARITY (R303, R304): the memory by its place in R303, requester, tag, outcome. Memory ID and entry
index are free values. -/
def Block.parity (b : Block) (mem rq tag out : Nat) : Block :=
  { b with free := b.free + 1 }.event 0x13
    [(1, (Config.memoryId mem).toNat), (4, (Config.parityEntry b.free).toNat), (1, rq), (2, tag), (1, out)]

/-! ### The tail (R429 to R431) -/

/-- The records selected for the tail: by severity from the highest, newest first, each that still fits in 4,032 bytes. -/
def tailPick (rs : List LogRec) : List Nat :=
  let order := [3, 2, 1, 0].flatMap (fun s => (rs.filter (fun r => r.sev == s)).reverse)
  (order.foldl (fun (acc : Nat × List Nat) r =>
    if acc.1 + r.size ≤ 4032 then (acc.1 + r.size, r.seq :: acc.2) else acc) (0, [])).2

/-- MW_MODE (R58). -/
def Block.mwMode (b : Block) : Nat :=
  b.mode.code + (if b.drain then 8 else 0) + b.lc.code * 16 + (if b.net.timeValid then 64 else 0) +
    (if b.pins.capValid then 128 else 0)

/-- The 4,096 bytes of the tail that begins now (R429, R430). -/
def Block.makeTail (b : Block) : Tail :=
  let picked := tailPick b.log.recs
  let rs := b.log.recs.filter (fun r => picked.contains r.seq)
  let body := rs.flatMap (fun r => r.bytes false)
  let head := encFields [(2, 1), (1, 8), (1, b.mwMode % 16), (2, rs.length), (2, body.length)] ++
    leBytes 8 Config.serial.toNat ++ leBytes 8 b.stamp64.toNat ++
    encFields [(2, b.log.nextSeq), (2, b.log.oldest), (4, sat32 b.log.discarded.sum)] ++ List.replicate 28 0
  let all := body ++ List.replicate (4032 - body.length) 0
  let crc := crc32 (head ++ all)
  { bytes := head ++ leBytes 4 crc.toNat ++ all, records := rs.length, size := body.length, modeBits := b.mwMode % 16 }

/-- A tail begins, unless one is being written (R431). -/
def Block.beginTail (b : Block) : Block :=
  match b.tail with
  | some _ => b
  | none => { b with tail := some b.makeTail }

end Sys2Proof.Machine
end

