-- ==== Sys2Proof/Machine/Counters.lean ====
section
/-! DEFINITION. Counter sets and soundings (R435 to R452). Programmable counters add up in `Ops`. -/

namespace Sys2Proof.Machine

/-! ### Requester-visible and arbiter counters (R436, R443, R444) -/

/-- Width of field `k` of a requester-visible set: counters 0 to 6, histogram bins 8 to 23. -/
def visWidth (k : Nat) : Nat := if k < 8 then 48 else 32

/-- Adds `n` to field `k` of the requester-visible set of a slot; a wrap sets its OVF bit. -/
def Block.visAdd (b : Block) (slot k n : Nat) : Block :=
  if slot < 128 then
    let v := tget 0 b.ctr.vis (32 * slot + k) + n
    { b with ctr := { b.ctr with
        vis := tput 0 b.ctr.vis (32 * slot + k) (v % 2 ^ visWidth k)
        ovf := if v < 2 ^ visWidth k then b.ctr.ovf else tmod 0 b.ctr.ovf (0x10 + slot) (fun w => setBit w k) } }
  else b

/-- A requester ID has arbiter counters (R444). -/
def hasArb (rq : Nat) : Bool := rq < 0x80 || (0xF0 ≤ rq && rq ≤ 0xF3) || rq == 0xF5

/-- Adds `n` to arbiter counter `k` of a requester on a channel: 0 GRANTS, 1 ADMITTED, 2 WAIT_TOTAL,
4 RESERVED_GRANTS, 5 WITHDRAWALS (R212, R436, R444). -/
def Block.arbAdd (b : Block) (c rq k n : Nat) : Block :=
  if hasArb rq then
    let w := if k < 3 then 48 else 32
    let b := { b with ctr := { b.ctr with arb := tmod 0 b.ctr.arb (8 * (256 * c + rq) + k) (fun v => (v + n) % 2 ^ w) } }
    if k < 3 then b.visAdd rq k n else b
  else b

/-- WAIT_MAX takes the larger value and saturates (R212, R436). -/
def Block.arbMax (b : Block) (c rq n : Nat) : Block :=
  if hasArb rq then
    { b with ctr := { b.ctr with arb := tmod 0 b.ctr.arb (8 * (256 * c + rq) + 3) (fun v => max v (sat32 n)) } }
  else b

/-- The histogram bin of a latency in units of 8 cclk (R443). -/
def latencyBin (l : Nat) : Nat := min 15 (Nat.log2 l)

/-! ### Capture and clearing (R437, R438, R442, R443) -/

/-- CYCLE of set 0. -/
def Block.cycle0 (b : Block) : Nat := (b.clk.cclk - b.ctr.cycle0) % 2 ^ 64

/-- CYCLE of a channel set. -/
def Chan.cycle (ch : Chan) : Nat := (ch.ck2 - ch.ckBase) % 2 ^ 48

/-- The 96-byte body of set 0 or of a channel set (R442). -/
def Block.setBody (b : Block) (set : Nat) : List Byte :=
  leBytes 8 (if set == 0 then b.cycle0 else (b.chan (set - 1)).cycle) ++ leBytes 8 (twos 8 b.blockTime) ++
    leBytes 8 (tget 0 b.ctr.ovf set) ++
    (List.range 8).flatMap (fun i => leBytes 8 (tget 0 b.ctr.prog (8 * set + i))) ++ List.replicate 8 0

/-- The 144-byte body of a requester-visible set (R443). -/
def Block.visBody (b : Block) (slot : Nat) : List Byte :=
  leBytes 8 (twos 8 b.blockTime) ++ leBytes 8 (tget 0 b.ctr.ovf (0x10 + slot)) ++
    (List.range 7).flatMap (fun k => leBytes 8 (tget 0 b.ctr.vis (32 * slot + k))) ++
    (List.range 16).flatMap (fun k => leBytes 4 (tget 0 b.ctr.vis (32 * slot + 8 + k))) ++ List.replicate 8 0

/-- The requester-visible set of a slot is cleared (R438). -/
def Block.clearVis (b : Block) (slot : Nat) : Block :=
  { b with ctr := { b.ctr with
      vis := tclear b.ctr.vis (32 * slot) (32 * slot + 32), ovf := tput 0 b.ctr.ovf (0x10 + slot) 0 } }

/-- COUNTERS_CLEAR of a set (R438). -/
def Block.clearSet (b : Block) (set : Nat) : Block :=
  if 0x10 ≤ set then b.clearVis (set - 0x10) else
  let b := { b with ctr := { b.ctr with
      prog := tclear b.ctr.prog (8 * set) (8 * set + 8), ovf := tput 0 b.ctr.ovf set 0 } }
  if set == 0 then { b with inlets := b.inlets.map (fun i => { i with dropped := 0 }) }
  else
    let b := b.modChan (set - 1) (fun ch => { ch with ckBase := ch.ck2 })
    { b with ctr := { b.ctr with arb := tclear b.ctr.arb (2048 * (set - 1)) (2048 * set) } }

/-- A change of select word `i` clears that counter and its OVF bit (R438). -/
def Block.clearCounter (b : Block) (set i : Nat) : Block :=
  { b with ctr := { b.ctr with
      prog := tput 0 b.ctr.prog (8 * set + i) 0
      ovf := tmod 0 b.ctr.ovf set (fun w => if w.testBit i then w - 2 ^ i else w) } }

/-! ### Sampling (R446) -/

/-- The countdown that a reload takes from the LFSR. -/
def sampleReload (k : Nat) (s : BitVec 32) : Nat := if k = 0 then 1 else 2 ^ (k - 1) + s.toNat % 2 ^ k

/-- The sampling LFSR steps and the countdown is reloaded. -/
def Block.reloadSampling (b : Block) : Block :=
  let s := lfsrStep b.snd.lfsr
  { b with snd := { b.snd with lfsr := s, countdown := sampleReload (b.f 0x1010 0 2) s } }

/-- Decides whether a request is sampled: sampled, forced (R446). CANCEL and FENCE are no candidates. -/
def Block.sample (b : Block) (op : Op) (cls : Nat) (force : Bool) : Block × Bool × Bool :=
  if !(b.flag 0x1010 0 0) || op == .cancel || op == .fence then (b, false, false)
  else if force then ({ b with snd := { b.snd with sampled := (b.snd.sampled + 1) % 2 ^ 32 } }, true, true)
  else if !((b.f 0x1010 0 8).testBit cls) then (b, false, false)
  else if 1 < b.snd.countdown then
    ({ b with snd := { b.snd with countdown := b.snd.countdown - 1 } }, false, false)
  else
    let b := b.reloadSampling
    ({ b with snd := { b.snd with sampled := (b.snd.sampled + 1) % 2 ^ 32 } }, true, false)

/-! ### The buffer (R450) -/

/-- Records held. -/
def sndSlots : Nat := 4096

/-- Writes one record to the buffer, or loses it. -/
def Snd.push (s : Snd) (wrap : Bool) (r : Block512) : Snd :=
  if s.records < sndSlots then
    let n := s.records + 1
    { s with
        buf := aput s.buf s.writeIndex r, records := n, writeIndex := (s.writeIndex + 1) % sndSlots
        stopped := s.stopped || (n == sndSlots && !wrap) }
  else if wrap then
    { s with buf := aput s.buf s.writeIndex r, writeIndex := (s.writeIndex + 1) % sndSlots, wrapped := true }
  else { s with stopped := true, lost := sat32 (s.lost + 1) }

/-- A sounding is written. -/
def Block.pushSnd (b : Block) (r : Block512) : Block := { b with snd := b.snd.push (b.flag 0x1010 0 1) r }

/-- A queue record enters the holding queue, or is lost when it is full (R450). -/
def Block.holdSnd (b : Block) (r : Block512) : Block :=
  if b.snd.hold.length < 16 then { b with snd := { b.snd with hold := b.snd.hold ++ [r] } }
  else { b with snd := { b.snd with lost := sat32 (b.snd.lost + 1) } }

/-- The holding queue is written out, one record a cclk (log entry 20). -/
def Block.drainHold (b : Block) : Block :=
  let b' := b.snd.hold.foldl (fun (b : Block) r => b.pushSnd r) b
  { b' with snd := { b'.snd with hold := [] } }

/-- CLEAR of SOUNDINGS_CONTROL (R450). -/
def Snd.clear (s : Snd) : Snd :=
  { s with buf := [], hold := [], writeIndex := 0, records := 0, stopped := false, wrapped := false }

/-- TYPE 3, the answer for a slot whose parity fails (R452). -/
def badSlot : Block512 := 3

/-- A T_ field: cclk from arrival to the stage (R448). -/
def tField (arrival : Nat) : Option Nat → Nat
  | none => 0xFFFFFFFF
  | some t => min (t - arrival) 0xFFFFFFFE

/-- The COLOUR code (R447). -/
def Colour.code : Colour → Nat
  | .off => 0 | .green => 1 | .yellow => 2 | .red => 3

/-- A bit at place `k`. -/
def bitAt (x : Bool) (k : Nat) : Nat := if x then 2 ^ k else 0

/-- The record of a sampled request whose response is presented at cclk `done` (R447). -/
def soundRecord (r : Req) (cycle0 done : Nat) : Block512 :=
  let s := r.snd
  let c := s.coord.getD {}
  let w0 := 1 + bitAt s.forced 2 + r.op.code * 2 ^ 4 + r.cls * 2 ^ 8 + r.served * 2 ^ 11 + r.requester * 2 ^ 16 +
    r.tag * 2 ^ 24 + ((r.inlet.map (·.val)).getD 0) * 2 ^ 35
  let w1 := r.blk + (r.pond.getD 0) * 2 ^ 38 + c.chan * 2 ^ 44 + c.sc * 2 ^ 47 + c.rank * 2 ^ 48 + c.cid * 2 ^ 50 +
    c.bg * 2 ^ 53 + c.ba * 2 ^ 56
  let w2 := (r.takenAt - cycle0) % 2 ^ 32 + c.row * 2 ^ 32
  let t := tField r.takenAt
  let w3 := t s.tPolice + t s.tLookup * 2 ^ 32
  let w4 := t s.tGrant + t s.tCmd * 2 ^ 32
  let w5 := t s.tData + t (some done) * 2 ^ 32
  let w6 := s.cacheOut + s.rowOut * 2 ^ 3 + bitAt s.rmw 5 + bitAt s.fwd 6 + bitAt s.coal 7 + s.decode * 2 ^ 8 +
    bitAt s.reread 11 + (min s.replays 15) * 2 ^ 12 + bitAt s.resGrant 16 + bitAt s.followOn 17 + r.colour.code * 2 ^ 18
  BitVec.ofNat 512 (w0 + w1 * 2 ^ 64 + w2 * 2 ^ 128 + w3 * 2 ^ 192 + w4 * 2 ^ 256 + w5 * 2 ^ 320 + w6 * 2 ^ 384 +
    r.status * 2 ^ 448)

/-- SOUNDINGS_READ: `n` records from slot `first` (R452); `bad` is a slot whose parity fails. -/
def Snd.read (s : Snd) (first n : Nat) (bad : Option Nat) : List Byte :=
  (List.range n).flatMap (fun k =>
    let i := (first + k) % sndSlots
    leBytes 64 (if bad = some i then badSlot else (aget s.buf i).getD 0).toNat)

/-! ### What a response counts (R440, R443) -/

/-- The counters that a response moves: its latency in cclk runs from taking to presenting. -/
def Block.countResponse (b : Block) (r : Req) (lat : Nat) : Block :=
  let cls := some (if r.coloured then r.served else r.cls)
  let rq := some r.requester
  let b := b.count 0x02 cls rq (if r.status ≤ 0x0F then 1 else 0)
  let b := b.count 0x03 cls rq (if 0x10 ≤ r.status then 1 else 0)
  let b := b.count 0x04 cls rq lat
  let b := b.count 0x0E none rq (if r.status == stUnwritten then 1 else 0)
  let s := r.requester
  let b := if r.status == stThrottled then b.visAdd s 3 1 else b
  let b := if r.cacheHit then b.visAdd s 4 1 else b
  let b := if r.op == .read then b.visAdd s 5 1 else b
  let b := if r.op == .writeFull || r.op == .writePartial then b.visAdd s 6 1 else b
  if carriesData r.op r.status then b.visAdd s (8 + latencyBin (latencyField lat)) 1 else b

end Sys2Proof.Machine
end

