-- ==== Sys2Proof/Machine/Grid.lean ====
section
/-! DEFINITION. The grid code (R277 to R290), poison (R297) and scrambling (R300).

A stored block is 640 bits: data bit (b, l) at bit L x b + l (so that byte k is bits 8k+7 : 8k on both
generations, R277), and check lane c of beat b at bit 512 + 8b + c (R280). DDR4 uses 576 of them. -/

namespace Sys2Proof.Machine

/-- The four layouts (R278). -/
inductive Layout where
  | g5x4 | g5x8 | g4x4 | g4x8
  deriving DecidableEq, Repr

namespace Layout

/-- Beats B of one access (R277). -/
def beats : Layout → Nat
  | .g5x4 | .g5x8 => 16
  | .g4x4 | .g4x8 => 8

/-- Data lanes L of one access (R277). -/
def lanes : Layout → Nat
  | .g5x4 | .g5x8 => 32
  | .g4x4 | .g4x8 => 64

/-- Width of a device (R278). -/
def width : Layout → Nat
  | .g5x4 | .g4x4 => 4
  | .g5x8 | .g4x8 => 8

/-- Data devices (R278). -/
def devices (y : Layout) : Nat := y.lanes / y.width

/-- The layout is an x4 layout. -/
def x4 (y : Layout) : Bool := y.width == 4

/-- The layout is a DDR5 layout. -/
def ddr5 : Layout → Bool
  | .g5x4 | .g5x8 => true
  | .g4x4 | .g4x8 => false

/-- Bits of the address check (R279). -/
def acBits (y : Layout) : Nat := if y.ddr5 then 16 else 8

end Layout

/-- Data bit on lane `l` in beat `b` (R277). -/
def gbit (y : Layout) (d : Nat) (b l : Nat) : Bool := d.testBit (y.lanes * b + l)

/-- The XOR of `f` over 0 to n - 1. -/
def xorRange (n : Nat) (f : Nat → Bool) : Bool := (List.range n).foldl (fun a k => a ^^ f k) false

/-- The number whose bit k is `f k`, for k below n. -/
def bitsFrom (n : Nat) (f : Nat → Bool) : Nat :=
  (List.range n).foldl (fun a k => if f k then a + 2 ^ k else a) 0

/-- Device parity P, bit 4b + j (R279); zero on the x8 layouts. -/
def devParity (y : Layout) (d : Nat) : Nat :=
  if y.x4 then bitsFrom (4 * y.beats) (fun n => xorRange y.devices (fun i => gbit y d (n / 4) (4 * i + n % 4))) else 0

/-- Row parity RP (R279). -/
def rowParity (y : Layout) (d : Nat) : Nat :=
  bitsFrom y.beats (fun b => xorRange y.lanes (fun l => gbit y d b l))

/-- Lane parity LP (grid-5) or device-column parity DC (grid-4) (R279). -/
def locParity (y : Layout) (d : Nat) : Nat :=
  if y.ddr5 then bitsFrom 32 (fun l => xorRange 16 (fun b => gbit y d b l))
  else bitsFrom y.devices (fun i => xorRange (8 * y.width) (fun n => gbit y d (n / y.width) (y.width * i + n % y.width)))

/-- Lane-position parity LQ (grid-4/x8) (R279); zero elsewhere. -/
def posParity (y : Layout) (d : Nat) : Nat :=
  if y == .g4x8 then bitsFrom 8 (fun p => xorRange 64 (fun n => gbit y d (n / 8) (8 * (n % 8) + p))) else 0

/-- Diagonal parity DP (x8 layouts) (R279); zero elsewhere. -/
def diagParity (y : Layout) (d : Nat) : Nat :=
  match y with
  | .g5x8 => bitsFrom 64 (fun t => xorRange 512 (fun n => gbit y d (n / 32) (n % 32) && (n % 32 + 8 * (n / 32)) % 64 == t))
  | .g4x8 => bitsFrom 32 (fun t => xorRange 512 (fun n => gbit y d (n / 64) (n % 64) && (n % 64 + 4 * (n / 64)) % 32 == t))
  | _ => 0

/-- One bit into the address-check register of `n` bits with polynomial `poly` (R281). -/
def acStep (n poly c : Nat) (bit : Bool) : Nat :=
  let fb := c.testBit (n - 1) ^^ bit
  let c' := (2 * c) % 2 ^ n
  if fb then c' ^^^ poly else c'

/-- The address check over a place of `pw` bits, a key slot and the data (R281). -/
def addrCheckOf (y : Layout) (pw place slot : Nat) (d : Nat) : Nat :=
  let n := y.acBits
  let poly := if y.ddr5 then 0x1021 else 0x1D
  let c := (List.range pw).foldl (fun c k => acStep n poly c (place.testBit (pw - 1 - k))) (2 ^ n - 1)
  let c := (List.range 4).foldl (fun c k => acStep n poly c (slot.testBit (3 - k))) c
  (List.range 512).foldl
    (fun c k =>
      let i := k / (y.beats * y.width)
      let b := k / y.width % y.beats
      acStep n poly c (gbit y d b (y.width * i + k % y.width))) c

/-- The address check over block address [43:6], key slot and data (R281). -/
def addrCheck (y : Layout) (blk slot d : Nat) : Nat := addrCheckOf y 38 blk slot d

/-- The check vectors of a block: P, RP, LP or DC, LQ, DP and AC (R279). -/
structure Checks where
  p : Nat
  r : Nat
  x : Nat
  q : Nat
  dp : Nat
  a : Nat
  deriving DecidableEq, Repr

/-- The check vectors that the encoder computes (R279). -/
def checksOf (y : Layout) (blk slot d : Nat) : Checks :=
  { p := devParity y d, r := rowParity y d, x := locParity y d, q := posParity y d, dp := diagParity y d,
    a := addrCheck y blk slot d }

/-- The indexed check bits: C1 of an x4 layout, or the one check device of an x8 layout (R280). -/
def packIndexed (y : Layout) (c : Checks) : Nat :=
  match y with
  | .g5x4 => c.x + c.r * 2 ^ 32 + c.a * 2 ^ 48
  | .g5x8 => c.x + c.r * 2 ^ 32 + c.dp * 2 ^ 48 + c.a * 2 ^ 112
  | .g4x4 => c.r + c.x * 2 ^ 8 + c.a * 2 ^ 24
  | .g4x8 => c.r + c.x * 2 ^ 8 + c.q * 2 ^ 16 + c.dp * 2 ^ 24 + c.a * 2 ^ 56

/-- The check bits on the check lanes: bit 8b + c is lane c of beat b (R280). -/
def packChecks (y : Layout) (c : Checks) : Nat :=
  let n := packIndexed y c
  if y.x4 then
    bitsFrom (8 * y.beats) (fun k =>
      if k % 8 < 4 then c.p.testBit (4 * (k / 8) + k % 8) else n.testBit (4 * (k / 8) + (k % 8 - 4)))
  else n

/-- The check vectors that received check bits carry (R280). -/
def unpackChecks (y : Layout) (bits : Nat) : Checks :=
  let n := if y.x4 then bitsFrom (4 * y.beats) (fun k => bits.testBit (8 * (k / 4) + 4 + k % 4)) else bits
  let p := if y.x4 then bitsFrom (4 * y.beats) (fun k => bits.testBit (8 * (k / 4) + k % 4)) else 0
  match y with
  | .g5x4 => { p := p, x := bitsOf n 0 32, r := bitsOf n 32 16, a := bitsOf n 48 16, q := 0, dp := 0 }
  | .g5x8 => { p := p, x := bitsOf n 0 32, r := bitsOf n 32 16, dp := bitsOf n 48 64, a := bitsOf n 112 16, q := 0 }
  | .g4x4 => { p := p, r := bitsOf n 0 8, x := bitsOf n 8 16, a := bitsOf n 24 8, q := 0, dp := 0 }
  | .g4x8 => { p := p, r := bitsOf n 0 8, x := bitsOf n 8 8, q := bitsOf n 16 8, dp := bitsOf n 24 32, a := bitsOf n 56 8 }

/-- All ones of a row parity. -/
def rOnes (y : Layout) : Nat := 2 ^ y.beats - 1

/-- All ones of an address check. -/
def aOnes (y : Layout) : Nat := 2 ^ y.acBits - 1

/-- A block encoded, with poison by inverting AC and RP (R279 to R281, R297). -/
def encodeGrid (y : Layout) (blk slot : Nat) (d : Block512) (poison : Bool) : BitVec 640 :=
  let c := checksOf y blk slot d.toNat
  let c := if poison then { c with r := c.r ^^^ rOnes y, a := c.a ^^^ aOnes y } else c
  BitVec.ofNat 640 (d.toNat + packChecks y c * 2 ^ 512)

/-- The syndromes of a received block (R282): received check vectors XOR those computed over the received data. -/
def syndromes (y : Layout) (blk slot d : Nat) (rc : Checks) : Checks :=
  let c := checksOf y blk slot d
  { p := c.p ^^^ rc.p, r := c.r ^^^ rc.r, x := c.x ^^^ rc.x, q := c.q ^^^ rc.q, dp := c.dp ^^^ rc.dp, a := c.a ^^^ rc.a }

/-- How a decode ended (R283, R285, R290). A place is 128 x beat + lane, with the check lanes after the data lanes. -/
inductive Outcome where
  | clean
  | corrected (place : Nat)
  | rebuilt (dev : Nat) (bits : Nat)
  | checkBit (place : Nat)
  | c1Failed
  | c0Failed
  | erased
  | erasedFurther (place : Nat)
  | poison
  | mismatch
  | uncorrectable
  deriving DecidableEq, Repr

/-- A decode: its outcome and the block returned (the data as received where none is). -/
structure Decode where
  out : Outcome
  data : Block512
  deriving DecidableEq, Repr

/-- The consistency vectors K_R and K_L of an x4 layout are zero (R282). -/
def kZero (y : Layout) (s : Checks) : Bool :=
  let kr := (List.range y.beats).all (fun b => s.r.testBit b == xorRange 4 (fun j => s.p.testBit (4 * b + j)))
  let kl := if y.ddr5 then
      (List.range 4).all (fun j =>
        xorRange 8 (fun i => s.x.testBit (4 * i + j)) == xorRange 16 (fun b => s.p.testBit (4 * b + j)))
    else xorRange 16 (fun i => s.x.testBit i) == xorRange 32 (fun n => s.p.testBit n)
  kr && kl

/-- The data device that the location syndrome points to (R282). -/
def pointsTo (y : Layout) (x : Nat) : Option Nat :=
  if x == 0 then none
  else if y.ddr5 then (List.range 8).find? (fun i => (x &&& (15 * 2 ^ (4 * i))) == x)
  else (List.range 16).find? (fun i => x == 2 ^ i)

/-- The data with SP XORed into device i (R284). -/
def applyP (y : Layout) (d p i : Nat) : Nat :=
  d ^^^ bitsFrom 512 (fun n =>
    let b := n / y.lanes
    let l := n % y.lanes
    l / 4 == i && p.testBit (4 * b + l % 4))

/-- The first bit set of a number below `2 ^ w`. -/
def firstBit (w x : Nat) : Nat := ((List.range w).find? (fun k => x.testBit k)).getD 0

/-- The place of data bit `n` of the 512. -/
def dataPlace (y : Layout) (n : Nat) : Nat := 128 * (n / y.lanes) + n % y.lanes

/-- The place of indexed check bit `n`: of C1 on an x4 layout, of the check device on an x8 layout (R280). -/
def checkPlace (y : Layout) (n : Nat) : Nat :=
  if y.x4 then 128 * (n / 4) + y.lanes + 4 + n % 4 else 128 * (n / 8) + y.lanes + n % 8

/-- The index of the first AC bit among the indexed check bits of an x4 layout (R280). -/
def acIndex (y : Layout) : Nat := if y.ddr5 then 48 else 24

/-- Decoding of an x4 layout in a unit with no retired device (R283, R284). -/
def decodeX4 (y : Layout) (blk slot : Nat) (d : Nat) (rc : Checks) : Decode :=
  let s := syndromes y blk slot d rc
  let recv := BitVec.ofNat 512 d
  let k0 := kZero y s
  let wa := popcount y.acBits s.a
  if s.p == 0 && s.x == 0 && s.r == 0 && s.a == 0 then ⟨.clean, recv⟩
  else if s.p == 0 && s.x == 0 && s.r == rOnes y && s.a == aOnes y then ⟨.poison, recv⟩
  else if s.p == 0 && s.x == 0 && s.r == 0 && wa == 1 then ⟨.checkBit (checkPlace y (acIndex y + firstBit 16 s.a)), recv⟩
  else if s.p == 0 && s.x == 0 && s.r == 0 then ⟨.mismatch, recv⟩
  else if k0 && !(s.p == 0) then
    let cands := match pointsTo y s.x with
      | some i => [i]
      | none => if s.x == 0 then List.range y.devices else []
    let pass := cands.filter (fun i => addrCheck y blk slot (applyP y d s.p i) == rc.a)
    match pass with
    | [i] =>
      let d' := applyP y d s.p i
      let w := popcount (4 * y.beats) s.p
      if w == 1 then ⟨.corrected (dataPlace y (firstBit 512 (d ^^^ d'))), BitVec.ofNat 512 d'⟩
      else ⟨.rebuilt i w, BitVec.ofNat 512 d'⟩
    | _ => ⟨.uncorrectable, recv⟩
  else if !k0 && s.p == 0 then ⟨.c1Failed, recv⟩
  else if !k0 && s.x == 0 && s.r == 0 && s.a == 0 then ⟨.c0Failed, recv⟩
  else ⟨.uncorrectable, recv⟩

/-- Decoding of an x8 layout (R285). -/
def decodeX8 (y : Layout) (blk slot : Nat) (d : Nat) (rc : Checks) : Decode :=
  let s := syndromes y blk slot d rc
  let recv := BitVec.ofNat 512 d
  let wt := popcount 64 s.r + popcount 64 s.x + popcount 64 s.q + popcount 64 s.dp + popcount 64 s.a
  let one := fun w v => popcount w v == 1
  let cand : Option Nat :=
    if one 64 s.r && one 64 s.x && one 64 s.dp && (y == .g5x8 || one 64 s.q) then
      let b := firstBit 16 s.r
      let l := if y == .g5x8 then firstBit 32 s.x else 8 * firstBit 8 s.x + firstBit 8 s.q
      let t := if y == .g5x8 then (l + 8 * b) % 64 else (l + 4 * b) % 32
      let n := y.lanes * b + l
      if s.dp == 2 ^ t && addrCheck y blk slot (d ^^^ 2 ^ n) == rc.a then some n else none
    else none
  if wt == 0 then ⟨.clean, recv⟩
  else if s.r == rOnes y && s.a == aOnes y && s.x == 0 && s.q == 0 && s.dp == 0 then ⟨.poison, recv⟩
  else match cand with
    | some n => ⟨.corrected (dataPlace y n), BitVec.ofNat 512 (d ^^^ 2 ^ n)⟩
    | none =>
      if wt == 1 then ⟨.checkBit (checkPlace y (firstBit 128 (packIndexed y s))), recv⟩
      else if s.r == 0 && s.x == 0 && s.q == 0 && s.dp == 0 && 2 ≤ popcount 64 s.a then ⟨.mismatch, recv⟩
      else ⟨.uncorrectable, recv⟩

/-- Erasure decoding in a unit with retired device r (R290). -/
def decodeErased (y : Layout) (blk slot r : Nat) (d : Nat) (rc : Checks) : Decode :=
  let sp := (syndromes y blk slot d rc).p
  let d1 := applyP y d sp r
  let s := syndromes y blk slot d1 rc
  let out1 := BitVec.ofNat 512 d1
  let clears := fun (dd : Nat) (c : Checks) =>
    let t := syndromes y blk slot dd c
    t.x == 0 && t.r == 0 && t.a == 0
  if s.x == 0 && s.r == 0 && s.a == 0 then ⟨if sp == 0 then .clean else .erased, out1⟩
  else if s.x == 0 && s.r == rOnes y && s.a == aOnes y then ⟨.poison, BitVec.ofNat 512 d⟩
  else if s.x == 0 && s.r == 0 && popcount 16 s.a == 1 then ⟨.checkBit (checkPlace y (acIndex y + firstBit 16 s.a)), out1⟩
  else if s.x == 0 && s.r == 0 then ⟨.mismatch, BitVec.ofNat 512 d⟩
  else
    let c1 := (List.range (4 * y.beats)).filterMap (fun n =>
      let rc' := unpackChecks y (packChecks y rc ^^^ 2 ^ (8 * (n / 4) + 4 + n % 4))
      if clears d1 rc' then some (d1, checkPlace y n) else none)
    let own := (List.range (4 * y.beats)).filterMap (fun n =>
      let dd := d1 ^^^ 2 ^ (y.lanes * (n / 4) + 4 * r + n % 4)
      if clears dd rc then some (dd, dataPlace y (y.lanes * (n / 4) + 4 * r + n % 4)) else none)
    let pairs := (List.range 512).filterMap (fun n =>
      let b := n / y.lanes
      let l := n % y.lanes
      if l / 4 == r then none
      else
        let dd := (d1 ^^^ 2 ^ n) ^^^ 2 ^ (y.lanes * b + 4 * r + l % 4)
        if clears dd rc then some (dd, dataPlace y n) else none)
    match c1 ++ own ++ pairs with
    | [dd] => ⟨.erasedFurther dd.2, BitVec.ofNat 512 dd.1⟩
    | _ => ⟨.uncorrectable, BitVec.ofNat 512 d⟩

/-- Decoding of a descrambled block, with the retired device of its rank unit if any (R283, R285, R290). -/
def decodeGrid (y : Layout) (blk slot : Nat) (retired : Option Nat) (raw : BitVec 640) : Decode :=
  let d := raw.toNat % 2 ^ 512
  let rc := unpackChecks y (raw.toNat / 2 ^ 512 % 2 ^ (8 * y.beats))
  if y.x4 then
    match retired with
    | none => decodeX4 y blk slot d rc
    | some r => decodeErased y blk slot r d rc
  else decodeX8 y blk slot d rc

/-- The bits of a stored block that the generation uses: 640 on DDR5, 576 on DDR4 (R300). -/
def usedBits (y : Layout) : BitVec 640 := BitVec.ofNat 640 (2 ^ (512 + 8 * y.beats) - 1)

/-- Scrambling and descrambling under a key (R300). -/
def scramble (key : BitVec 128) (blk : Nat) (x : BitVec 640) : BitVec 640 := x ^^^ Config.keystream key blk

/-- The status of a READ with this final decode (R283, R285, R290, R295). -/
def Outcome.status : Outcome → Nat
  | .clean => stOk
  | .poison | .uncorrectable => stPoison
  | .mismatch => stErrorCommand
  | _ => stCorrected

/-- The decode ends in an uncorrectable row or an address mismatch, so that the block is read again (R294). -/
def Outcome.rereads : Outcome → Bool
  | .mismatch | .uncorrectable => true
  | _ => false

/-- DECODE of a sounding (R447). -/
def Outcome.code : Outcome → Nat
  | .clean => 0
  | .corrected _ | .checkBit _ | .c1Failed | .c0Failed => 1
  | .rebuilt _ _ => 2
  | .erased | .erasedFurther _ => 3
  | .poison => 4
  | .uncorrectable => 5
  | .mismatch => 6

/-- The block carries the poison mark after this decode (R298). -/
def Outcome.marks : Outcome → Bool
  | .poison | .uncorrectable => true
  | _ => false

end Sys2Proof.Machine
end

