-- ==== Sys2Proof/Machine/Mapping.lean ====
section
/-! DEFINITION. Ponds and address mapping (R148 to R163), over a configuration table so that the clamp checker
maps with the values it checks. -/

namespace Sys2Proof.Machine

/-! ### Pond fields (R149) -/

/-- Ponds 0 to 62 with non-zero SIZE, ascending, with their SIZE. -/
def enabledPonds (t : Tab Nat) : List (Nat × Nat) :=
  (t.filter (fun e => e.1 / 2 ^ 28 == 0x0300 && e.1 % 2 ^ 16 == 16)).map (fun e => (e.1 / 2 ^ 16 % 2 ^ 12, e.2))

/-- First block address of the scratch pond (R153). -/
def scratchBase : Nat := 0x3FFFFC0000

/-- The pond that holds a block address (R150). -/
def pondOf (t : Tab Nat) (blk : Nat) : Option Nat :=
  if scratchBase ≤ blk then some 63
  else
    let unit := blk / 2 ^ 22
    ((enabledPonds t).find? (fun e =>
      cfgGet t 0x0300 e.1 0 ≤ unit && unit < cfgGet t 0x0300 e.1 0 + e.2)).map (·.1)

/-- A pond is enabled; pond 63 always is (R151, R153). -/
def pondOn (t : Tab Nat) (p : Nat) : Bool := p == 63 || (enabledPonds t).any (fun e => e.1 == p)

/-- The placement fields of a pond as configured (R151). -/
def placeOf (t : Tab Nat) (p : Nat) : Place :=
  { base := cfgGet t 0x0300 p 0, size := cfgGet t 0x0300 p 16, set := cfgGet t 0x0300 p 32,
    striped := cfgGet t 0x0300 p 35 == 1, grain := cfgGet t 0x0300 p 36, writeFirst := cfgGet t 0x0300 p 40 == 1,
    key := cfgGet t 0x0300 p 44, setOff := cfgGet t 0x0300 p 64, tileBase := cfgGet t 0x0300 p 80,
    exclude := cfgGet t 0x0300 p 112 }

/-- CACHE_POLICY of a pond (R149). -/
def policyOf (t : Tab Nat) (p : Nat) : Nat := cfgGet t 0x0300 p 42

/-! ### Geometry (R158) -/

/-- Geometry of a channel, from record 0x0100. -/
structure Geo where
  ddr4 : Bool
  width8 : Bool
  density : Nat
  ranks : Nat
  stack : Nat
  deriving DecidableEq, Repr

/-- The geometry of channel `c`: ranks physical per channel, or per subchannel on DDR5. -/
def geoOf (t : Tab Nat) (c : Nat) : Geo :=
  let f := fun k => cfgGet t 0x0100 c k
  { ddr4 := f 1 == 1, width8 := f 3 == 1, density := f 4, ranks := (f 2 + 1) * 2 ^ f 6, stack := f 13 }

namespace Geo

/-- SC bits. -/
def sc (g : Geo) : Nat := if g.ddr4 then 0 else 1

/-- BG bits. -/
def bg (g : Geo) : Nat := if g.ddr4 then 2 else 3

/-- BA bits. -/
def ba (_ : Geo) : Nat := 2

/-- Block-column bits. -/
def colb (g : Geo) : Nat := if !g.ddr4 && g.width8 then 6 else 7

/-- Rows per bank. DDR4 devices are 16 Gbit only. -/
def rows (g : Geo) : Nat :=
  if g.ddr4 then (if g.width8 then 131072 else 262144)
  else match g.density with | 0 => 65536 | 1 => 98304 | 2 => 131072 | _ => 262144

/-- Row bits. -/
def rowBits (g : Geo) : Nat :=
  if g.ddr4 then (if g.width8 then 17 else 18)
  else match g.density with | 0 => 16 | 1 => 17 | 2 => 17 | _ => 18

/-- RK. -/
def rk (g : Geo) : Nat := Nat.log2 g.ranks

/-- CID. -/
def cid (g : Geo) : Nat := g.stack

/-- HB. -/
def hb (g : Geo) : Nat := g.sc + g.bg + g.ba

/-- Width of the upper region (R160). -/
def upBits (g : Geo) : Nat := g.rk + g.cid + g.rowBits

/-- The grid layout of a channel (R278). -/
def layout (g : Geo) : Layout :=
  match g.ddr4, g.width8 with
  | false, false => .g5x4
  | false, true => .g5x8
  | true, false => .g4x4
  | true, true => .g4x8

end Geo

/-! ### Interleave sets (R157 to R159) -/

/-- The bits set in an 8-bit mask, ascending. -/
def maskList (m : Nat) : List Nat := (List.range 8).filter (fun c => m.testBit c)

/-- CHANNEL_MASK of a set. -/
def setMask (t : Tab Nat) (s : Nat) : Nat := cfgGet t 0x1200 s 0

/-- Number of members. -/
def maskCount (m : Nat) : Nat := (maskList m).length

/-- The reference member: the lowest-numbered in use, or else the lowest (R164). -/
def refMember (t : Tab Nat) (mask : Nat) : Nat :=
  ((maskList mask).find? (fun c => cfgGet t 0x0100 c 0 == 1)).getD ((maskList mask).headD 0)

/-- The geometry of a set (R158, R164). -/
def setGeo (t : Tab Nat) (s : Nat) : Geo := geoOf t (refMember t (setMask t s))

/-- USABLE_ROWS of a set (R159). -/
def usableRows (t : Tab Nat) (s : Nat) : Nat :=
  (setGeo t s).rows - ((maskList (setMask t s)).map (fun c => cfgGet t 0x0D00 c 0)).foldl max 0

/-- C in bytes (R159). -/
def chanBytes (t : Tab Nat) (s : Nat) : Nat :=
  let g := setGeo t s
  usableRows t s * 2 ^ (6 + g.colb + g.hb + g.rk + g.cid)

/-- SET_UNITS (R159). -/
def setUnits (t : Tab Nat) (s : Nat) : Nat := maskCount (setMask t s) * (chanBytes t s / 2 ^ 28)

/-- The field bits SC, BG, BA that exist, as entry numbers in ascending order (R157). -/
def entries (g : Geo) : List Nat :=
  [3, 4, 5, 6, 7, 8].filter (fun j => if j == 3 then g.sc == 1 else if j ≤ 6 then j - 4 < g.bg else j - 7 < g.ba)

/-- The position of each existing entry in the sub-region (R161). -/
def positions (t : Tab Nat) (s : Nat) (g : Geo) : List (Nat × Nat) :=
  let js := entries g
  let sel := fun j => cfgGet t 0x1200 s (8 * (8 + 8 * j))
  if js.all (fun j => sel j == 15) then js.zipIdx else js.map (fun j => (j, sel j))

/-- XOR_MASK_j. -/
def xorMask (t : Tab Nat) (s j : Nat) : Nat := cfgGet t 0x1200 s (8 * (0x0C + 8 * j))

/-- The parity of the upper-region bits that a mask selects. -/
def selParity (up mask : Nat) : Nat := popcount 32 (up &&& mask) % 2

/-- The `k`-th channel of a mask (R161). -/
def memberChan (mask k : Nat) : Nat := (maskList mask).getD k 0

/-- The index of a channel within a mask. -/
def memberIdx (mask c : Nat) : Nat := (maskList mask).idxOf c

/-- CHANNEL_MASK with EXCLUDE_MASK removed (R161). -/
def memberMask (t : Tab Nat) (p : Place) : Nat :=
  (maskList (setMask t p.set)).foldl (fun m c => if p.exclude.testBit c then m else m + 2 ^ c) 0

/-! ### Forward decode (R160 to R162) -/

/-- The hashed decode of an address `a` of a set with `ch` channel bits; `chan` is the member index (R161). -/
def decodeSet (t : Tab Nat) (s ch a : Nat) : Coord :=
  let g := setGeo t s
  let cl := cfgGet t 0x1200 s 8
  let reg := 6 + cl
  let sub := reg + ch
  let u := sub + g.hb + (g.colb - cl)
  let up := a / 2 ^ u
  let bit := fun (k m : Nat) => (bitsOf a k 1 + selParity up m) % 2
  let field := fun (j : Nat) =>
    match (positions t s g).find? (fun e => e.1 == j) with
    | some e => bit (sub + e.2) (xorMask t s j)
    | none => 0
  { chan := (List.range ch).foldl (fun n k => n + bit (reg + k) (xorMask t s k) * 2 ^ k) 0
    sc := field 3, rank := up % 2 ^ g.rk, cid := up / 2 ^ g.rk % 2 ^ g.cid,
    bg := field 4 + 2 * field 5 + 4 * field 6, ba := field 7 + 2 * field 8, row := up / 2 ^ (g.rk + g.cid),
    col := bitsOf a 6 cl + bitsOf a (sub + g.hb) (g.colb - cl) * 2 ^ cl }

/-- The grain of a pond in bytes (R149). -/
def Place.grainBytes (p : Place) : Nat := 256 * 2 ^ p.grain

/-- The DRAM coordinates of a pond-relative byte address (R160 to R162). -/
def placeDecode (t : Tab Nat) (p : Place) (rel : Nat) : Coord :=
  let m := maskCount (setMask t p.set)
  let mm := memberMask t p
  if p.striped then
    let g := p.grainBytes
    let mp := maskCount mm
    let as := p.setOff * 2 ^ 28 / m * mp + rel
    let c := decodeSet t p.set 0 (as / (g * mp) * g + as % g)
    { c with chan := memberChan mm (as / g % mp) }
  else
    let c := decodeSet t p.set (Nat.log2 m) (p.setOff * 2 ^ 28 + rel)
    { c with chan := memberChan mm c.chan }

/-- The DRAM coordinates of a block of a pond. -/
def coordOf (t : Tab Nat) (p : Nat) (blk : Nat) : Coord :=
  let pl := placeOf t p
  placeDecode t pl (blk * 64 - pl.base * 2 ^ 28)

/-! ### Reverse decode (R163) -/

/-- The set address of coordinates, with `idx` as the member index: the inverse of `decodeSet`. -/
def encodeSet (t : Tab Nat) (s ch idx : Nat) (c : Coord) : Nat :=
  let g := setGeo t s
  let cl := cfgGet t 0x1200 s 8
  let reg := 6 + cl
  let sub := reg + ch
  let u := sub + g.hb + (g.colb - cl)
  let up := c.rank + c.cid * 2 ^ g.rk + c.row * 2 ^ (g.rk + g.cid)
  let fieldBit := fun (j : Nat) =>
    if j == 3 then c.sc % 2 else if j ≤ 6 then c.bg / 2 ^ (j - 4) % 2 else c.ba / 2 ^ (j - 7) % 2
  c.col % 2 ^ cl * 2 ^ 6 +
    (List.range ch).foldl (fun n k => n + (idx / 2 ^ k % 2 + selParity up (xorMask t s k)) % 2 * 2 ^ (reg + k)) 0 +
    (positions t s g).foldl (fun n e => n + (fieldBit e.1 + selParity up (xorMask t s e.1)) % 2 * 2 ^ (sub + e.2)) 0 +
    c.col / 2 ^ cl * 2 ^ (sub + g.hb) + up * 2 ^ u

/-- The pond-relative byte address of coordinates in a pond's placement, if they lie in its part of the channel. -/
def placeEncode (t : Tab Nat) (p : Place) (c : Coord) : Option Nat :=
  let mask := setMask t p.set
  let mm := memberMask t p
  let m := maskCount mask
  if !(mm.testBit c.chan) then none
  else
    let idx := memberIdx mm c.chan
    if p.striped then
      let g := p.grainBytes
      let mp := maskCount mm
      let w := encodeSet t p.set 0 0 c
      let w0 := p.setOff * 2 ^ 28 / m
      if w < w0 then none
      else
        let rel := ((w - w0) / g * mp + idx) * g + (w - w0) % g
        if rel < p.size * 2 ^ 28 then some rel else none
    else
      let a := encodeSet t p.set (Nat.log2 m) idx c
      if a < p.setOff * 2 ^ 28 then none
      else if a - p.setOff * 2 ^ 28 < p.size * 2 ^ 28 then some (a - p.setOff * 2 ^ 28) else none

/-- The pond and block address that coordinates hold, if any (R163). -/
def blockAt (t : Tab Nat) (c : Coord) : Option (Nat × Nat) :=
  (enabledPonds t).findSome? (fun e =>
    let p := placeOf t e.1
    (placeEncode t p c).map (fun rel => (e.1, p.base * 2 ^ 22 + rel / 64)))

/-! ### Tiles (R168, R331) -/

/-- The tile of a block of a valid-tile pond: 4,096 blocks to a tile. -/
def tileOf (p : Place) (blk : Nat) : Nat := p.tileBase * 1024 + (blk - p.base * 2 ^ 22) / 4096

/-- The block addresses of a pond: its first and the first above it. -/
def Place.first (p : Place) : Nat := p.base * 2 ^ 22

/-- The block address that follows a pond. -/
def Place.stop (p : Place) : Nat := (p.base + p.size) * 2 ^ 22

end Sys2Proof.Machine
end

