-- ==== Sys2Proof/Machine/Lists.lean ====
section
/-! DEFINITION. Sluice lists (R183 to R188) and their alignment with turnover (R254, R261), over a configuration
table. A list is named by its record: 0x0700 pending, 0x0701 active. -/

namespace Sys2Proof.Machine

/-- LENGTH of a list. -/
def listLen (t : Tab Nat) (id : Nat) : Nat := cfgGet t id 0 0

/-- BASE_TIME of a list. -/
def listBase (t : Tab Nat) (id : Nat) : Nat := cfgGet t id 0 64

/-- DURATION of entry `e`. -/
def listDur (t : Tab Nat) (id e : Nat) : Nat := cfgGet t id 0 (8 * (0x21 + 8 * e))

/-- The sum of the durations. -/
def listSum (t : Tab Nat) (id : Nat) : Nat := ((List.range (listLen t id)).map (listDur t id)).sum

/-- The cycle of a list (R184). -/
def listCycle (t : Tab Nat) (id : Nat) : Nat :=
  if listLen t id = 0 then 1 else if cfgGet t id 0 32 = 0 then listSum t id else cfgGet t id 0 32

/-- The phase of block time `x` (R185). -/
def listPhase (t : Tab Nat) (id : Nat) (x : Int) : Nat := (modFloor (x - listBase t id) (listCycle t id)).toNat

/-- The entry whose span holds phase `ph`, searching from entry `e` that starts at `s` with `n` entries after it. -/
def entryFrom (t : Tab Nat) (id ph : Nat) : Nat → Nat → Nat → Nat
  | 0, e, _ => e
  | n + 1, e, s => if ph < s + listDur t id e then e else entryFrom t id ph n (e + 1) (s + listDur t id e)

/-- The entry in force at block time `x` of a list that is not empty (R185). -/
def entryAt (t : Tab Nat) (id : Nat) (x : Int) : Nat := entryFrom t id (listPhase t id x) (listLen t id - 1) 0 0

/-- The first cycle boundary at or after `x` (R185). -/
def nextBoundary (t : Tab Nat) (id : Nat) (x : Int) : Int := x + modFloor (listBase t id - x) (listCycle t id)

/-- GATE_MASK, TURNOVER and LEVEL of entry `e`. -/
def entryGate (t : Tab Nat) (id e : Nat) : Nat := cfgGet t id 0 (8 * (0x20 + 8 * e))

/-- TURNOVER of entry `e`. -/
def entryTurn (t : Tab Nat) (id e : Nat) : Bool := cfgGet t id 0 (8 * (0x24 + 8 * e)) == 1

/-- LEVEL of entry `e`. -/
def entryLevel (t : Tab Nat) (id e : Nat) : Nat := cfgGet t id 0 (8 * (0x24 + 8 * e) + 1)

/-- Starts and ends of the entries that run, by entry, after the extension or cut of R184. -/
def spans (t : Tab Nat) (id : Nat) : List (Nat × Nat × Nat) :=
  let len := listLen t id
  let cyc := listCycle t id
  (((List.range len).foldl (fun (acc : Nat × List (Nat × Nat × Nat)) e =>
    let stop := if e + 1 = len then cyc else min cyc (acc.1 + listDur t id e)
    (acc.1 + listDur t id e, if acc.1 < cyc then (e, acc.1, stop) :: acc.2 else acc.2)) (0, [])).2).reverse

/-- The turnover entries that run: start and length. -/
def turnovers (t : Tab Nat) (id : Nat) : List (Nat × Nat) :=
  ((spans t id).filter (fun e => entryTurn t id e.1)).map (fun e => (e.2.1, e.2.2 - e.2.1))

/-- The result of check 6 for a channel and a list (R261). -/
inductive Align where
  | unaligned
  | pass (m : Nat)
  | fail (cond : Nat)
  deriving DecidableEq, Repr

/-- The starts are equally spaced around the cycle; the spacing. -/
def spacing (starts : List Nat) (cyc : Nat) : Option Nat :=
  match starts with
  | [] => none
  | x :: _ =>
    let nexts := starts.tail ++ [x + cyc]
    let gaps := (starts.zip nexts).map (fun e => e.2 - e.1)
    if gaps.all (fun g => g == gaps.headD 0) then some (gaps.headD 0) else none

/-- Check 6 of channel `c` for a list (R261). -/
def alignCheck (t : Tab Nat) (root c id : Nat) : Align :=
  if listLen t id = 0 then .unaligned else
  let ns := cfgGet t 0x0100 c 8 * 1000
  let tv := turnovers t id
  let cyc := listCycle t id
  let refi := cfgGet t 0x0200 c (8 * 0x18) * ns
  let rfc := ceilDiv (cfgGet t 0x0200 c (8 * 0x16) * ns) root
  if tv.isEmpty then .fail 1
  else if !(refi % root == 0) then .fail 2
  else match spacing (tv.map (·.1)) cyc with
    | none => .fail 3
    | some s =>
      let r := refi / root
      let m := r / s
      if !(r % s == 0) || m == 0 || 8 < m || !(cyc % r == 0) then .fail 4
      else
        let ph := cfgGet t 0x0A00 c 2
        let need := rfc + 7 * cfgGet t 0x0A01 0 0 + 50
        if (tv.zipIdx).all (fun e => !(e.2 % m == ph % m) || need ≤ e.1.2) then .pass m else .fail 5

/-- The lowest energy level that leaves the list without DRAM energy, if every open entry that runs selects such a level
(R275). -/
def dryLevel (t : Tab Nat) (id : Nat) : Option Nat :=
  let opens := ((spans t id).map (·.1)).filter (fun e => !(entryGate t id e == 0))
  let pct := fun l => cfgGet t id 0 (8 * (0x18 + l))
  if listLen t id = 0 || opens.isEmpty then none
  else if opens.all (fun e => pct (entryLevel t id e) == 0) then
    (List.range 4).find? (fun l => opens.any (fun e => entryLevel t id e == l))
  else none

/-- The applied activation time of the pending list, and whether it is late (R188). -/
def activation (t : Tab Nat) (now : Int) : Int × Bool :=
  let want : Int := cfgGet t 0x0700 0 128
  if want = 0 then (nextBoundary t 0x0700 (now + 10000), false)
  else
    let own := nextBoundary t 0x0700 want
    (nextBoundary t 0x0700 (max want (now + 10000)), own < now + 10000)

end Sys2Proof.Machine
end

