-- ==== Sys2Proof/Machine/Clamp.lean ====
section
/-! DEFINITION. The clamp checker (R140 to R144): the field step, and the cross-field checks 1 to 9 in their order.

`live` is the configuration the check compares with (the defaults for a retained image, R141), `real` the one in
force, `new` the candidate, `carried` the records that the packet, transaction or image carries, and `locked` says
that no field may change (an image after a warm or soft reset, all of whose fields are kept, R390). -/

namespace Sys2Proof.Machine

/-- A check in progress. -/
structure Chk where
  live : Tab Nat
  real : Tab Nat
  new : Tab Nat
  carried : List (Nat × Nat)
  locked : Bool := false
  rebuild : Option Nat := none
  rep : List RepEnt := []

namespace Chk

/-- The candidate value of a field. -/
def v (c : Chk) (id inst bit : Nat) : Nat := cfgGet c.new id inst bit

/-- The live value of a field. -/
def lv (c : Chk) (id inst bit : Nat) : Nat := cfgGet c.live id inst bit

/-- The record is carried. -/
def has (c : Chk) (id inst : Nat) : Bool := c.carried.contains (id, inst)

/-- Adds a report entry. -/
def note (c : Chk) (id inst bit reason req app : Nat) : Chk :=
  { c with rep := c.rep ++ [⟨id, inst, bit, reason, req, app⟩] }

/-- Changes a carried field, with its report entry; a field that is not carried never changes (R140). -/
def put (c : Chk) (id inst bit x reason : Nat) : Chk :=
  let old := c.v id inst bit
  if c.locked || !(c.has id inst) || old == x then c
  else { c with new := cfgSet c.new id inst bit x }.note id inst bit reason old x

/-- A warning: the value is applied unchanged (R144). -/
def warn (c : Chk) (id inst bit : Nat) : Chk := c.note id inst bit 7 (c.v id inst bit) (c.v id inst bit)

/-- The writable fields of a record, in ascending order. -/
def writable (id inst : Nat) : List Nat :=
  ((recFields id inst).filter (fun f => !decide (f.oor = .ro))).map (·.bit)

/-- A field set back to its live value (R140). -/
def back (c : Chk) (id inst bit : Nat) : Chk := c.put id inst bit (c.lv id inst bit) 4

/-- Every field of a record set back to its live value. -/
def backRec (c : Chk) (id inst : Nat) : Chk := (writable id inst).foldl (fun c k => c.back id inst k) c

/-- Fields of a record set back to the values in force. -/
def backReal (c : Chk) (id inst : Nat) (skip : List Nat) : Chk :=
  (writable id inst).foldl (fun c k =>
    if skip.contains k then c else c.put id inst k (cfgGet c.real id inst k) 4) c

/-- The carried instances of a record, ascending. -/
def insts (c : Chk) (id : Nat) : List Nat := (c.carried.filter (fun e => e.1 == id)).map (·.2)

end Chk

/-! ### The field step (R16, R140 step 2) -/

/-- What the Out of range entry does with a value: the value applied and the reason; none where it is in range. -/
def fieldFix (o : Oor) (overhead x : Nat) : Option (Nat × Nat) :=
  match o with
  | .none | .ro => none
  | .clamp lo hi => if x < lo then some (lo, 1) else if hi < x then some (hi, 2) else none
  | .zeroOr lo hi => if x = 0 then none else if x < lo then some (lo, 1) else if hi < x then some (hi, 2) else none
  | .listed hi to_ => if hi < x then some (to_, 3) else none
  | .gap lo => if x = 0 then none else if x < lo then some (lo, 3) else none
  | .bucket hi _ =>
    if x = 0 then some (64 + overhead, 1) else if x < 64 then some (64, 1) else if hi < x then some (hi, 2) else none
  | .osc =>
    if x < 16 then some (16, 1) else if 1008 < x then some (1008, 2)
    else if x % 16 = 0 then none else some (x / 16 * 16, 3)
  | .baseSel => if 6 ≤ x ∧ x ≤ 14 then some (15, 3) else none
  | .retired => if 16 < x then some (0, 2) else none
  | .drift => if 64 ≤ x ∧ x < 128 then some (63, 2) else if 128 ≤ x ∧ x < 192 then some (192, 1) else none
  | .budget => if x = 0 then some (1, 4) else none
  | .event hi => if hi < x then some (0, 3) else none
  | .noSub => if x = 0 then none else some (0, 3)

/-- The OVERHEAD place that a bucket depth reads. -/
def Oor.overheadBit : Oor → Nat
  | .bucket _ ov => ov
  | _ => 0

/-- Generation that check 2 will see of a channel: of a serving channel, the one in force (R308). -/
def genSeen (b : Block) (c : Chk) (ch : Nat) : Nat :=
  if b.chanServes ch then cfgGet c.real 0x0100 ch 1 else c.v 0x0100 ch 1

/-- Fields that the field step leaves out (R173, R183, R238). -/
def fieldSkipped (b : Block) (c : Chk) (id inst bit : Nat) : Bool :=
  if id == 0x0500 then (bit == 64 || bit == 128) && !(c.v 0x0500 inst 0 == 2)
  else if id == 0x0700 || id == 0x0701 then 256 ≤ bit && c.v id inst 0 ≤ (bit - 256) / 64
  else if id == 0x0200 then bit == 104 && genSeen b c inst == 1
  else false

/-- The field step of one field. -/
def fieldOne (b : Block) (c : Chk) (id inst bit : Nat) : Chk :=
  let x := c.v id inst bit
  if id == 0x0300 && inst == 63 && !(bit == 48 || bit == 49) then c
  else if fieldSkipped b c id inst bit then c
  else match (recFields id inst).find? (fun f => f.bit == bit) with
    | none => c
    | some f =>
      let c := match fieldFix f.oor (c.v id inst f.oor.overheadBit) x with
        | none => c
        | some r => c.put id inst bit r.1 r.2
      if id == 0x0800 && ((bit == 0 && x == 0) || (bit == 16 && x == 1 && !(b.lc == .factory))) then c.warn id inst bit
      else c

/-- The field step over every carried field. A field at its default is in range, so only the listed ones are visited. -/
def fieldStep (b : Block) (c : Chk) : Chk :=
  c.new.foldl (fun c e =>
    let id := e.1 / 2 ^ 28
    let inst := e.1 / 2 ^ 16 % 2 ^ 12
    if c.has id inst then fieldOne b c id inst (e.1 % 2 ^ 16) else c) c

/-! ### Check 1 (R35, R306, R308, R309) -/

/-- The dividers of a generation at a root with a DIMM count. -/
def dividers (root gen dimms : Nat) : List Nat :=
  match root, gen, dimms with
  | 14400, 0, 0 => [4, 6, 8] | 14400, 0, _ => [6, 8] | 14400, _, 0 => [9, 12] | 14400, _, _ => [12]
  | 12800, 0, 0 => [4, 8] | 12800, 0, _ => [8] | 12800, _, 0 => [8, 16] | 12800, _, _ => [16]
  | _, 0, _ => [4] | _, _, 0 => [8] | _, _, _ => []

/-- VDDQ lies in the window of the generation (R77). -/
def vddqInWindow (gen mv : Nat) : Bool :=
  if gen == 0 then decide (1067 ≤ mv ∧ mv ≤ 1133) else decide (1164 ≤ mv ∧ mv ≤ 1236)

/-- Check 1 of one carried channel record. -/
def check1One (b : Block) (c : Chk) (i : Nat) : Chk :=
  let c := if b.chanServes i then c.backReal 0x0100 i [16, 64, 80, 88] else c
  let gen := c.v 0x0100 i 1
  let c := if gen == 1 then c.put 0x0100 i 4 0 4 else c
  let c := if gen == 0 && c.v 0x0100 i 6 == 2 then c.put 0x0100 i 6 1 4 else c
  let c := if c.v 0x0100 i 2 == 1 && c.v 0x0100 i 6 == 2 then c.put 0x0100 i 6 1 4 else c
  let ds := dividers b.clk.rootMhz gen (c.v 0x0100 i 2)
  let n := c.v 0x0100 i 8
  let c :=
    if ds.isEmpty then c.put 0x0100 i 0 0 5
    else if ds.contains n then c
    else c.put 0x0100 i 8 ((ds.find? (fun d => n < d)).getD (ds.getLastD n)) 4
  let ph := (b.chan i).phy
  if c.v 0x0100 i 0 == 1 && ph.vddqSeen && !(vddqInWindow gen ph.vddqMv) then c.warn 0x0100 i 1 else c

/-- Check 1. -/
def check1 (b : Block) (c : Chk) : Chk := (c.insts 0x0100).foldl (check1One b) c

/-! ### Check 2 (R240, R241) -/

/-- The top of a timing field's Range. -/
def timingTop (bit : Nat) : Nat :=
  match ((recFields 0x0200 0).find? (fun f => f.bit == bit)).map FieldSpec.oor with
  | some (Oor.clamp _ hi) => hi
  | _ => 0

/-- The raises of R240, rules 2 to 10: the field and its bound. -/
def timingRules (ddr5 : Bool) : List (Nat × ((Nat → Nat) → Nat)) :=
  let bl2 := if ddr5 then 8 else 4
  [(32, fun f => f 16), (48, fun f => f 32 + f 24), (72, fun f => f 64), (88, fun _ => bl2), (96, fun f => f 88)] ++
  (if ddr5 then [(104, fun f => f 96)] else []) ++
  [(120, fun f => f 112), (160, fun f => f 0 + bl2 + 2 - f 8), (152, fun f => f 8 + bl2 + 2 - f 0)]

/-- One raise; the second component says that the record was set back, which ends the rules. -/
def timingRaise (i : Nat) (a : Chk × Bool) (r : Nat × ((Nat → Nat) → Nat)) : Chk × Bool :=
  let bound := r.2 (a.1.v 0x0200 i)
  if a.2 || bound ≤ a.1.v 0x0200 i r.1 then a
  else if timingTop r.1 < bound then (a.1.backRec 0x0200 i, true)
  else (a.1.put 0x0200 i r.1 bound 4, false)

/-- The relations of R240 over one record. -/
def timingRelations (c : Chk) (i : Nat) : Chk :=
  let c := if c.v 0x0200 i 0 < c.v 0x0200 i 8 then c.put 0x0200 i 8 (c.v 0x0200 i 0) 4 else c
  let a := (timingRules (c.v 0x0100 i 1 == 0)).foldl (timingRaise i) (c, false)
  if !a.2 && a.1.v 0x0200 i 192 < 2 * a.1.v 0x0200 i 176 then (a.1.back 0x0200 i 176).back 0x0200 i 192 else a.1

/-- Check 2. -/
def check2 (b : Block) (c : Chk) : Chk :=
  (c.insts 0x0200).foldl (fun c i =>
    if b.chanServes i then c.backReal 0x0200 i [] else timingRelations c i) c

/-! ### Checks 3 and 4 (R164, R165) -/

/-- A set on which an enabled or a draining pond lies. -/
def held (b : Block) (c : Chk) (s : Nat) : Bool :=
  (enabledPonds c.live).any (fun e => cfgGet c.live 0x0300 e.1 32 == s) ||
    b.ponds.any (fun e => e.2.draining.any (fun d => d.1.set == s))

/-- The channel fields that decide geometry: GENERATION, DIMMS, DEVICE_WIDTH, DENSITY, RANKS_PER_DIMM, DIVIDER, STACK. -/
def geoBits : List Nat := [1, 2, 3, 4, 6, 8, 13]

/-- Channel `i` differs from channel `r` in generation, divider, width, density, physical ranks or 3DS height. -/
def differs (t : Tab Nat) (i r : Nat) : Bool :=
  !decide (geoOf t i = geoOf t r) || !(cfgGet t 0x0100 i 8 == cfgGet t 0x0100 r 8)

/-- Members that step 3 of R164 would remove. -/
def unfit (t : Tab Nat) (mask : Nat) : List Nat :=
  let r := refMember t mask
  (maskList mask).filter (fun i => !(cfgGet t 0x0100 i 0 == 1) || differs t i r)

/-- A channel leaves a carried set's mask. -/
def dropMember (s : Nat) (c : Chk) (i : Nat) : Chk := c.put 0x1200 s 0 (c.v 0x1200 s 0 - 2 ^ i) 4

/-- The fields of a channel record that check 3 reads are set back (R140 step 4). -/
def backGeo (c : Chk) (i : Nat) : Chk := (0 :: geoBits).foldl (fun c k => c.back 0x0100 i k) c

/-- Step 1 of R164 for a channel of a held set: a record that alters the set falls back. -/
def heldChannel (mask : Nat) (c : Chk) (i : Nat) : Chk :=
  let newly := c.v 0x0100 i 0 == 1 && c.lv 0x0100 i 0 == 0
  let c := if newly && differs c.new i (refMember c.live mask) then backGeo c i else geoBits.foldl (fun c k => c.back 0x0100 i k) c
  let c := if newly && differs c.new i (refMember c.live mask) then c.back 0x0100 i 0 else c
  c.back 0x0D00 i 0

/-- CHANNEL_MASK of the carried lower sets that claim a channel of set `s` is set back (R140 step 4). -/
def backClaims (b : Block) (c : Chk) (s : Nat) : Chk :=
  (List.range s).foldl (fun c k =>
    if !(held b c k) && !((c.v 0x1200 k 0 &&& c.v 0x1200 s 0) == 0) then c.back 0x1200 k 0 else c) c

/-- The masks of the sets below `s`. -/
def lowerMask (c : Chk) (s : Nat) : Nat := (List.range s).foldl (fun m k => m ||| c.v 0x1200 k 0) 0

/-- Check 3 of one set; the second component says that a claim of a lower set was set back. -/
def check3One (b : Block) (c : Chk) (s : Nat) : Chk × Bool :=
  let claims := fun (c : Chk) => !((c.v 0x1200 s 0 &&& lowerMask c s) == 0)
  let undo := fun (c : Chk) =>
    let c' := backClaims b c s
    (c', !(c'.rep.length == c.rep.length))
  if held b c s then
    let c := c.backRec 0x1200 s
    let c := (maskList (c.v 0x1200 s 0)).foldl (heldChannel (c.v 0x1200 s 0)) c
    if claims c then undo c else (c, false)
  else
    let mask := c.v 0x1200 s 0
    if mask == 0 then (c, false)
    else if c.has 0x1200 s then
      let c := (maskList (mask &&& lowerMask c s)).foldl (dropMember s) c
      ((unfit c.new (c.v 0x1200 s 0)).foldl (dropMember s) c, false)
    else if claims c then undo c
    else if (unfit c.new mask).isEmpty then (c, false)
    else ((maskList mask).foldl backGeo c, false)

/-- Sets `s` to 7 in ascending order, up to the first whose claim is set back. -/
def check3From (b : Block) : List Nat → Chk → Chk × Bool
  | [], c => (c, false)
  | s :: t, c =>
    let r := check3One b c s
    if r.2 then r else check3From b t r.1

/-- Check 3. Where a claim is set back, the sets are examined again from the first, since the channels given back count again
(log entry 62). Each pass that is not the last sets back a set of its own, so eight suffice. -/
def check3Passes (b : Block) : Nat → Chk → Chk
  | 0, c => c
  | n + 1, c =>
    let r := check3From b (List.range 8) c
    if r.2 then check3Passes b n r.1 else r.1

/-- Check 3 (R164). -/
def check3 (b : Block) (c : Chk) : Chk := check3Passes b 9 c

/-- `m` is a power of two. -/
def isPow2 (m : Nat) : Bool := !(m == 0) && 2 ^ Nat.log2 m == m

/-- The entries that exist in a set, channel bits included (R157). -/
def allEntries (g : Geo) (m : Nat) : List Nat := (if isPow2 m then List.range (Nat.log2 m) else []) ++ entries g

/-- Check 4 of one enabled set that is carried. -/
def check4Set (c : Chk) (s : Nat) : Chk :=
  let mask := c.v 0x1200 s 0
  let g := setGeo c.new s
  let c := if g.colb < c.v 0x1200 s 8 then c.put 0x1200 s 8 g.colb 4 else c
  let c := (allEntries g (maskCount mask)).foldl (fun c j =>
    let bit := 8 * (0x0C + 8 * j)
    c.put 0x1200 s bit (c.v 0x1200 s bit % 2 ^ g.upBits) 4) c
  let js := entries g
  let sel := js.map (fun j => c.v 0x1200 s (8 * (8 + 8 * j)))
  if sel.all (· == 15) || (List.range g.hb).all (fun k => sel.contains k) then c
  else js.foldl (fun c j => c.put 0x1200 s (8 * (8 + 8 * j)) 15 4) c

/-- Check 4. A set that is not carried and would fail has its members' carried channel records set back. -/
def check4 (c : Chk) : Chk :=
  (List.range 8).foldl (fun c s =>
    let mask := c.v 0x1200 s 0
    if mask == 0 then c
    else if c.has 0x1200 s then check4Set c s
    else if (check4Set { c with carried := [(0x1200, s)], locked := false, rep := [] } s).rep.isEmpty then c
    else (maskList mask).foldl backGeo c) c

/-! ### Check 5 (R151, R166, R167) -/

/-- The placement fields of record 0x0300 less CACHE_POLICY. -/
def placeBits : List Nat := [0, 16, 32, 35, 36, 40, 44, 64, 80, 112]

/-- Step 1 of R166 for one carried pond. -/
def pondStep1 (c : Chk) (p : Nat) : Chk :=
  if c.lv 0x0300 p 16 == 0 || c.rebuild == some p then c
  else
    let diff := fun k => !(c.v 0x0300 p k == c.lv 0x0300 p k)
    let cached := (c.v 0x0300 p 42 == 0) != (c.lv 0x0300 p 42 == 0)
    if placeBits.any (fun k => !(k == 16) && diff k) || cached || (diff 16 && !(c.v 0x0300 p 16 == 0)) then
      let c := [0, 16, 32, 35, 36, 40].foldl (fun c k => c.back 0x0300 p k) c
      let c := if cached then c.back 0x0300 p 42 else c
      [44, 64, 80, 112].foldl (fun c k => c.back 0x0300 p k) c
    else c

/-- A carried pond that is enabled. -/
def pondLive (c : Chk) (p : Nat) : Bool := c.has 0x0300 p && !(c.v 0x0300 p 16 == 0)

/-- A new pond (R166). -/
def pondNew (c : Chk) (p : Nat) : Bool := pondLive c p && (c.lv 0x0300 p 16 == 0 || c.rebuild == some p)

/-- Step 2 of R166. -/
def pondStep2 (c : Chk) (p : Nat) : Chk :=
  if !(pondLive c p) then c
  else
    let mask := c.v 0x1200 (c.v 0x0300 p 32) 0
    let x := c.v 0x0300 p 112 &&& mask
    c.put 0x0300 p 112 (if x == mask then 0 else x) 4

/-- Step 3 of R166. -/
def pondStep3 (c : Chk) (p : Nat) : Chk :=
  let m := maskCount (c.v 0x1200 (c.v 0x0300 p 32) 0)
  if pondLive c p && c.v 0x0300 p 35 == 0 && !(isPow2 m && c.v 0x0300 p 112 == 0) then c.put 0x0300 p 35 1 5 else c

/-- Step 4 of R166. -/
def pondStep4 (c : Chk) (p : Nat) : Chk :=
  let m := maskCount (c.v 0x1200 (c.v 0x0300 p 32) 0)
  if pondLive c p && c.v 0x0300 p 35 == 1 && !(m == 0) && !(isPow2 m) then
    c.put 0x0300 p 64 (ceilDiv (c.v 0x0300 p 64) m * m) 4
  else c

/-- The extent of a pond in set space (R166). -/
def extentOf (t : Tab Nat) (p : Place) : Nat :=
  let m := maskCount (setMask t p.set)
  let mp := maskCount (memberMask t p)
  if mp = 0 then p.size else ceilDiv (p.size * m) mp

/-- The length left by rules 1 and 2 of R167 to a range that starts at `st`. -/
def cutFixed (fixed : List (Nat × Nat)) (cap st len : Nat) : Nat :=
  if fixed.any (fun f => f.1 ≤ st && st < f.1 + f.2) then 0
  else
    let stop := fixed.foldl (fun e f => if st < f.1 then min e f.1 else e) (min (st + len) cap)
    stop - st

/-- Insertion of a range by start, then number. -/
def insStart (x : Nat × Nat × Nat) : List (Nat × Nat × Nat) → List (Nat × Nat × Nat)
  | [] => [x]
  | y :: t => if x.2.1 < y.2.1 || (x.2.1 == y.2.1 && x.1 ≤ y.1) then x :: y :: t else y :: insStart x t

/-- Rule 3 of R167: each range is cut back to the start of the next. -/
def cutNext : List (Nat × Nat × Nat) → List (Nat × Nat)
  | a :: b :: t => (a.1, min a.2.2 (b.2.1 - a.2.1)) :: cutNext (b :: t)
  | [a] => [(a.1, a.2.2)]
  | [] => []

/-- The new ponds among `ps` reduced by R167: `iv` gives start and length, `size` turns a length into SIZE. -/
def reduceNew (c : Chk) (ps : List Nat) (iv : Chk → Nat → Nat × Nat) (fixed : List (Nat × Nat)) (cap : Nat)
    (size : Nat → Nat → Nat) : Chk :=
  let shrink := fun (c : Chk) (p len : Nat) => if len < (iv c p).2 then c.put 0x0300 p 16 (size p len) 4 else c
  let c := ps.foldl (fun c p => shrink c p (cutFixed fixed cap (iv c p).1 (iv c p).2)) c
  let left := (ps.filter (pondNew c)).foldl (fun l p => insStart (p, (iv c p).1, (iv c p).2) l) []
  (cutNext left).foldl (fun c e => shrink c e.1 e.2) c

/-- Ponds 0 to 62. -/
def pondIds : List Nat := List.range 63

/-- Step 5 of R166 on one set. -/
def pondStep5 (b : Block) (c : Chk) (s : Nat) : Chk :=
  let on := fun p => c.v 0x0300 p 32 == s
  let news := pondIds.filter (fun p => pondNew c p && on p)
  if news.isEmpty then c else
  let fixed := ((enabledPonds c.new).filter (fun e => !(pondNew c e.1) && on e.1)).map (fun e =>
      let pl := placeOf c.new e.1
      (pl.setOff, extentOf c.new pl)) ++
    b.ponds.flatMap (fun e => (e.2.draining.filter (fun d => d.1.set == s)).map (fun d => (d.1.setOff, extentOf c.live d.1)))
  let m := maskCount (setMask c.new s)
  reduceNew c news (fun c p => (c.v 0x0300 p 64, extentOf c.new (placeOf c.new p))) fixed (setUnits c.new s)
    (fun p e => if m = 0 then 0 else e * maskCount (memberMask c.new (placeOf c.new p)) / m)

/-- Step 6 of R166. -/
def pondStep6 (b : Block) (c : Chk) : Chk :=
  let news := pondIds.filter (pondNew c)
  if news.isEmpty then c else
  let fixed := ((enabledPonds c.new).filter (fun e => !(pondNew c e.1))).map (fun e => (c.v 0x0300 e.1 0, e.2)) ++
    b.ponds.flatMap (fun e => e.2.draining.map (fun d => (d.1.base, d.1.size)))
  reduceNew c news (fun c p => (c.v 0x0300 p 0, c.v 0x0300 p 16)) fixed 65535 (fun _ e => e)

/-- Check 5. The MAP_MODE entry of a rebuild is no report entry (R170). -/
def check5 (b : Block) (c : Chk) : Chk :=
  let ps := (c.insts 0x0300).filter (fun p => p < 63)
  if ps.isEmpty then c else
  let c := ps.foldl pondStep1 c
  let c := ps.foldl pondStep2 c
  let c3 := ps.foldl pondStep3 c
  let c := if c.rebuild.isSome then { c3 with rep := c.rep } else c3
  let c := ps.foldl pondStep4 c
  pondStep6 b ((List.range 8).foldl (pondStep5 b) c)

/-! ### Checks 6 to 9 -/

/-- The lists that checks 6 and 7 examine (R261). -/
def listsSeen (c : Chk) (image : Bool) : List Nat :=
  if image then [0x0701]
  else if c.has 0x0700 0 && c.v 0x0700 0 16 == 1 then [0x0700]
  else if c.v 0x0700 0 16 == 1 then [0x0701, 0x0700] else [0x0701]

/-- Check 6 fails for a channel on one of the lists examined. -/
def fails6 (b : Block) (c : Chk) (image : Bool) (i : Nat) : Bool :=
  (listsSeen c image).any (fun id => match alignCheck c.new b.clk.rootMhz i id with | .fail _ => true | _ => false)

/-- Check 6 (R261, R262). -/
def check6 (b : Block) (c : Chk) (image : Bool) : Chk :=
  if c.carried.any (fun e => [0x0100, 0x0200, 0x0A00, 0x0A01, 0x0700].contains e.1 || (image && e.1 == 0x0701)) then
    (List.range 8).foldl (fun c i =>
      if c.v 0x0100 i 0 == 1 && c.v 0x0A00 i 0 == 1 && fails6 b c image i then c.note 0x0A00 i 0 5 1 0 else c) c
  else c

/-- Check 7 (R275). -/
def check7 (c : Chk) (image : Bool) : Chk :=
  let c := if c.v 0x0B01 0 8 ≤ c.v 0x0B01 0 0 then c.put 0x0B01 0 0 (c.v 0x0B01 0 8 - 5) 4 else c
  let c := if c.v 0x0B01 0 24 ≤ c.v 0x0B01 0 16 then c.put 0x0B01 0 16 (c.v 0x0B01 0 24 - 5) 4 else c
  (listsSeen c image).foldl (fun c id =>
    match dryLevel c.new id with
    | none => c
    | some l => c.warn id 0 (8 * (0x18 + l))) c

/-- Check 8 (R370). -/
def check8 (c : Chk) : Chk :=
  let mode := fun (f : Nat → Nat → Nat → Nat) w => f 0x0E00 0 (64 + 2 * w)
  if c.v 0x0E00 0 0 == 1 && (List.range 16).all (fun w => !(mode c.v w == 0)) then
    let w := ((List.range 16).find? (fun w => mode c.lv w == 0)).getD 0
    c.put 0x0E00 0 (64 + 2 * w) 0 4
  else c

/-- The tile range of a pond in units of 1,024 tiles. -/
def tileRange (c : Chk) (p : Nat) : Nat × Nat := (c.v 0x0300 p 80, c.v 0x0300 p 80 + c.v 0x0300 p 16)

/-- The rule of group 0x03 (R168). -/
def lastPond (c : Chk) (p : Nat) : Chk :=
  if pondNew c p && c.v 0x0300 p 40 == 0 then
    let r := tileRange c p
    let clash := (enabledPonds c.new).any (fun e =>
      !(e.1 == p) && c.v 0x0300 e.1 40 == 0 && r.1 < (tileRange c e.1).2 && (tileRange c e.1).1 < r.2)
    if 4096 < r.2 || clash then c.put 0x0300 p 40 1 5 else c
  else c

/-- Instance 63 of record 0x0300: a field that reads zero takes no other value (R153). -/
def lastScratch (c : Chk) : Chk :=
  (Chk.writable 0x0300 63).foldl (fun c k => if k == 48 || k == 49 then c else c.put 0x0300 63 k 0 4) c

/-- The warning of R184 for a list. -/
def lastList (c : Chk) (id : Nat) : Chk :=
  let ct := c.v id 0 32
  if c.has id 0 && !(ct == 0) && !(c.v id 0 0 == 0) && !(listSum c.new id == ct) then c.warn id 0 32 else c

/-- The rule of record 0x0C01 (R292). -/
def lastRetired (c : Chk) (i : Nat) : Chk :=
  let g := geoOf c.new i
  let units := if g.ddr4 then g.ranks else 2 * g.ranks
  (List.range 8).foldl (fun c u =>
    let x := c.v 0x0C01 i (8 * u)
    if !(x == 0) && (g.width8 || units ≤ u || !(c.v 0x0100 i 0 == 1) || g.layout.devices < x) then
      c.put 0x0C01 i (8 * u) 0 4 else c) c

/-- Check 9: the remaining checks by ascending group. -/
def check9 (b : Block) (c : Chk) : Chk :=
  let c := lastScratch (((c.insts 0x0300).filter (fun p => p < 63)).foldl lastPond c)
  let c := (c.insts 0x0500).foldl (fun c s =>
    if c.v 0x0500 s 0 == 2 && c.v 0x0500 s 64 < c.v 0x0500 s 32 then c.put 0x0500 s 64 (c.v 0x0500 s 32) 4 else c) c
  let c := lastList (lastList c 0x0700) 0x0701
  let c := (c.insts 0x0900).foldl (fun c i =>
    if c.v 0x0900 i 32 ≤ c.v 0x0900 i 40 then c.put 0x0900 i 40 (c.v 0x0900 i 32 - 8) 4 else c) c
  let c := (c.insts 0x0A00).foldl (fun c i =>
    if c.v 0x0A00 i 80 < 2 * c.v 0x0A00 i 64 then c.put 0x0A00 i 80 (2 * c.v 0x0A00 i 64) 4 else c) c
  let c := (c.insts 0x0C01).foldl lastRetired c
  let c := (c.insts 0x0D00).foldl (fun c i =>
    let need := ((b.chan i).cam.map (fun e => e.spare + 1)).foldl max 0
    if c.v 0x0D00 i 0 < need then c.put 0x0D00 i 0 need 4 else c) c
  (c.insts 0x1100).foldl (fun c i => if b.chanServes (i / 8) then c.backReal 0x1100 i [] else c) c

/-- The whole check (R140). -/
def runChecks (b : Block) (c : Chk) (image : Bool) : Chk :=
  let c := if c.locked then c else fieldStep b c
  let c := check2 b (check1 b c)
  let c := check5 b (check4 (check3 b c))
  check9 b (check8 (check7 (check6 b c image) image))

/-! ### Records as bytes (R136, R142) -/

/-- A record's field is read-only to packets (R183, R369). -/
def packetReadOnly (id bit : Nat) : Bool := id == 0x0701 || (id == 0x0E00 && (bit == 0 || 64 ≤ bit))

/-- The candidate table with the fields of a record taken from its little-endian number. -/
def stageRecord (image : Bool) (t : Tab Nat) (id inst x : Nat) : Tab Nat :=
  (recFields id inst).foldl (fun t f =>
    if f.oor = .ro || (!image && packetReadOnly id f.bit) || (image && f.kept < 8) then t
    else cfgSet t id inst f.bit (bitsOf x f.bit f.w)) t

/-- The check of records that a packet or transaction carries, in ascending order (R140). -/
def checkPacket (b : Block) (recs : List (Nat × Nat × Nat)) : Chk :=
  let new := recs.foldl (fun t r => stageRecord false t r.1 r.2.1 r.2.2) b.cfg
  runChecks b { live := b.cfg, real := b.cfg, new := new, carried := recs.map (fun r => (r.1, r.2.1)) } false

/-- Every record and instance that an image carries (R409, R410). -/
def imageRecords : List (Nat × Nat) :=
  recIds.flatMap (fun id =>
    if (recFields id 0).any (fun f => 8 ≤ f.kept) && !(id == 0x0D01 || id == 0x0D02) then
      (List.range (((recShape id).map (·.2)).getD 0)).map (fun i => (id, i))
    else [])

/-- The check of an image against the defaults (R141). -/
def checkImage (b : Block) (cfg : Tab Nat) : Chk :=
  runChecks b { live := [], real := b.cfg, new := cfg, carried := imageRecords } true

/-- The check of an image after a warm or soft reset: every field it could supply is kept (R18, R390). -/
def checkKept (b : Block) : Chk :=
  runChecks b { live := b.cfg, real := b.cfg, new := b.cfg, carried := imageRecords, locked := true } true

end Sys2Proof.Machine
end

