-- ==== Sys2Proof/Machine/Meters.lean ====
section
/-! DEFINITION. Policers, shapers and the running sluice engine (R171 to R193, R262). -/

namespace Sys2Proof.Machine

/-! ### Buckets (R172) -/

/-- The refill of a rate in MB/s, in units of 2^-16 byte per cclk. -/
def rateInc (hz rate : Nat) : Nat := rate * 10 ^ 6 * 2 ^ 16 / hz

/-- A bucket refilled to cclk `now`; a negative level is never clipped. -/
def Bucket.refill (k : Bucket) (now inc depth : Nat) : Bucket :=
  { tok := min (k.tok + inc * (now - k.last : Nat)) (depth * 2 ^ 16 : Nat), last := now }

/-- A level above a new, smaller depth is lowered to it. -/
def Bucket.clip (k : Bucket) (depth : Nat) : Bucket := { k with tok := min k.tok (depth * 2 ^ 16 : Nat) }

/-! ### Policers (R173 to R177) -/

/-- Settings of a policer, record 0x0500. -/
structure Pol where
  mode : Nat
  yellow : Nat
  overhead : Nat
  cir : Nat
  pir : Nat
  cbs : Nat
  pbs : Nat
  deriving DecidableEq, Repr

/-- The policer settings of slot `s` in a configuration table. -/
def polOf (t : Tab Nat) (s : Nat) : Pol :=
  let f := cfgGet t 0x0500 s
  { mode := f 0, yellow := f 2, overhead := f 8, cir := f 32, pir := f 64, cbs := f 96, pbs := f 128 }

/-- The slot with both buckets refilled to `now` under these settings. -/
def Slot.refill (s : Slot) (p : Pol) (hz now : Nat) : Slot :=
  { s with polC := s.polC.refill now (rateInc hz p.cir) p.cbs, polP := s.polP.refill now (rateInc hz p.pir) p.pbs }

/-- The cost in 2^-16 byte, at most the depth (R174). -/
def capCost (cost depth : Nat) : Int := (min (cost * 2 ^ 16) (depth * 2 ^ 16) : Nat)

/-- Colours and charges a request of base cost `base` (R174). -/
def Slot.police (s : Slot) (p : Pol) (hz now base : Nat) : Slot × Colour :=
  if p.mode = 0 then (s, .off) else
  let cc := capCost (base + p.overhead) p.cbs
  let cp := capCost (base + p.overhead) p.pbs
  let s1 := { s with polC := s.polC.refill now (rateInc hz p.cir) p.cbs }
  if p.mode = 1 then
    if p.cir = 0 ∨ s1.polC.tok < cc then (s1, .red)
    else ({ s1 with polC := { s1.polC with tok := s1.polC.tok - cc } }, .green)
  else
    let s2 := { s1 with polP := s1.polP.refill now (rateInc hz p.pir) p.pbs }
    if p.pir = 0 ∨ s2.polP.tok < cp then (s2, .red)
    else
      let s3 := { s2 with polP := { s2.polP with tok := s2.polP.tok - cp } }
      if p.cir = 0 ∨ s3.polC.tok < cc then (s3, .yellow)
      else ({ s3 with polC := { s3.polC with tok := s3.polC.tok - cc } }, .green)

/-- POLICER_RED: the red requests since the last record written, this one included (R177, R194). -/
def Block.redEvent (b : Block) (slot inlet cls cost : Nat) : Block :=
  let n := (b.slot slot).reds + 1
  let b' := b.event 0x40 [(1, slot), (1, inlet), (1, cls), (2, cost), (4, sat32 n)]
  b'.modSlot slot (fun s => { s with reds := if b'.log.nextSeq = b.log.nextSeq then n else 0 })

/-- Stage 3 for a request of slot `slot` (R174, R175): its colour, and the policer's state and counts. -/
def Block.police (b : Block) (slot inlet cls base : Nat) : Block × Colour :=
  let p := polOf b.cfg slot
  let r := (b.slot slot).police p b.clk.hz b.clk.cclk base
  let b := b.modSlot slot (fun _ => r.1)
  let ev := match r.2 with | .yellow => 0x0C | .red => 0x0D | _ => 0x0B
  let b := b.count ev (some cls) (some slot) 1
  if r.2 = .red then (b.redEvent slot inlet cls (base + p.overhead), r.2) else (b, r.2)

/-- The class in which a coloured request continues (R175). -/
def servedClass (p : Pol) (cls : Nat) : Colour → Nat
  | .yellow => max cls p.yellow
  | _ => cls

/-! ### Shapers (R178 to R182) -/

/-- The base cost of a DRAM-bound request (R171). -/
def DKind.cost : DKind → Nat
  | .writePartial => 128
  | _ => 64

/-- Shaper settings of channel `c` and class `k`: ENABLE, OVERHEAD, RATE, BURST. -/
def Block.shEnable (b : Block) (c k : Nat) : Bool := b.flag 0x0600 (8 * c + k) 0

/-- RATE of a shaper. -/
def Block.shRate (b : Block) (c k : Nat) : Nat := b.f 0x0600 (8 * c + k) 32

/-- The shaper's bucket refilled to now. -/
def Block.shBucket (b : Block) (c k : Nat) : Bucket :=
  (tget {} (b.chan c).shapers k).refill b.clk.cclk (rateInc b.clk.hz (b.shRate c k)) (b.f 0x0600 (8 * c + k) 64)

/-- A class is eligible on a channel (R179). -/
def Block.shEligible (b : Block) (c k : Nat) : Bool :=
  !(b.shEnable c k) || (!(b.shRate c k == 0) && decide (0 ≤ (b.shBucket c k).tok))

/-- Classes 0 and 1 in drain pass gates and shapers unchecked and uncharged (R193). -/
def Block.drainFree (b : Block) (k : Nat) : Bool := b.drain && k ≤ 1

/-- Charges a shaper at a grant; the result holds the charge (R180). -/
def Block.shCharge (b : Block) (c k base : Nat) : Block × Nat :=
  if b.shEnable c k && !(b.drainFree k) then
    let cost := base + b.f 0x0600 (8 * c + k) 8
    let n := b.shBucket c k
    (b.modChan c (fun ch => { ch with shapers := tput {} ch.shapers k { n with tok := n.tok - (cost * 2 ^ 16 : Nat) } }), cost)
  else (b, 0)

/-- Returns a charge at a withdrawal (R180, R208). -/
def Block.shRefund (b : Block) (c k cost : Nat) : Block :=
  if b.shEnable c k then
    let n := b.shBucket c k
    let n := { n with tok := n.tok + (cost * 2 ^ 16 : Nat) }.clip (b.f 0x0600 (8 * c + k) 64)
    b.modChan c (fun ch => { ch with shapers := tput {} ch.shapers k n })
  else b

/-- A class is frozen on a channel (R182). -/
def Block.shFrozen (b : Block) (c k : Nat) : Bool := b.shEnable c k && b.shRate c k == 0

/-- Requests of class `k` that wait on channel `c`. -/
def Chan.waiting (ch : Chan) (k : Nat) : Nat := (ch.wait.filter (fun d => d.cls == k)).length

/-- SHAPER_FROZEN for the frozen class that holds a first waiting request (R182); told once per freeze. -/
def Block.tellFrozen (b : Block) (c k : Nat) : Block :=
  let ch := b.chan c
  if b.shFrozen c k && !(ch.waiting k == 0) && !(ch.frozenTold.testBit k) then
    (b.event 0x41 [(1, c), (1, k), (4, ch.waiting k)]).modChan c (fun ch => { ch with frozenTold := ch.frozenTold ||| 2 ^ k })
  else b

/-! ### The sluice engine (R185 to R193) -/

/-- The gate mask in force: every gate while the engine does not run or the list is empty (R183, R187, R189). -/
def Block.gates (b : Block) : Nat :=
  if !b.sluice.running || listLen b.cfg 0x0701 == 0 then 255
  else if b.sluice.leadIn then b.f 0x0701 0 224
  else entryGate b.cfg 0x0701 (entryAt b.cfg 0x0701 b.blockTime)

/-- Class `k` is open at stage 6 (R186, R193). -/
def Block.gateOpen (b : Block) (k : Nat) : Bool := b.drainFree k || b.gates.testBit k

/-- The percentage of the power cap in force (R187, R193). -/
def Block.energyPct (b : Block) : Nat :=
  if b.drain || !b.sluice.running || listLen b.cfg 0x0701 == 0 then 100
  else
    let l := if b.sluice.leadIn then b.f 0x0701 0 232 else entryLevel b.cfg 0x0701 (entryAt b.cfg 0x0701 b.blockTime)
    b.f 0x0701 0 (8 * (0x18 + l))

/-- The allowance in mW (R187). -/
def Block.allowance (b : Block) : Nat := b.pins.capMw * b.energyPct / 100

/-! ### Alignment of turnover (R254, R262) -/

/-- The mode of channel `c` that its fields and the active list call for, with stride and failed condition. -/
def Block.alignWanted (b : Block) (c : Nat) : Bool × Nat × Nat :=
  if b.sluice.running && !b.sluice.leadIn && b.inUse c && b.flag 0x0A00 c 0 then
    match alignCheck b.cfg b.clk.rootMhz c 0x0701 with
    | .pass m => (true, m, 0)
    | .fail n => (false, 1, n)
    | .unaligned => (false, 1, 0)
  else (false, 1, 0)

/-- ALIGNED_NOW of the channels of a mask is brought up to date, with events 0x49 and 0x4A for the changes (R262). -/
def Block.realignChans (b : Block) (mask : Nat) : Block :=
  let cs := maskList mask
  let lost := cs.filter (fun c => (b.chan c).turn.aligned && !(b.alignWanted c).1)
  let won := cs.filter (fun c => !(b.chan c).turn.aligned && (b.alignWanted c).1)
  let b' := cs.foldl (fun (b' : Block) c =>
    let w := b.alignWanted c
    b'.modChan c (fun ch =>
      let cause := if ch.turn.aligned = w.1 then ch.turn.lateCause else 3
      { ch with turn := { ch.turn with aligned := w.1, stride := w.2.1, failCond := w.2.2, lateCause := cause } })) b
  let bits := fun (l : List Nat) => l.foldl (fun m c => m + 2 ^ c) 0
  let b' := if lost.isEmpty then b' else
    b'.event 0x49 ((1, bits lost) :: (List.range 8).map (fun c => (1, if lost.contains c then (b.alignWanted c).2.2 else 0)))
  if won.isEmpty then b' else b'.event 0x4A [(1, bits won)]

/-- The most recent cause of a late occasion, on every channel (R256). -/
def Block.lateCause (b : Block) (n : Nat) : Block :=
  { b with chans := b.chans.map (fun ch => { ch with turn := { ch.turn with lateCause := n } }) }

/-! ### Activation and realignment (R188 to R192) -/

/-- The pending list is armed with its applied activation time; event 0x43 where `late` (R188). -/
def Block.armList (b : Block) (now : Int) (force : Bool) : Block :=
  let want := b.f 0x0700 0 128
  let a := activation b.cfg now
  let b := b.setF 0x0700 0 128 (twos 8 a.1)
  if a.2 || force then b.event 0x43 [(8, want), (8, twos 8 a.1)] else b

/-- An armed list whose applied time lies too near is rescheduled; at serving entry that records event 0x43 in any case (R190), and at
a realignment where R188 does (R192). -/
def Block.rearm (b : Block) (now : Int) (strict : Bool) : Block :=
  let at_ : Int := b.f 0x0700 0 128
  let near := if strict then decide (at_ < now + 10000) else decide (at_ ≤ now + 10000)
  if b.flag 0x0700 0 16 && near then b.armList now strict else b

/-- The active list becomes a copy of the pending one (R189). -/
def copyList (t : Tab Nat) : Tab Nat :=
  let pend := t.filter (fun e => e.1 / 2 ^ 16 == 0x0700 * 2 ^ 12)
  let t := cfgReset t 0x0701 0
  let t := pend.foldl (fun t e => cfgSet t 0x0701 0 (e.1 % 2 ^ 16) e.2) t
  cfgSet (cfgSet t 0x0701 0 16 0) 0x0700 0 16 0

/-- The pending list activates (R189). -/
def Block.activate (b : Block) : Block :=
  if b.sluice.running && b.flag 0x0700 0 16 then
    let applied := b.f 0x0700 0 128
    let b := { b with cfg := copyList b.cfg, sluice := { b.sluice with leadIn := false } }
    let b := b.lateCause 0
    let b := b.event 0x42 [(8, applied), (4, sat32 (listCycle b.cfg 0x0701)), (2, listLen b.cfg 0x0701)]
    b.realignChans 255
  else b

/-- SLUICE_ACTIVATED (R189). -/
def execSluiceActivated (dt : Nat) (s : State) : Host.Outcome State Fault Refusal :=
  s.run (fun b => (b.advance dt).activate)

/-- SLUICE_ENTRY_START: block time reaches the next entry, whose gates and level come into force (R186, R187). -/
def execSluiceEntryStart (dt : Nat) (s : State) : Host.Outcome State Fault Refusal :=
  s.run (fun b => b.advance dt)

/-- The lead-in ends at the first cycle boundary (R190, R262). -/
def Block.endLeadIn (b : Block) : Block :=
  if b.sluice.running && b.sluice.leadIn then
    ({ b with sluice := { b.sluice with leadIn := false } }.lateCause 2).realignChans 255
  else b

/-- LEAD_IN_END. -/
def execLeadInEnd (dt : Nat) (s : State) : Host.Outcome State Fault Refusal :=
  s.run (fun b => (b.advance dt).endLeadIn)

/-- NT_VALID falls (R191). The event is the sluice engine's. -/
def Block.loseTime (b : Block) : Block :=
  if !b.net.valid then b else
  let last := b.netTime
  let b := { b with net := { b.net with valid := false, timeValid := false, lastValid := last, realign := none } }
  if b.sluice.running then b.event 0x44 [(8, twos 8 last)] else b

/-- SLUICE_FREE_RUN. -/
def execSluiceFreeRun (s : State) : Host.Outcome State Fault Refusal := s.run Block.loseTime

/-- The boundary B that a realignment waits for is set, while the engine runs (R192). -/
def Block.planRealign (b : Block) : Block :=
  if b.sluice.running then
    { b with net := { b.net with timeValid := false, realign := some (nextBoundary b.cfg 0x0701 (b.netTime + 10000)) } }
  else b

/-- NT_VALID rises with network time `nt` (R65, R192). -/
def Block.timeReturns (b : Block) (nt : Nat) : Block :=
  if b.net.valid || b.mode == .off then b else
  let off : Int := (nt : Int) - b.clk.ns
  { b with net := { b.net with valid := true, ever := true, off := off, lastValid := nt } }.planRealign

/-- TIME_VALID_RETURN. -/
def execTimeValidReturn (nt : BitVec 64) (s : State) : Host.Outcome State Fault Refusal :=
  s.run (fun b => b.timeReturns nt.toNat)

/-- The cause of event 0x06 (R433). -/
def stepCode : StepKind → Nat
  | .ntStep => 0 | .backward => 1 | .forwardJump => 2

/-- A discontinuity of network time: the sample reads `nt` (R65, R192). -/
def Block.timeStep (b : Block) (k : Nat) (nt : Nat) : Block :=
  if !b.net.valid || !b.clk.pll then b else
  let step := (nt : Int) - b.netTime
  let b := { b with net := { b.net with off := (nt : Int) - b.clk.ns, lastValid := nt } }
  (b.planRealign).event 0x06 [(1, k), (8, twos 8 step)]

/-- TIME_STEP. -/
def execTimeStep (kind : StepKind) (nt : BitVec 64) (s : State) : Host.Outcome State Fault Refusal :=
  s.run (fun b => b.timeStep (stepCode kind) nt.toNat)

/-- Network time reaches B: block time becomes network time and entry 0 starts (R192). -/
def Block.realigned (b : Block) : Block :=
  match b.net.realign with
  | none => b
  | some at_ =>
    let diff := b.net.blkOff - b.net.off
    let b := { b with
      net := { b.net with blkOff := b.net.off, timeValid := true, realign := none }
      sluice := { b.sluice with leadIn := false } }
    let b := ((b.lateCause 1).rearm at_ false).event 0x45 [(8, twos 8 at_), (8, twos 8 diff)]
    b.realignChans 255

/-- SLUICE_REALIGNED. -/
def execSluiceRealigned (dt : Nat) (s : State) : Host.Outcome State Fault Refusal :=
  s.run (fun b => (b.advance dt).realigned)

/-- The sluice engine starts at serving entry: block time, and the lead-in (R190). -/
def Block.startSluice (b : Block) : Block :=
  let off := if b.net.ever then b.net.off else (listBase b.cfg 0x0701 : Int) - b.clk.ns
  let b := { b with net := { b.net with blkOff := off, timeValid := b.net.valid, realign := none } }
  let lead := b.net.ever && !(listLen b.cfg 0x0701 == 0) &&
    !decide (nextBoundary b.cfg 0x0701 b.blockTime = b.blockTime)
  { b with sluice := { running := true, leadIn := lead, boundary := nextBoundary b.cfg 0x0701 b.blockTime } }

/-- What follows the start: an armed list that lies too near is rescheduled, and alignment is judged (R190, R262). -/
def Block.sluiceStarted (b : Block) : Block := (b.rearm b.blockTime true).realignChans 255

/-- The sluice engine stops, at step 5 of DORMANT entry or when serving ends (R187, R400). -/
def Block.stopSluice (b : Block) : Block :=
  { b with
    sluice := { running := false, leadIn := false, boundary := 0 }
    net := { b.net with timeValid := false, realign := none } }.realignChans 255

end Sys2Proof.Machine
end

