-- ==== Sys2Proof/Machine/Traffic.lean ====
section
/-! DEFINITION. What every stage of the path of a request uses (R22): completion, DRAM-bound requests and their
wait lists (R195 to R197), withdrawal (R208), and lost ponds (R111, R169). -/

namespace Sys2Proof.Machine

/-! ### Requests -/

/-- The kind is read-type (R215). -/
def DKind.isRead : DKind → Bool
  | .read | .lineFill | .prefetch | .dredgeRead | .copyRead | .debugRead => true
  | _ => false

/-- The placement of a pond: as configured, or where it is disabled the last that drains (R152). -/
def Block.place (b : Block) (p : Nat) : Place :=
  if b.f 0x0300 p 16 == 0 then (((b.pondRt p).draining.getLast?).map (·.1)).getD (placeOf b.cfg p) else placeOf b.cfg p

/-- A block lies in a placement. -/
def Place.holds (pl : Place) (blk : Nat) : Bool := pl.first ≤ blk && blk < pl.stop

/-- The placement under which a block of pond `p` is served: a draining one that holds it, or the one in force (R152). -/
def Block.placeAt (b : Block) (p blk : Nat) : Place :=
  match (b.pondRt p).draining.find? (fun d => d.1.holds blk) with
  | some d => d.1
  | none => placeOf b.cfg p

/-- The DRAM coordinates of a block of a pond. -/
def Block.coord (b : Block) (p blk : Nat) : Coord :=
  let pl := b.placeAt p blk
  placeDecode b.cfg pl (blk * 64 - pl.base * 2 ^ 28)

/-- The grid layout of a channel (R278). -/
def Block.layout (b : Block) (c : Nat) : Layout := (geoOf b.cfg c).layout

/-- KEY_SLOT of the pond of a block. -/
def Block.keySlot (b : Block) (p blk : Nat) : Nat := (b.placeAt p blk).key

/-- The 8 bytes of a block that the debug port reads (R73). -/
def laneOf (d : Block512) (k : Nat) : BitVec 64 := d.extractLsb' (64 * k) 64

/-- A request completes: its response is ready, or the debug port has its answer (R73). A request completes once. -/
def Block.finish (b : Block) (id st : Nat) (data : Option Block512) : Block :=
  match b.req? id with
  | none => b
  | some r =>
    if r.stage = .ready then b else
    let d := if carriesData r.op st then some (data.getD 0) else none
    match r.inlet with
    | some _ =>
      let ordered := (r.op == .writeFull || r.op == .writePartial) && st < 0x20
      b.modReq id (fun r => { r with
        stage := .ready, status := st, rdata := d
        snd := if ordered then { r.snd with tData := some b.clk.cclk } else r.snd })
    | none => { b with
        reqs := b.reqs.filter (fun x => !(x.id == id && x.inlet.isNone))
        dbg := { b.dbg with busy := false, status := st, rdata := (d.map (fun x => laneOf x b.dbg.lane)).getD 0 } }

/-- A request moves to another stage. -/
def Block.stageTo (b : Block) (id : Nat) (s : Stage) : Block := b.modReq id (fun r => { r with stage := s })

/-! ### DRAM-bound requests -/

/-- Entries move from outside a wait list of 512 into it, in their order; age counts from there (R196, R197). -/
def pumpWait (now : Nat) : List DReq → List DReq → List DReq × List DReq
  | w, [] => (w, [])
  | w, d :: t => if w.length < 512 then pumpWait now (w ++ [{ d with born := now }]) t else (w, d :: t)

/-- The wait list filled from outside, and the cclk since which it has been full (R213). -/
def Chan.pump (ch : Chan) (now : Nat) : Chan :=
  let p := pumpWait now ch.wait ch.outside
  { ch with
    wait := p.1, outside := p.2
    fullSince := if p.1.length < 512 then none else some (ch.fullSince.getD now) }

/-- A DRAM-bound request leaves stage 4 for its channel (R195); its number is `b.nextId`. -/
def Block.issue (b : Block) (d : DReq) : Block :=
  let c := b.coord d.pond d.blk
  let d := { d with id := b.nextId, coord := c, born := b.clk.cclk }
  ({ b with nextId := b.nextId + 1 }.modChan c.chan
    (fun ch => { ch with outside := ch.outside ++ [d] }.pump b.clk.cclk)).tellFrozen c.chan d.cls

/-- Where a DRAM-bound request is. -/
inductive DPlace where
  | outside | wait | granted | queue (q : Nat) (e : QEnt)
  deriving DecidableEq, Repr

/-- The first DRAM-bound request of a channel that satisfies `p`, and where it is. -/
def Chan.find (ch : Chan) (p : DReq → Bool) : Option (DReq × DPlace) :=
  match ch.outside.find? p with
  | some d => some (d, .outside)
  | none => match ch.wait.find? p with
    | some d => some (d, .wait)
    | none => match ch.granted.find? p with
      | some d => some (d, .granted)
      | none => (List.range 2).findSome? (fun q =>
          ((ch.queue q).ents.find? (fun e => p e.d)).map (fun e => (e.d, .queue q e)))

/-- The first DRAM-bound request of any channel that satisfies `p`: its channel, itself and where it is. -/
def Block.findDReq (b : Block) (p : DReq → Bool) : Option (Nat × DReq × DPlace) :=
  (List.range 8).findSome? (fun c => ((b.chan c).find p).map (fun x => (c, x.1, x.2)))

/-- The entry leaves its queue, with the lock it holds. -/
def Queue.drop (k : Queue) (id : Nat) : Queue :=
  { k with ents := k.ents.filter (fun e => !(e.d.id == id)), locks := k.locks.filter (fun l => !(l.2 == id)) }

/-- A DRAM-bound request is taken away from its channel, wherever it is. -/
def Chan.drop (ch : Chan) (id now : Nat) : Chan :=
  { ch with
    outside := ch.outside.filter (fun d => !(d.id == id))
    wait := ch.wait.filter (fun d => !(d.id == id))
    granted := ch.granted.filter (fun d => !(d.id == id))
    queues := ch.queues.map (fun (k : Queue) => k.drop id) }.pump now

/-- A DRAM-bound request that has issued no command is removed; one between grant and enqueue is withdrawn with its
charge, counted, and costs a dead admission cycle (R102, R208). The answer says that it was removed. -/
def Block.withdraw (b : Block) (id : Nat) : Block × Bool :=
  match b.findDReq (fun d => d.id == id) with
  | none => (b, false)
  | some (c, d, pl) =>
    let gone := fun (b : Block) => b.modChan c (fun ch => ch.drop id b.clk.cclk)
    match pl with
    | .outside | .wait => (gone b, true)
    | .granted =>
      let b := if d.charged then b.shRefund c d.cls d.cost else b
      let b := (b.arbAdd c d.requester 5 1).countC c 0x10 (some d.cls) (some d.requester) none 1
      let b := gone b
      (b.modChan c (fun ch => { ch with
        deadAt := some (b.clk.cclk + 1)
        tenure := if d.followOn && ch.tenure.any (fun t => t.requester == d.requester && t.cls == d.cls)
          then none else ch.tenure }), true)
    | .queue _ e => if e.first || e.sel then (b, false) else (gone b, true)

/-! ### Classes of internal requesters (R26) -/

/-- DREDGE_CLASS (R337). -/
def Block.dredgeClass (b : Block) : Nat := b.f 0x0C02 0 16

/-- FILL_CLASS (R337). -/
def Block.fillClass (b : Block) : Nat := b.f 0x0C02 0 19

/-- WB_CLASS (R369). -/
def Block.wbClass (b : Block) : Nat := b.f 0x0E00 0 1

/-! ### Poison writes (R296) -/

/-- The poison write of a block that decoded as uncorrectable, in class `cls`; one already pending is joined. The second
component says that one was issued. -/
def Block.poisonWrite (b : Block) (pond blk cls : Nat) (data : Block512) (stale : Bool) : Block × Bool :=
  if b.poisonPending.contains blk then (b, false)
  else
    ({ b with poisonPending := blk :: b.poisonPending }.issue
      { id := 0, kind := .poisonWrite, requester := 0xF0, tag := 0, cls := cls, blk := blk, pond := pond,
        data := data, poison := true, stale := stale }, true)

/-! ### Lost ponds (R111, R169) -/

/-- Channels of the member mask of pond `p`. -/
def Block.members (b : Block) (p : Nat) : Nat := memberMask b.cfg (b.place p)

/-- Every cache line of the blocks `lo` up to `hi` is discarded, clean or dirty; a fill in flight serves its waiting
requests and leaves no line (R152, R377, R379). -/
def Cache.discard (k : Cache) (lo hi : Nat) : Cache :=
  let out := fun blk => lo ≤ blk && blk < hi
  { k with
    lines := k.lines.filter (fun e => !(out e.2.blk))
    shallows := k.shallows.filter (fun l => !(out l.blk))
    fills := k.fills.map (fun f => if out f.blk then { f with dropAfter := true, slot := none } else f) }

/-- The writebacks of blocks `lo` up to `hi` that have not been enqueued are taken away. -/
def Block.dropWbs (b : Block) (lo hi : Nat) : Block :=
  let keep := fun (d : DReq) => !(d.kind == .writeback && lo ≤ d.blk && d.blk < hi)
  { b with chans := b.chans.map (fun ch =>
      { ch with outside := ch.outside.filter keep, wait := ch.wait.filter keep,
                granted := ch.granted.filter keep }.pump b.clk.cclk) }

/-- The cache lines of a pond are discarded with their writebacks. -/
def Block.discardPond (b : Block) (p : Nat) : Block :=
  let pl := b.place p
  let b := { b with cache := b.cache.discard pl.first pl.stop }
  b.dropWbs pl.first pl.stop

/-- Writes of a job of the fill engine that are issued and have not reached the ordering point. -/
def Chan.jobWrites (ch : Chan) (key : Nat) : Nat :=
  let mine := fun (d : DReq) => d.kind == .fillWrite && d.ref == 2 * key
  ((ch.outside ++ ch.wait ++ ch.granted).filter mine).length +
    (ch.queues.map (fun (k : Queue) => (k.ents.filter (fun e => mine e.d && !e.whole)).length)).sum

/-- The counts of writes outstanding, after requests have been taken away. -/
def Block.recountJobs (b : Block) : Block :=
  { b with jobs := b.jobs.map (fun j => { j with pending := (b.chans.map (·.jobWrites (j.opcode * 64 + j.pond))).sum }) }

/-- The tiles that hold slots and those that wait, once every free slot of the 16 is taken in order of trigger (R333). -/
def slotTiles (fills wait : List TileFill) : List TileFill × List TileFill :=
  (fills ++ wait.take (16 - fills.length), wait.drop (16 - fills.length))

/-- The tile fills that are not of pond `p`. -/
def Block.otherTiles (b : Block) (p : Nat) : List TileFill × List TileFill :=
  slotTiles (b.tileFills.filter (fun f => !(f.pond == p))) (b.tileWait.filter (fun f => !(f.pond == p)))

/-- Every request in flight to pond `p` that has not completed completes with `st` (R111); DRAM-bound requests of the
pond that are not yet in a queue, its tile fills and its cache lines are taken away, and a FILL or a wipe of it stops
(log entry 30). -/
def Block.failPond (b : Block) (p st : Nat) : Block :=
  let ids := (b.reqs.filter (fun r => r.pond == some p && !(r.stage == .ready) && !(r.stage == .fenceHeld))).map (·.id)
  let b := ids.foldl (fun b id => b.finish id st none) b
  let keep := fun (d : DReq) => !(d.pond == p)
  let b : Block := { b.discardPond p with
    cache := { (b.discardPond p).cache with fills := b.cache.fills.filter (fun f => !(f.pond == p)) }
    tileFills := (b.otherTiles p).1
    tileWait := (b.otherTiles p).2
    chans := b.chans.map (fun ch =>
      { ch with outside := ch.outside.filter keep, wait := ch.wait.filter keep,
                granted := ch.granted.filter keep }.pump b.clk.cclk)
    jobs := b.jobs.map (fun (j : FillJob) => if j.pond == p && !(j.opcode == 0x30) then { j with stopped := true } else j)
    poisonPending := b.poisonPending.filter (fun k => !(pondOf b.cfg k == some p)) }
  b.recountJobs

/-- POND_LOST for a pond that becomes lost (R169): cause 0 fence, 1 verify failure. -/
def Block.losePond (b : Block) (p cause mask : Nat) : Block :=
  if p == 63 || (b.pondRt p).lost then b
  else
    let b := b.modPond p (fun r => { r with lost := true })
    let b := b.failPond p stPondLost
    b.emitPond 0x70 (encFields [(1, p), (1, (b.place p).set), (1, cause), (1, mask)]) (some p)

/-- Every pond whose member mask holds channel `c` becomes lost (R169). -/
def Block.losePonds (b : Block) (c cause : Nat) : Block :=
  ((enabledPonds b.cfg).map (·.1)).foldl (fun b p =>
    if (b.members p).testBit c then b.losePond p cause (2 ^ c) else b) b

/-- The pond is marked for a rebuild or a wipe (R170, R339). -/
def PondRt.marked (r : PondRt) : Bool := r.rebuild || r.wiping

/-! ### Draining (R152) -/

/-- No DRAM command of pond `p` is pending. -/
def Block.pondQuiet (b : Block) (p : Nat) : Bool :=
  b.chans.all (fun ch => ((ch.find (fun d => d.pond == p)).isNone)) &&
    !(b.reqs.any (fun r => r.pond == some p && !(r.stage == .ready) && !(r.stage == .fenceHeld)))

/-- No DRAM command of a placement of pond `p` is pending. -/
def Block.drained (b : Block) (p : Nat) (pl : Place) : Bool :=
  b.chans.all (fun ch => ((ch.find (fun d => d.pond == p && pl.holds d.blk)).isNone)) &&
    !(b.reqs.any (fun r => r.pond == some p && pl.holds r.blk && !(r.stage == .ready) && !(r.stage == .fenceHeld)))

/-- Placements whose draining has ended: event 0x73. -/
def Block.endDrains (b : Block) : Block :=
  b.ponds.foldl (fun (b : Block) e =>
    (e.2.draining.filter (fun d => b.drained e.1 d.1)).foldl (fun (b : Block) d =>
      (b.modPond e.1 (fun r => { r with draining := r.draining.filter (fun x => !(x == d)) })).emitPond 0x73
        (encFields [(1, e.1), (4, sat32 ((b.clk.ns - d.2) / 1000))]) none) b) b

end Sys2Proof.Machine
end

