-- ==== Sys2Proof/Machine/Cache.lean ====
section
/-! DEFINITION. The block cache and the shallows (R355 to R368, R373, R380, R381). -/

namespace Sys2Proof.Machine

/-! ### Sets and ways -/

/-- The set index of a block address (R357). -/
def setOf (blk : Nat) : Nat := ((blk % 2 ^ 14) ^^^ (blk / 2 ^ 14 % 2 ^ 14)) ^^^ (blk / 2 ^ 28 % 2 ^ 10)

/-- The tag of a block address (R357). -/
def tagOf (blk : Nat) : Nat := blk / 2 ^ 14

/-- The block address of a tag and set (R357). -/
def blkOf (tag set : Nat) : Nat := tag * 2 ^ 14 + ((set ^^^ (tag % 2 ^ 14)) ^^^ (tag / 2 ^ 14 % 2 ^ 10))

/-- WAY_MODE: 0 normal, 1 locked, 2 scratch (R369). -/
def Block.wayMode (b : Block) (w : Nat) : Nat := b.f 0x0E00 0 (64 + 2 * w)

/-- ENABLE (R369). -/
def Block.cacheOn (b : Block) : Bool := b.flag 0x0E00 0 0

/-- A way is under conversion (R372). -/
def Block.converting (b : Block) (w : Nat) : Bool := b.cache.conv.any (fun c => c.mask.testBit w)

/-- A way takes allocation (R363, R372, R378). -/
def Block.takes (b : Block) (w : Nat) : Bool := b.wayMode w == 0 && !(b.converting w) && b.cache.disabling.isNone

/-- A slot is kept for a line fill in flight (R359). -/
def Block.reserved (b : Block) (key : Nat) : Bool := b.cache.fills.any (fun f => f.slot == some key)

/-- Where a line is: its slot, or its place in the shallows. -/
inductive Loc where
  | way (key : Nat)
  | sh (k : Nat)
  deriving DecidableEq, Repr

/-- The line that holds a block: in a way, else in the shallows (R358). -/
def Cache.lookup (k : Cache) (blk : Nat) : Option (Loc × Line) :=
  match (List.range 16).findSome? (fun w =>
      ((aget k.lines (16 * setOf blk + w)).filter (fun l => l.blk == blk)).map (fun l => (Loc.way (16 * setOf blk + w), l))) with
  | some x => some x
  | none => ((k.shallows.zipIdx).find? (fun (e : Line × Nat) => e.1.blk == blk)).map (fun e => (.sh e.2, e.1))

/-- The cache with a line put at a place. -/
def Cache.putLine (k : Cache) (at_ : Loc) (l : Line) : Cache :=
  match at_ with
  | .way key => { k with lines := aput k.lines key l }
  | .sh n => { k with shallows := k.shallows.set n l }

/-- The cache less the line at a place. -/
def Cache.dropLine (k : Cache) (at_ : Loc) : Cache :=
  match at_ with
  | .way key => { k with lines := adel k.lines key }
  | .sh n => { k with shallows := k.shallows.eraseIdx n }

/-- The block with its cache changed. -/
def Block.onCache (b : Block) (g : Cache → Cache) : Block := { b with cache := g b.cache }

/-! ### Replacement (R363) -/

/-- The PL bits of a set pointed away from way `w`. -/
def plTouch (pl w : Nat) : Nat :=
  ((List.range 4).foldl (fun (acc : Nat × Nat) _ =>
    let n := acc.1
    let old := acc.2
    let p := n / 2
    let cleared := if old.testBit p then old - 2 ^ p else old
    (p, if n % 2 == 1 then cleared else cleared + 2 ^ p)) (16 + w, pl)).2

/-- Leaves below node `n` hold a way that may be a victim. -/
def subtree (ok : Nat → Bool) (n : Nat) : Bool :=
  (List.range 16).any (fun w => ok w && (List.range 5).any (fun k => (16 + w) / 2 ^ k == n))

/-- The victim walk. -/
def plVictim (pl : Nat) (ok : Nat → Bool) : Nat :=
  (List.range 4).foldl (fun n _ =>
    let pref := 2 * n + (if pl.testBit n then 1 else 0)
    if subtree ok pref then pref else Nat.xor pref 1) 1 - 16

/-- A hit or an allocation in a slot: a NORMAL way's path is turned away from it. -/
def Block.touch (b : Block) (key : Nat) : Block :=
  if b.wayMode (key % 16) == 0 then
    b.onCache (fun k => { k with pl := tmod 0 k.pl (key / 16) (fun p => plTouch p (key % 16)) })
  else b

/-! ### Writebacks (R366) -/

/-- A write changes a line: it is dirty, and a new age starts when it was clean or its writeback had been issued (R367). -/
def Line.store (l : Line) (d : Block512) (poison : Bool) (now : Int) : Line :=
  { l with
    data := d, poison := poison, dirty := true, newer := l.wb.isSome
    dirtyAt := if l.dirty && (l.wb.isNone || l.newer) then l.dirtyAt else now
    age := if l.dirty && (l.wb.isNone || l.newer) then l.age else none }

/-- The pond that a cached block lies in. -/
def Block.pondAt (b : Block) (blk : Nat) : Nat := (pondOf b.cfg blk).getD 63

/-- A write-type request of 0xF2 with this content (R366). -/
def Block.wbReq (b : Block) (blk : Nat) (d : Block512) (poison : Bool) : Block :=
  b.issue { id := 0, kind := .writeback, requester := 0xF2, tag := 0, cls := b.wbClass, blk := blk, pond := b.pondAt blk,
            data := d, poison := poison }

/-- The writeback of a line is issued, unless one is in flight. -/
def Block.issueWb (b : Block) (at_ : Loc) (l : Line) : Block :=
  if l.wb.isSome then b
  else
    let id := b.nextId
    (b.onCache (fun k => k.putLine at_ { l with wb := some id, newer := false })).wbReq l.blk l.data l.poison

/-- A dirty line that leaves, is converted, or lies in a cache that is being disabled is written back (R364, R372, R378). -/
def Block.mustWb (b : Block) : Loc → Bool
  | .sh _ => true
  | .way key => b.converting (key % 16) || b.cache.disabling.isSome

/-- A line is put back after a change, and written back where it must be. -/
def Block.update (b : Block) (at_ : Loc) (l : Line) : Block :=
  let b := b.onCache (fun k => k.putLine at_ l)
  if l.dirty && b.mustWb at_ then b.issueWb at_ l else b

/-- A flush has written a block back: CACHE_RANGE with action 0 waits for it no more (R377). -/
def LongOp.flushed (blk : Nat) (o : LongOp) : LongOp :=
  if o.pkt.opcode == 0x43 && o.detail == 0 then { o with blks := o.blks.filter (fun x => !(x == blk)) } else o

/-- A writeback reaches the ordering point (R366). -/
def Block.wbOrdered (b : Block) (id cls : Nat) : Block :=
  let b := b.count 0x0A (some cls) none 1
  let loc : Option (Loc × Line) := match b.cache.lines.find? (fun (e : Nat × Line) => e.2.wb == some id) with
    | some e => some (Loc.way e.1, e.2)
    | none => ((b.cache.shallows.zipIdx).find? (fun (e : Line × Nat) => e.1.wb == some id)).map (fun e => (.sh e.2, e.1))
  match loc with
  | none => b
  | some (at_, l) =>
    let bump := match at_ with
      | .way key => b.converting (key % 16)
      | .sh _ => false
    let b := b.onCache (fun k => { k with
      conv := k.conv.map (fun c => { c with written := c.written + (if bump then 1 else 0) })
      disabling := k.disabling.map (· + 1) })
    let b := { b with pkts := { b.pkts with ops := b.pkts.ops.map (LongOp.flushed l.blk) } }
    b.update at_ { l with wb := none, newer := false, dirty := l.newer }

/-! ### The shallows (R364, R365) -/

/-- A victim can enter: there is room, or the head is clean. -/
def Cache.room (k : Cache) : Bool :=
  k.shallows.length < 64 || (match k.shallows with | h :: _ => !h.dirty | [] => true)

/-- A line enters at the tail; a clean head leaves to make room; a dirty victim is written back. -/
def Block.pushShallows (b : Block) (l : Line) : Block :=
  let b := b.onCache (fun k =>
    { k with shallows := (if k.shallows.length < 64 then k.shallows else k.shallows.drop 1) ++ [l] })
  b.update (.sh (b.cache.shallows.length - 1)) l

/-- What an allocation in a set comes to. -/
inductive Alloc where
  /-- a slot that holds no line -/
  | free (key : Nat)
  /-- the slot of this victim -/
  | victim (key : Nat) (l : Line)
  /-- no way can take the line -/
  | none
  deriving DecidableEq, Repr

/-- The slot that an allocation in a set takes (R363). -/
def Block.pick (b : Block) (set : Nat) : Alloc :=
  let held := fun w => aget b.cache.lines (16 * set + w)
  let open_ := fun w => b.takes w && !(b.reserved (16 * set + w))
  match (List.range 16).find? (fun w => open_ w && (held w).isNone) with
  | some w => .free (16 * set + w)
  | none =>
    let ok := fun w => open_ w && (held w).isSome
    if (List.range 16).any ok then
      let w := plVictim (tget 0 b.cache.pl set) ok
      match held w with
      | some l => .victim (16 * set + w) l
      | none => .none
    else .none

/-- A slot for an allocation, with the victim moved to the shallows: `none` where the allocation must wait for the head. -/
def Block.allocate (b : Block) (set : Nat) : Option (Block × Option Nat) :=
  match b.pick set with
  | .none => some (b, none)
  | .free key => some (b.touch key, some key)
  | .victim key l =>
    if b.cache.room then
      some (((b.onCache (fun k => k.dropLine (.way key))).pushShallows l).touch key, some key)
    else none

/-- An allocation would have to wait for the shallows head (R365). -/
def Block.stalls (b : Block) (set : Nat) : Bool :=
  match b.pick set with
  | .victim _ _ => !b.cache.room || !b.cache.waitVictim.isEmpty
  | _ => false

/-- A line of the shallows returns to its set (R364); the answer is where it is now. -/
def Block.recall (b : Block) (n : Nat) (l : Line) : Block × Loc × Line :=
  let back := fun (b : Block) (l : Line) => match l.wb with
    | none => (b, l)
    | some id => ((b.withdraw id).1, { l with wb := none, newer := false })
  match b.pick (setOf l.blk) with
  | .none => (b, .sh n, l)
  | .free key =>
    let r := back b l
    let b := (r.1.onCache (fun k => (k.dropLine (.sh n)).putLine (.way key) r.2)).count 0x07 none none 1
    (b.touch key, .way key, r.2)
  | .victim key v =>
    let r := back b l
    let b := (r.1.onCache (fun k => k.putLine (.way key) r.2)).count 0x07 none none 1
    let b := b.update (.sh n) v
    (b.touch key, .way key, r.2)

/-! ### Parity in lines and tags (R380, R381) -/

/-- The payload place of a line: set, and way or 16 for the shallows entry that follows. -/
def Loc.fields (blk : Nat) : Loc → List (Nat × Nat)
  | .way key => [(2, key / 16), (1, key % 16)]
  | .sh n => [(2, setOf blk), (1, n)]

/-- A dirty line whose data fails parity: it keeps its slot with the poison mark and is written back (R380). -/
def Block.poisonLine (b : Block) (at_ : Loc) (l : Line) (rq : Nat) : Block :=
  let b := b.parity 5 rq 0 6
  let l := { l with poison := true, newer := l.wb.isSome }
  let b := b.onCache (fun k => k.putLine at_ l)
  let b := if l.wb.isNone then b.issueWb at_ l else b
  let p := b.pondAt l.blk
  b.emitPond 0x60 (encFields (at_.fields l.blk ++ [(8, l.blk), (1, p), (1, rq)])) (some p)

/-- Faults of tag entries of the set looked up (R381). -/
def Block.tagFault (b : Block) (set rq tag : Nat) (f : SramFault) : Block :=
  match f with
  | .tagOne _ => b.parity 5 rq tag 6
  | .tagBoth w =>
    let b := (b.parity 5 rq tag 6).onCache (fun k => k.dropLine (.way (16 * set + w.val)))
    b.event 0x61 [(2, set), (1, w.val)]
  | _ => b

/-! ### Hits (R358) -/

/-- The status of a request that ends well, or of a write whose data failed parity (R106). -/
def Req.good (r : Req) (st : Nat) : Nat := if r.status = stErrorInternal then stErrorInternal else st

/-- The request writes a whole block (R98). -/
def Req.whole (r : Req) : Bool := r.op == .writeFull || (r.op == .writePartial && r.mask == BitVec.allOnes 64)

/-- A request is served by the line at a place. -/
def Block.serveLine (b : Block) (r : Req) (at_ : Loc) (l : Line) : Block :=
  let b := b.modReq r.id (fun r => { r with cacheHit := true, snd := { r.snd with tLookup := some b.clk.cclk } })
  let b := match at_ with | .way key => b.touch key | .sh _ => b
  if r.op == .read then
    if l.poison then b.finish r.id stPoison none else b.finish r.id stOk (some l.data)
  else if r.whole then
    (b.update at_ (l.store r.data (r.status == stErrorInternal) b.blockTime)).finish r.id (r.good stOk) none
  else
    let bad := l.poison || r.status == stErrorInternal
    (b.update at_ (l.store (mergeBlock l.data r.data r.mask) bad b.blockTime)).finish r.id
      (r.good (if l.poison then stPoison else stOk)) none

/-! ### Scratch ways (R153, R373) -/

/-- The line of a scratch block within pond 63. -/
def scratchLine (blk : Nat) : Nat := blk - scratchBase

/-- The block held at a scratch line. -/
def Cache.scratchBlock (k : Cache) (n : Nat) : Block512 := Memory.readBlock k.scratch (64 * n)

/-- A scratch line written under a mask, with or without the poison mark. -/
def Cache.writeScratch (k : Cache) (n : Nat) (d : Block512) (mask : BitVec 64) (poison : Bool) : Cache :=
  { k with
    scratch := Memory.writeBlock k.scratch (64 * n) d mask
    scratchPoison := if poison then (if k.scratchPoison.contains n then k.scratchPoison else n :: k.scratchPoison)
      else k.scratchPoison.filter (fun x => !(x == n)) }

/-- A request to pond 63. -/
def Block.serveScratch (b : Block) (r : Req) (f : SramFault) : Block :=
  let n := scratchLine r.blk
  if !(b.wayMode (n / 2 ^ 14) == 2) then b.finish r.id stAddressInvalid none
  else
    let b := b.count 0x05 (some r.served) (some r.requester) 1
    let b := b.modReq r.id (fun r => { r with cacheHit := true, snd := { r.snd with tLookup := some b.clk.cclk, cacheOut := 6 } })
    let fails := f == .line && !r.whole
    let b := if fails then (b.parity 5 r.requester r.tag 6).onCache (fun k => k.writeScratch n 0 0 true) else b
    let bad := b.cache.scratchPoison.contains n
    if r.op == .read then
      if bad then b.finish r.id stPoison none else b.finish r.id stOk (some (b.cache.scratchBlock n))
    else
      let inner := r.status == stErrorInternal
      let m : BitVec 64 := if r.whole then BitVec.allOnes 64 else r.mask
      let poison := inner || (bad && !r.whole)
      (b.onCache (fun k => k.writeScratch n r.data m poison)).finish r.id
        (r.good (if bad && !r.whole then stPoison else stOk)) none

/-! ### Misses and line fills (R359 to R362, R368) -/

/-- A request leaves the cache for the channel of its block, as in an uncached pond (R362). -/
def Block.toChannel (b : Block) (r : Req) : Block :=
  let kind := match r.op with
    | .read => if r.inlet.isNone then DKind.debugRead else .read
    | _ => if r.whole then .writeFull else .writePartial
  (b.stageTo r.id .chan).issue
    { id := 0, kind := kind, requester := r.requester, tag := r.tag, cls := r.served, blk := r.blk, pond := r.pond.getD 63,
      owner := some r.id, data := r.data, mask := r.mask, poison := r.status == stErrorInternal }

/-- A line fill is issued under a requester and class. -/
def Block.issueFill (b : Block) (blk pond rq tag cls : Nat) (slot : Option Nat) (ws : List Nat) (owner preload : Option Nat)
    (prefetch : Bool) : Block :=
  let id := b.nextId
  (b.onCache (fun k => { k with fills := k.fills ++
      [{ id := id, blk := blk, pond := pond, slot := slot, waiters := ws, prefetch := prefetch, preload := preload }] })).issue
    { id := 0, kind := if prefetch then .prefetch else .lineFill, requester := rq, tag := tag, cls := cls, blk := blk,
      pond := pond, owner := owner }

/-- The tile of a block of a valid-tile pond is written, or the pond is write-first (R331). -/
def Block.written (b : Block) (p blk : Nat) : Bool :=
  let pl := b.placeAt p blk
  pl.writeFirst || tget false b.tiles (tileOf pl blk)

/-- The prefetch that a READ miss calls for (R368). -/
def Block.prefetch (b : Block) (r : Req) : Block :=
  let p := r.pond.getD 63
  let n := r.blk + 1
  let cls := min (r.served + 1) 7
  let pl := b.place p
  if !(policyOf b.cfg p == 1) || b.drain || !(b.dorm == .none) || r.noAlloc || r.blk % 64 == 63 || pl.stop ≤ n || !(b.written p n) ||
      (b.cache.lookup n).isSome || b.cache.fills.any (fun f => f.blk == n) || 448 ≤ b.cache.fills.length then b
  else
    let c := (b.coord p n).chan
    if (b.shEnable c cls && decide ((b.shBucket c cls).tok < 0)) || (b.chan c).gov.short then
      b.count 0x09 (some cls) none 1
    else
      let a := if b.stalls (setOf n) then (b, none) else (b.allocate (setOf n)).getD (b, none)
      a.1.issueFill n p 0xF2 0 cls a.2 [] none none true

/-- Prefetches of a channel that wait before grant are dropped where their class is in debt or the channel is
energy-short (R368). -/
def Block.dropPrefetches (b : Block) (c : Nat) : Block :=
  let ch := b.chan c
  let bad := (ch.wait ++ ch.outside).filter (fun d => d.kind == .prefetch &&
    (ch.gov.short || (b.shEnable c d.cls && decide ((b.shBucket c d.cls).tok < 0))))
  bad.foldl (fun b d =>
    ((b.onCache (fun k => { k with fills := k.fills.filter (fun f => !(f.id == d.id)) })).withdraw d.id).1.count
      0x09 (some d.cls) none 1) b

/-- A request joins the fill of its block (R360); a prefetch that is not granted gives way to a demand fill (R368). -/
def Block.join (b : Block) (r : Req) (f : LineFill) : Block :=
  let slotted := match f.slot with | some _ => r.whole && !f.superseded && !f.dropAfter | none => false
  if slotted then
    let key := f.slot.getD 0
    let l : Line := { blk := r.blk, data := r.data, dirty := true, poison := r.status == stErrorInternal, dirtyAt := b.blockTime }
    let b := b.onCache (fun k => { k with fills := k.fills.map (fun g =>
      if g.id == f.id then { g with superseded := true, slot := none } else g) })
    (b.update (.way key) l).finish r.id (r.good stOk) none
  else
    let waits := match b.findDReq (fun d => d.id == f.id) with
      | some (_, _, .wait) => true
      | some (_, _, .outside) => true
      | _ => false
    let b := b.modReq r.id (fun r => { r with stage := .joined, snd := { r.snd with tLookup := some b.clk.cclk, cacheOut := 4 } })
    if f.prefetch && waits then
      let b := (b.withdraw f.id).1
      let b := b.onCache (fun k => { k with fills := k.fills.filter (fun g => !(g.id == f.id)) })
      b.issueFill f.blk f.pond r.requester r.tag r.served f.slot (f.waiters ++ [r.id]) (some r.id) f.preload false
    else
      b.onCache (fun k => { k with fills := k.fills.map (fun g =>
        if g.id == f.id then { g with waiters := g.waiters ++ [r.id] } else g) })

/-- A miss (R359, R362). -/
def Block.miss (b : Block) (r : Req) : Block :=
  let set := setOf r.blk
  let out := fun (b : Block) (n : Nat) => b.modReq r.id (fun r => { r with snd := { r.snd with
    tLookup := some b.clk.cclk, cacheOut := n } })
  if r.noAlloc || b.drain || b.cache.disabling.isSome then (out b 5).toChannel r
  else if !r.whole && (512 ≤ b.cache.fills.length || b.cache.waitFill.any (fun k => !(k == r.id))) &&
      !(b.cache.waitFill.head? == some r.id && b.cache.fills.length < 512) then
    (b.stageTo r.id .fillSlot).onCache (fun k =>
      { k with waitFill := if k.waitFill.contains r.id then k.waitFill else k.waitFill ++ [r.id] })
  else
    let unqueued := b.onCache (fun k => { k with
      waitVictim := k.waitVictim.filter (fun x => !(x == r.id)), waitFill := k.waitFill.filter (fun x => !(x == r.id)) })
    let first := b.cache.waitVictim.head? == some r.id
    let stall := if first then (match b.pick set with | .victim _ _ => !b.cache.room | _ => false) else b.stalls set
    if stall then
      let b := b.onCache (fun k => { k with
        victimSince := if k.waitVictim.isEmpty then b.clk.cclk else k.victimSince
        stallTold := !k.waitVictim.isEmpty && k.stallTold
        waitVictim := if k.waitVictim.contains r.id then k.waitVictim else k.waitVictim ++ [r.id]
        waitFill := k.waitFill.filter (fun x => !(x == r.id)) })
      b.stageTo r.id .victim
    else
      match unqueued.allocate set with
      | none => b
      | some (b, none) => (out b 5).toChannel r
      | some (b, some key) =>
        let b := out b 3
        if r.whole then
          let l : Line := { blk := r.blk, data := r.data, dirty := true, poison := r.status == stErrorInternal,
                            dirtyAt := b.blockTime }
          (b.update (.way key) l).finish r.id (r.good stOk) none
        else
          let b := (b.stageTo r.id .joined).issueFill r.blk (r.pond.getD 63) r.requester r.tag r.served (some key) [r.id]
            (some r.id) none false
          if r.op == .read then b.prefetch r else b

/-- Stage 4 for a cacheable request (R358 to R362); `again` is a second look at a request that waited here. -/
def Block.lookup (b : Block) (r : Req) (f : SramFault) (again : Bool) : Block :=
  let b := b.tagFault (setOf r.blk) r.requester r.tag f
  let hit := fun (b : Block) (n : Nat) =>
    let b := if again then b else b.count 0x05 (some r.served) (some r.requester) 1
    b.modReq r.id (fun r => { r with snd := { r.snd with cacheOut := n } })
  let misses := fun (b : Block) => if again then b else b.count 0x06 (some r.served) (some r.requester) 1
  match b.cache.lookup r.blk with
  | some (at_, l) =>
    let x := match at_ with
      | .way _ => (hit b 1, at_, l)
      | .sh n => (hit b 2).recall n l
    if f == .line && !r.whole then
      if x.2.2.dirty then (x.1.poisonLine x.2.1 x.2.2 r.requester).finish r.id stPoison none
      else
        let b := (x.1.parity 5 r.requester r.tag 6).onCache (fun k => k.dropLine x.2.1)
        match x.2.1 with
        | .way key => (b.stageTo r.id .joined).issueFill r.blk (r.pond.getD 63) r.requester r.tag r.served (some key) [r.id]
            (some r.id) none false
        | .sh _ => b.toChannel r
    else x.1.serveLine r x.2.1 x.2.2
  | none =>
    match b.cache.fills.find? (fun g => g.blk == r.blk) with
    | some g => ((misses b).onCache (fun k => { k with
        waitVictim := k.waitVictim.filter (fun x => !(x == r.id)), waitFill := k.waitFill.filter (fun x => !(x == r.id)) })).join r g
    | none => (misses b).miss r

/-! ### The return of a line fill (R361) -/

/-- A line fill as its waiting requests are served: data, dirty, poison mark, and the status that the fill gives. -/
structure Serving where
  data : Block512
  dirty : Bool
  poison : Bool
  st : Nat

/-- One waiting request is served in its turn. -/
def Block.serveWaiter (a : Block × Serving) (id : Nat) : Block × Serving :=
  match a.1.req? id with
  | none => a
  | some r =>
    let b := a.1.modSnd (some id) (fun s => { s with tData := some a.1.clk.cclk })
    let s := a.2
    if r.whole then
      (b.finish id (r.good stOk) none, { data := r.data, dirty := true, poison := r.status == stErrorInternal, st := stOk })
    else if s.st = stErrorCommand then (b.finish id stErrorCommand none, s)
    else if r.op == .read then
      (if s.poison then b.finish id stPoison none else b.finish id s.st (some s.data), s)
    else
      let s' := { s with data := mergeBlock s.data r.data r.mask, dirty := true, poison := s.poison || r.status == stErrorInternal }
      (b.finish id (r.good (if s.poison then stPoison else s.st)) none, s')

/-- A preload landed in its slot: the packet in progress, or the relock, counts it (R374, R376). -/
def Block.landed (b : Block) (preload : Option Nat) : Block :=
  match preload with
  | none => b
  | some w =>
    if 16 ≤ w then b.onCache (fun k => { k with relockLoaded := k.relockLoaded + 1 })
    else { b with pkts := { b.pkts with ops := b.pkts.ops.map (fun o =>
      if o.pkt.opcode == 0x40 then { o with n := o.n + 1 } else o) } }

/-- The slot of a fill can hold its line when it returns. -/
def Block.slotFor (b : Block) (f : LineFill) : Block × Option Nat :=
  if f.dropAfter || f.superseded || !b.cacheOn || b.cache.disabling.isSome then (b, none)
  else match f.slot with
    | some key => if b.converting (key % 16) then (b, none) else (b, some key)
    | none =>
      if f.prefetch && !(b.stalls (setOf f.blk)) then ((b.allocate (setOf f.blk)).getD (b, none)) else (b, none)

/-- A line fill returns with its final decode (R361). `cls` is the class of the read, `stale` that a write to the block
has been ordered since. The second component says that a poison write was issued. -/
def Block.fillReturn (b : Block) (f : LineFill) (st : Nat) (marks uncorr : Bool) (data : Block512) (cls : Nat) (stale : Bool) :
    Block × Bool :=
  let b := b.onCache (fun k => { k with fills := k.fills.filter (fun g => !(g.id == f.id)) })
  let r := f.waiters.foldl Block.serveWaiter (b, { data := data, dirty := false, poison := marks, st := st })
  let b := r.1
  let s := r.2
  let keep := s.dirty || (!s.poison && !(s.st = stErrorCommand))
  let a := if keep then b.slotFor f else (b, none)
  match a.2 with
  | some key =>
    let l : Line := { blk := f.blk, data := s.data, dirty := s.dirty, poison := s.poison, dirtyAt := b.blockTime }
    let b := a.1.update (.way key) l
    let b := if s.dirty && s.poison && uncorr then b.issueWb (.way key) l else b
    (b.landed f.preload, false)
  | none =>
    if s.dirty && !f.superseded then (a.1.wbReq f.blk s.data s.poison, false)
    else if uncorr && !f.superseded then a.1.poisonWrite f.pond f.blk cls data stale
    else (a.1, false)

end Sys2Proof.Machine
end

