-- ==== Sys2Proof/Machine/Fill.lean ====
section
/-! DEFINITION. The valid-tile map and the fill engine (R331 to R339). -/

namespace Sys2Proof.Machine

/-! ### Tiles -/

/-- The tile of a block of pond `p`. -/
def Block.tile (b : Block) (p blk : Nat) : Nat := tileOf (b.placeAt p blk) blk

/-- First block of a tile of pond `p`. -/
def Block.tileFirst (b : Block) (p t : Nat) : Nat :=
  let pl := b.place p
  pl.first + (t - pl.tileBase * 1024) * 4096

/-- A tile fill of the tile runs or waits for a slot (R333). -/
def Block.filling (b : Block) (t : Nat) : Bool :=
  b.tileFills.any (fun f => f.tile == t) || b.tileWait.any (fun f => f.tile == t)

/-- The tiles of pond `p`, from the first up to the first that is not its own. -/
def Block.tileSpan (b : Block) (p : Nat) : Nat × Nat :=
  let pl := b.place p
  (pl.tileBase * 1024, (pl.tileBase + pl.size) * 1024)

/-- The tile range of pond `p` is cleared (R335). -/
def Block.clearTiles (b : Block) (p : Nat) : Block :=
  let s := b.tileSpan p
  if (b.place p).writeFirst then b else { b with tiles := tclear b.tiles s.1 s.2 }

/-- A write of class `cls` waits on tile `t`: it starts a tile fill or joins the one that runs, raising its class (R333). -/
def Block.wantTile (b : Block) (p t cls : Nat) (pattern : Option (BitVec 64)) : Block :=
  let raise := fun (f : TileFill) => if f.tile == t then { f with cls := min f.cls cls } else f
  if b.filling t then { b with tileFills := b.tileFills.map raise, tileWait := b.tileWait.map raise }
  else
    let f : TileFill := { tile := t, pond := p, cls := cls, pattern := pattern }
    if b.tileFills.length < 16 then { b with tileFills := b.tileFills ++ [f] }
    else { b with tileWait := b.tileWait ++ [f] }

/-- A tile fill ends or stops, and the next tile that waits takes its slot. -/
def Block.freeTile (b : Block) (t : Nat) : Block :=
  let x := slotTiles (b.tileFills.filter (fun f => !(f.tile == t))) b.tileWait
  { b with tileFills := x.1, tileWait := x.2 }

/-- A block of a tile fill reaches the ordering point; the last of 4,096 sets the tile's bit (R333). -/
def Block.tileOrdered (b : Block) (t : Nat) : Block :=
  match b.tileFills.find? (fun f => f.tile == t) with
  | none => b
  | some f =>
    if f.ordered + 1 < 4096 then
      { b with tileFills := b.tileFills.map (fun (g : TileFill) => if g.tile == t then { g with ordered := g.ordered + 1 } else g) }
    else
      let b := (b.freeTile t).count 0x0F none none 1
      { b with
        tiles := tput false b.tiles t true
        jobs := b.jobs.map (fun j => if f.pattern.isSome && j.isPattern && j.pond == f.pond && j.stop ≠ j.first
          then { j with covered := j.covered + 4096 } else j) }

/-! ### Fill writes -/

/-- Eight bytes repeated over a block (R338). -/
def patternBlock (w : BitVec 64) : Block512 := BitVec.ofNat 512 ((List.range 8).foldl (fun n k => n + w.toNat * 2 ^ (64 * k)) 0)

/-- Key of a job of the fill engine. -/
def FillJob.key (j : FillJob) : Nat := j.opcode * 64 + j.pond

/-- Fill writes issued and not yet ordered (at most 256). -/
def Block.fillsOut (b : Block) : Nat :=
  (b.tileFills.map (fun f => f.issued - f.ordered)).sum + (b.jobs.map (fun j => j.pending)).sum

/-- One whole-block write of the fill engine; `ref` is odd for a tile fill. -/
def Block.fillWrite (b : Block) (p blk cls ref : Nat) (d : Block512) (poison : Bool) : Block :=
  b.issue { id := 0, kind := .fillWrite, requester := 0xF1, tag := 0, cls := cls, blk := blk, pond := p, ref := ref,
            data := d, poison := poison }

/-- The next write of the first tile fill that has one. -/
def Block.tileStep (b : Block) : Option Block :=
  (b.tileFills.find? (fun f => f.issued < 4096)).map (fun f =>
    let b' := { b with tileFills := b.tileFills.map (fun (g : TileFill) => if g.tile == f.tile then { g with issued := g.issued + 1 } else g) }
    b'.fillWrite f.pond (b.tileFirst f.pond f.tile + f.issued) f.cls (2 * f.tile + 1) (patternBlock (f.pattern.getD 0)) false)

/-- A job with the key changed. -/
def Block.modJob (b : Block) (key : Nat) (g : FillJob → FillJob) : Block :=
  { b with jobs := b.jobs.map (fun j => if j.key == key then g j else j) }

/-- The class of a job's writes: 7 for the poison pass of a rebuild (R170), FILL_CLASS otherwise. -/
def Block.jobClass (b : Block) (j : FillJob) : Nat := if j.poison then 7 else b.fillClass

/-- One block of a job is written: in its cache line where one is present (R338), in a scratch way, or in DRAM. -/
def Block.jobBlock (b : Block) (j : FillJob) : Option Block :=
  let d := patternBlock j.pattern
  let done := fun (b : Block) => b.modJob j.key (fun j => { j with next := j.next + 1, covered := j.covered + 1 })
  if j.pond == 63 then
    let n := scratchLine j.next
    if b.wayMode (n / 2 ^ 14) == 2 then some (done (b.onCache (fun k => k.writeScratch n d (BitVec.allOnes 64) false)))
    else some (b.modJob j.key (fun j => { j with next := j.next + 1 }))
  else if b.cache.fills.any (fun f => f.blk == j.next) then none
  else match b.cache.lookup j.next with
    | some (at_, l) => some (done (b.update at_ (l.store d false b.blockTime)))
    | none =>
      if b.fillsOut < 256 then
        let b := b.modJob j.key (fun j => { j with next := j.next + 1, pending := j.pending + 1 })
        some (b.fillWrite j.pond j.next (b.jobClass j) (2 * j.key) d j.poison)
      else none

/-- The next step of a job, where it can go on (R338). -/
def Block.jobStep (b : Block) (j : FillJob) : Option Block :=
  if j.stopped || j.stop ≤ j.next then none
  else
    let pl := b.place j.pond
    if j.pond == 63 || pl.writeFirst || !(j.opcode == 0x50) then b.jobBlock j
    else
      let t := tileOf pl j.next
      let lo := b.tileFirst j.pond t
      let wholly := j.next = lo && lo + 4096 ≤ j.stop && j.first ≤ lo
      let busy := b.reqs.any (fun r => r.pond == some j.pond && lo ≤ r.blk && r.blk < lo + 4096 && !(r.stage == .ready) &&
        (r.op == .writeFull || r.op == .writePartial))
      if b.filling t then none
      else if !j.isPattern && wholly then
        if busy then none
        else
          let b := { b with tiles := tput false b.tiles t false, cache := b.cache.discard lo (lo + 4096) }
          some ((b.dropWbs lo (lo + 4096)).modJob j.key (fun j => { j with next := lo + 4096, covered := j.covered + 4096 }))
      else if tget false b.tiles t then b.jobBlock j
      else if !j.isPattern then
        let stop := min j.stop (lo + 4096)
        some (b.modJob j.key (fun x => { x with covered := x.covered + (stop - x.next), next := stop }))
      else if wholly then
        some ((b.wantTile j.pond t b.fillClass (some j.pattern)).modJob j.key (fun x => { x with next := lo + 4096 }))
      else some (b.wantTile j.pond t b.fillClass none)

/-- The fill engine issues what it may, tile fills first; 256 writes are in flight at most. -/
def Block.pumpFill : Nat → Block → Block
  | 0, b => b
  | n + 1, b =>
    match (if b.fillsOut < 256 then b.tileStep else none) with
    | some b' => Block.pumpFill n b'
    | none => match b.jobs.findSome? b.jobStep with
      | some b' => Block.pumpFill n b'
      | none => b

/-- A fill write reaches the ordering point. -/
def Block.fillOrdered (b : Block) (ref : Nat) : Block :=
  if ref % 2 == 1 then b.tileOrdered (ref / 2)
  else b.modJob (ref / 2) (fun j => { j with pending := j.pending - 1, covered := j.covered + 1 })

/-- A job has written all it had to, or has stopped, and no write of it is outstanding. -/
def FillJob.over (j : FillJob) (b : Block) : Bool :=
  j.pending == 0 && (j.stopped || (j.stop ≤ j.next && !(b.tileFills ++ b.tileWait).any (fun f => f.pond == j.pond && f.pattern.isSome)))

/-! ### Tile fills that stop (R334) -/

/-- The tile fills of pond `p` stop; the requests that wait on them complete with `st`. -/
def Block.stopTiles (b : Block) (p st : Nat) : Block :=
  let ids := (b.reqs.filter (fun r => r.pond == some p && (match r.stage with | .tile _ => true | _ => false))).map (·.id)
  let b := ids.foldl (fun (b : Block) id => b.finish id st none) b
  { b with tileFills := (b.otherTiles p).1, tileWait := (b.otherTiles p).2 }

/-- At drain entry every tile fill on which only classes 2 to 7 wait stops (R334). -/
def Block.drainTiles (b : Block) : Block :=
  (b.tileFills ++ b.tileWait).foldl (fun (b : Block) f =>
    let ws := b.reqs.filter (fun r => r.stage == .tile f.tile)
    if ws.any (fun r => r.cls ≤ 1) then
      let raise := fun (g : TileFill) => if g.tile == f.tile then { g with cls := (ws.map (·.cls)).foldl min 7 } else g
      { b with tileFills := b.tileFills.map raise, tileWait := b.tileWait.map raise }
    else
      let b := (ws.map (fun (r : Req) => r.id)).foldl (fun (b : Block) id => b.finish id stShed none) b
      { b with tileWait := b.tileWait.filter (fun (g : TileFill) => !(g.tile == f.tile)) }.freeTile f.tile) b

end Sys2Proof.Machine
end

