-- ==== Sys2Proof/Machine/Queue.lean ====
section
/-! DEFINITION. The transaction queues: enqueue and the ordering point, forwarding, coalescing, the block lock and the
merge of read-modify-write (R214 to R224, R298, R302), and the remap CAM's view of a row (R348, R350). -/

namespace Sys2Proof.Machine

/-! ### Places -/

/-- The queue of a DRAM-bound request. -/
def Block.dq (b : Block) (d : DReq) : Nat := b.queueOf d.coord.chan d.coord.sc

/-- Key of a bank of a queue (R232). -/
def bankKey (rank cid bg ba : Nat) : Nat := ((rank * 8 + cid) * 8 + bg) * 4 + ba

/-- The physical row of spare index `s` (R348). -/
def Block.spareRow (b : Block) (c s : Nat) : Nat := (geoOf b.cfg c).rows - 1 - s

/-- A CAM entry maps the row of these coordinates (R348). -/
def CamEnt.maps (e : CamEnt) (x : Coord) : Bool :=
  e.sc == x.sc && e.rank == x.rank && e.cid == x.cid && e.bg == x.bg && e.ba == x.ba && e.row == x.row

/-- The row that a request's commands address (R348, R350): a copying entry maps the columns already copied. -/
def Block.physRow (b : Block) (d : DReq) : Nat :=
  let ch := b.chan d.coord.chan
  match ch.cam.find? (fun e => e.maps d.coord) with
  | none => d.coord.row
  | some e =>
    let copied := ch.copy.any (fun k => k.idx == e.idx && k.mask.testBit d.coord.col)
    if e.active || copied || d.kind == .copyWrite then b.spareRow d.coord.chan e.spare else d.coord.row

/-- An entry holds a write-buffer entry (R216). -/
def QEnt.buffers (e : QEnt) : Bool := !e.d.kind.isRead

/-- The newest write-buffer entry that holds a whole block of this address (R218, R219). -/
def Queue.newest (k : Queue) (blk : Nat) : Option QEnt := (k.ents.filter (fun e => e.whole && e.d.blk == blk)).getLast?

/-- An entry replaced. -/
def Queue.setEnt (k : Queue) (id : Nat) (g : QEnt → QEnt) : Queue :=
  { k with ents := k.ents.map (fun e => if e.d.id == id then g e else e) }

/-- An entry released, its lock kept. -/
def Queue.free (k : Queue) (id : Nat) : Queue := { k with ents := k.ents.filter (fun e => !(e.d.id == id)) }

/-- The block is locked by another request (R222). -/
def Queue.lockedFor (k : Queue) (blk id : Nat) : Bool := k.locks.any (fun l => l.1 == blk && !(l.2 == id))

/-- The lock on a block is taken. -/
def Queue.lock (k : Queue) (blk id : Nat) : Queue := { k with locks := (blk, id) :: k.locks.filter (fun l => !(l.1 == blk)) }

/-- The lock on a block is released. -/
def Queue.unlock (k : Queue) (blk : Nat) : Queue := { k with locks := k.locks.filter (fun l => !(l.1 == blk)) }

/-! ### The ordering point of writes -/

/-- Requests of the block that a poison write or a dredge write-back must not follow are marked (R296, R345). -/
def Chan.markStale (ch : Chan) (blk : Nat) : Chan :=
  let m := fun (d : DReq) => if d.blk == blk then { d with stale := true } else d
  { ch with
    outside := ch.outside.map m, wait := ch.wait.map m, granted := ch.granted.map m
    queues := ch.queues.map (fun (k : Queue) => { k with ents := k.ents.map (fun e => { e with d := m e.d }) }) }

/-- The copier's next column (R349): the copy of the current one has been ordered. -/
def Copy.done (k : Copy) (poisoned : Bool) : Copy :=
  { k with mask := setBit k.mask k.col, col := k.col + 1, copied := k.copied + 1, busy := false,
           poisoned := k.poisoned + (if poisoned then 1 else 0) }

/-- A write-type request reaches the ordering point (R24, R95, R217, R333, R349, R366). -/
def Block.ordered (b : Block) (d : DReq) : Block :=
  let c := d.coord.chan
  let b := b.modChan c (fun ch => ch.markStale d.blk)
  match d.kind with
  | .writeback => b.wbOrdered d.id d.cls
  | .fillWrite => b.fillOrdered d.ref
  | .poisonWrite => { b with poisonPending := b.poisonPending.filter (fun k => !(k == d.blk)) }
  | .copyWrite => (b.modQueue c (b.dq d) (fun k => k.unlock d.blk)).modChan c (fun ch =>
      { ch with copy := ch.copy.map (fun k => k.done d.poison) })
  | _ => b

/-- A whole block is accepted into the write buffer (R217, R219): it coalesces with the newest entry of its block whose
WR has not been selected, or keeps its own entry `id`. -/
def Block.buffer (b : Block) (d : DReq) : Block :=
  let c := d.coord.chan
  let q := b.dq d
  match ((b.chan c).queue q).newest d.blk with
  | some e =>
    if !e.sel then
      let b := b.modQueue c q (fun k => (k.free d.id).setEnt e.d.id (fun x =>
        { x with d := { x.d with data := d.data, poison := d.poison } }))
      let b := b.countC c 0x0B (some d.cls) (some d.requester) (some d.coord.sc) 1
      b.modSnd d.owner (fun s => { s with coal := true })
    else b.modQueue c q (fun k => k.setEnt d.id (fun x => { x with d := d, whole := true, sel := false }))
  | none => b.modQueue c q (fun k => k.setEnt d.id (fun x => { x with d := d, whole := true, sel := false }))

/-- The status with which a request served by a write completes. -/
def Block.goodFor (b : Block) (owner : Option Nat) (st : Nat) : Nat :=
  match owner.bind b.req? with
  | some r => r.good st
  | none => st

/-- A request's owner completes, if it has one. -/
def Block.finishOwner (b : Block) (owner : Option Nat) (st : Nat) (data : Option Block512) : Block :=
  match owner with
  | none => b
  | some id => b.finish id (b.goodFor owner st) data

/-- Steps 4 and 5 of R223: the bytes are merged, the merged block is buffered and the lock released. -/
def Block.mergeWrite (b : Block) (d : DReq) (old : Block512) (mark : Bool) (st : Nat) : Block :=
  let d' := { d with data := mergeBlock old d.data d.mask, poison := mark || d.poison, mask := BitVec.allOnes 64 }
  let b := b.modQueue d.coord.chan (b.dq d) (fun k => k.unlock d.blk)
  ((b.buffer d').ordered d').finishOwner d.owner st none

/-! ### Reads served without DRAM (R218) -/

/-- A read-type request takes its block from the write buffer, mark included. -/
def Block.forward (b : Block) (d : DReq) (data : Block512) (mark : Bool) : Block :=
  let c := d.coord.chan
  let q := b.dq d
  let b := b.modQueue c q (fun k => k.free d.id)
  let b := b.countC c 0x0A (some d.cls) (some d.requester) (some d.coord.sc) 1
  let b := b.modSnd d.owner (fun s => { s with fwd := true, tData := some b.clk.cclk })
  match d.kind with
  | .read | .debugRead => if mark then b.finishOwner d.owner stPoison none else b.finishOwner d.owner stOk (some data)
  | .lineFill | .prefetch =>
    match b.cache.fills.find? (fun f => f.id == d.id) with
    | none => b
    | some f => (b.fillReturn f stOk mark false data d.cls d.stale).1
  | .dredgeRead => { b with dredge := tmod {} b.dredge d.pond (fun w => { w with read := w.read + 1 }) }
  | .copyRead =>
    let id := b.nextId
    let b := b.modQueue c q (fun k => k.lock d.blk id)
    b.issue { d with kind := .copyWrite, data := data, poison := mark }
  | _ => b

/-! ### Enqueue (R217) -/

/-- A request that holds an entry meets R217. -/
def Block.enter (b : Block) (d : DReq) : Block :=
  let c := d.coord.chan
  let q := b.dq d
  let k := (b.chan c).queue q
  let b := b.modSnd d.owner (fun s => { s with coord := some d.coord })
  if k.lockedFor d.blk d.id then b.modQueue c q (fun k => k.setEnt d.id (fun e => { e with held := true }))
  else
    let b := b.modQueue c q (fun k => k.setEnt d.id (fun e => { e with held := false }))
    if d.kind == .copyRead then
      let b := b.modQueue c q (fun k => k.lock d.blk d.id)
      match k.newest d.blk with
      | some e => b.forward d e.d.data e.d.poison
      | none => b
    else if d.kind.isRead then
      match k.newest d.blk with
      | some e => b.forward d e.d.data e.d.poison
      | none => b
    else if d.kind == .writePartial then
      let b := b.modQueue c q (fun k => k.lock d.blk d.id)
      let b := b.countC c 0x0C (some d.cls) (some d.requester) (some d.coord.sc) 1
      let b := b.modSnd d.owner (fun s => { s with rmw := true })
      match k.newest d.blk with
      | some e => b.mergeWrite d e.d.data e.d.poison (if e.d.poison then stPoison else stOk)
      | none => b
    else if (d.kind == .dredgeWb || d.kind == .poisonWrite) && d.stale then
      { b.modQueue c q (fun k => k.free d.id) with poisonPending := b.poisonPending.filter (fun k => !(k == d.blk)) }
    else ((b.buffer d).ordered d).finishOwner d.owner stOk none

/-- The first held entry of a queue whose block is no longer locked (R224). -/
def Queue.released (k : Queue) : Option QEnt := k.ents.find? (fun e => e.held && !(k.lockedFor e.d.blk e.d.id))

/-- One held request proceeds, in order of enqueue (R224). -/
def Block.releaseOne (b : Block) : Option Block :=
  (List.range 8).findSome? (fun c => (List.range 2).findSome? (fun q =>
    (((b.chan c).queue q).released).map (fun e => b.enter e.d)))

/-- A granted request enters its queue (R207, R217). -/
def Block.enqueue (b : Block) (c : Nat) (d : DReq) : Block :=
  let b := b.modChan c (fun ch => { ch with
    granted := ch.granted.filter (fun x => !(x.id == d.id)), lastEnq := some b.clk.cclk })
  let b := b.modQueue c (b.dq d) (fun k => { k with ents := k.ents ++ [{ d := d, enqAt := b.clk.cclk }] })
  b.enter d

end Sys2Proof.Machine
end

