-- ==== Sys2Proof/Machine/Energy.lean ====
section
/-! DEFINITION. The energy governor and thermal scaling (R257, R267 to R275). Energy is in units of 2^-8 pJ. -/

namespace Sys2Proof.Machine

/-! ### Thermal scale (R272, R273) -/

/-- A TEMP field, in 0.25 °C, as a temperature in 0.125 °C; 0x8000 is no reading (R310). -/
def temp8 (x : Nat) : Option Int :=
  if x = 0x8000 then none else some (2 * (if x < 0x8000 then (x : Int) else (x : Int) - 0x10000))

/-- The die temperature as taken, in 0.125 °C (R66). -/
def dieT8 (t : BitVec 12) : Int := t.toInt

/-- The scale of a temperature for limits W and C in °C (R272). -/
def scaleOf (t8 : Int) (w c : Nat) : Nat :=
  if t8 < 8 * (w : Int) then 256
  else if 8 * (c : Int) ≤ t8 then 0
  else (256 * (8 * (c : Int) - t8)).toNat / (8 * (c - w))

/-- DIMM_WARN, DIMM_CRIT, DIE_WARN, DIE_CRIT (R274). -/
def Block.limit (b : Block) (k : Nat) : Nat := b.f 0x0B01 0 (8 * k)

/-- A sensor is failed: three successive polls (R314). -/
def Phy.failed (h : Phy) (k : Nat) : Bool := 3 ≤ h.tempBad.getD k 0

/-- The readings of a channel by sensor: thermal sensors, a failed one counting half-way between its limits (R314), and
DIMM_CRIT for each unit whose MR4 reads above range (R257). -/
def Block.dimmTemps (b : Block) (c : Nat) : List (Nat × Int) :=
  let ch := b.chan c
  ((List.range 6).filterMap (fun k =>
    if ch.phy.failed k then some (k, 4 * ((b.limit 0 : Int) + (b.limit 1 : Int)))
    else (temp8 (ch.phy.temps.getD k 0x8000)).map (fun t => (k, t)))) ++
    (ch.turn.mr4.filter (fun e => 2 ≤ e.2)).map (fun e => (0x10 + e.1, 8 * (b.limit 1 : Int)))

/-- The hottest reading of a channel: sensor and temperature. -/
def Block.hottest (b : Block) (c : Nat) : Option (Nat × Int) :=
  (b.dimmTemps c).foldl (fun m e => match m with
    | none => some e
    | some x => if x.2 < e.2 then some e else some x) none

/-- The scale that the die temperature gives; 256 while it is invalid. -/
def Block.dieScale (b : Block) : Nat :=
  match b.pins.dieTemp with
  | none => 256
  | some t => scaleOf (dieT8 t) (b.limit 2) (b.limit 3)

/-- s_c of a channel (R272, R273); in drain hold is suspended and the scale is never below 32. -/
def Block.scale (b : Block) (c : Nat) : Nat :=
  let dimm := match b.hottest c with
    | none => 256
    | some e => scaleOf e.2 (b.limit 0) (b.limit 1)
  let s := min dimm b.dieScale
  if b.drain then max s 32
  else if (b.chan c).phy.hold || b.stat.dieHold then 0 else s

/-! ### Allowance and bucket (R267, R268) -/

/-- A channel is governed. -/
def Block.governed (b : Block) (c : Nat) : Bool := b.flag 0x0B00 c 0 && b.chanServes c

/-- A_c in mW. -/
def Block.chanMw (b : Block) (c : Nat) : Nat :=
  let sum := (((List.range 8).filter b.governed).map (fun k => b.f 0x0B00 k 8)).sum
  if b.governed c then b.allowance * b.f 0x0B00 c 8 / sum * b.scale c / 256 else 0

/-- An energy code in pJ (R274). -/
def pjOf (code : Nat) : Nat := code % 2 ^ 12 * 2 ^ (code / 2 ^ 12 % 16)

/-- A field of record 0x0B00 in pJ. -/
def Block.pj (b : Block) (c bit : Nat) : Nat := pjOf (b.f 0x0B00 c bit)

/-- P256 of a channel. -/
def Block.p256 (b : Block) (c : Nat) : Nat := 256 * 2000 * b.divider c / b.clk.rootMhz

/-- The depth of a channel's bucket. -/
def Block.depth (b : Block) (c : Nat) : Int := b.chanMw c * b.f 0x0B00 c 16 * 1000 * 256

/-- One CK/2 cycle of a governed channel's bucket. -/
def Block.govCycle (b : Block) (c : Nat) : Block :=
  if !(b.governed c) then b else
  let awake := ((List.range (b.units c)).filter (fun u => !((b.chan c).pd.contains u))).length
  let p := b.p256 c
  let lvl := (b.chan c).gov.level + ((b.chanMw c * p : Nat) : Int) - ((b.pj c 128 * awake * p / 1000 : Nat) : Int)
  let lvl := min lvl (b.depth c)
  b.modChan c (fun ch => { ch with gov := { ch.gov with level := lvl } })

/-- The charge of a command in pJ (R269). -/
def Block.cmdPj (b : Block) (c : Nat) (k : CmdKind) : Nat :=
  match k with
  | .act => b.pj c 32
  | .rd _ => b.pj c 48
  | .wr _ => b.pj c 64
  | .refab => b.pj c 80
  | .rfmab => b.pj c 96
  | .pdx => b.pj c 112
  | _ => 0

/-- A request command is affordable (R270). -/
def Block.affordable (b : Block) (c : Nat) (k : CmdKind) : Bool :=
  !(b.governed c) ||
    (!(b.chanMw c == 0) &&
      (decide (((b.cmdPj c k * 256 : Nat) : Int) ≤ (b.chan c).gov.level) || (b.chan c).gov.level == b.depth c))

/-- A command is charged (R269), and counted in ENERGY_NJ with the remainder carried forward (R441). -/
def Block.charge (b : Block) (c : Nat) (k : CmdKind) : Block :=
  if !(b.governed c) then b else
  let pj := b.cmdPj c k
  let acc := (b.chan c).gov.nj + pj
  (b.modChan c (fun ch => { ch with gov := { ch.gov with level := ch.gov.level - ((pj * 256 : Nat) : Int), nj := acc % 1024 } })).countC
    c 0x1E none none none (acc / 1024)

/-- RESUME in 2^-8 pJ (R271). -/
def Block.resume (b : Block) (c : Nat) : Int := (b.pj c 32 + max (b.pj c 48) (b.pj c 64)) * 256

/-- A request waits in a queue of the channel: one that still has a command to select. -/
def Chan.requestsWait (ch : Chan) : Bool := ch.queues.any (fun k => k.ents.any (fun e => !e.sel))

/-- The channel stops being energy-short where R271 lets it. -/
def Block.endShort (b : Block) (c : Nat) : Block :=
  let ch := b.chan c
  if ch.gov.short && (!(b.governed c) || !ch.requestsWait ||
      (decide (0 < b.depth c) && decide (min (b.depth c) (b.resume c) ≤ ch.gov.level))) then
    b.modChan c (fun ch => { ch with gov := { ch.gov with short := false } })
  else b

/-- A command that met every condition but affordability makes the channel energy-short (R271). -/
def Block.goShort (b : Block) (c : Nat) : Block :=
  if (b.chan c).gov.short then b
  else b.modChan c (fun ch => { ch with gov := { ch.gov with short := true, shortSince := b.clk.ns } })

/-- ENERGY_STALL (R271): 10 µs of energy shortage with A_c above 0. -/
def Block.energyStall (b : Block) (c : Nat) : Block :=
  let g := (b.chan c).gov
  if g.short && b.governed c && !(b.chanMw c == 0) && g.shortSince + 10000 ≤ b.clk.ns then
    (b.event (chanCode c 0xA)
      [(2, b.chanMw c), (8, twos 8 g.level), (8, twos 8 (b.depth c)), (2, b.scale c)]).modChan c
        (fun ch => { ch with gov := { ch.gov with shortSince := b.clk.ns } })
  else b

/-- ENERGY_STALL. -/
def execEnergyStall (c : Fin 8) (s : State) : Host.Outcome State Fault Refusal := s.run (fun b => b.energyStall c.val)

end Sys2Proof.Machine
end

