-- ==== Sys2Proof/Machine/Select.lean ====
section
/-! DEFINITION. Command selection: timing, candidates, ranking, the page predictor and power-down entry (R225 to R239,
R263, R264). Times are in CK; a command selected in a CK/2 cycle issues in the next. -/

namespace Sys2Proof.Machine

/-! ### Timing (R238, R239) -/

/-- A field of record 0x0200 by byte offset and bit. -/
def Block.tm (b : Block) (c off lo : Nat) : Nat := b.f 0x0200 c (8 * off + lo)

/-- CWL + BL2 of a channel. -/
def Block.wrLen (b : Block) (c : Nat) : Nat := b.tm c 0x01 0 + b.bl2 c

/-- The two commands go to one bank. -/
def Cmd.sameBank (x y : Cmd) : Bool := x.rank == y.rank && x.cid == y.cid && x.bg == y.bg && x.ba == y.ba

/-- The command precharges: one bank, or every bank of its rank. -/
def CmdKind.closes : CmdKind → Bool
  | .pre | .preab => true
  | _ => false

/-- The minimum spacing that R239 asks from `y` to a later `x`; 0 where no rule applies. -/
def Block.spacingCk (b : Block) (c : Nat) (y x : Cmd) : Nat :=
  let t := b.tm c
  let bank := y.sameBank x
  let rank := y.rank == x.rank
  let bg := y.bg == x.bg
  let base := match y.kind with
    | .refab => if rank then t 0x16 0 else 0
    | .rfmab => if rank then b.f 0x0A00 c 96 else 0
    | .pdx => if rank then t 0x1A 0 else 0
    | .srx => if rank then t 0x20 0 else 0
    | .pde => t 0x1B 0
    | .mr => if rank then (match x.kind with | .mr => t 0x1C 0 | _ => t 0x1D 0) else 0
    | _ => 0
  let rule := match y.kind, x.kind with
    | .act, .act => if bank then t 0x06 0 else if rank then (if bg then t 0x09 0 else t 0x08 0) else 0
    | .act, .rd _ => if bank then t 0x02 0 else 0
    | .act, .wr _ => if bank then t 0x02 0 else 0
    | .act, .pre => if bank then t 0x04 0 else 0
    | .act, .preab => if rank then t 0x04 0 else 0
    | .pre, .act => if bank then t 0x03 0 else 0
    | .preab, .act => if rank then t 0x03 0 else 0
    | .rd _, .rd _ => if rank then (if bg then t 0x0C 0 else t 0x0B 0) else t 0x0B 0 + t 0x12 0
    | .wr _, .wr _ =>
      if rank then (if bg then (if b.ddr4 c then t 0x0C 0 else t 0x0D 0) else t 0x0B 0) else t 0x0B 0 + t 0x12 4
    | .rd _, .wr _ => t 0x14 0
    | .wr _, .rd _ => if rank then b.wrLen c + (if bg then t 0x0F 0 else t 0x0E 0) else t 0x13 0
    | .rd _, .pre => if bank then t 0x10 0 else 0
    | .rd _, .preab => if rank then t 0x10 0 else 0
    | .wr _, .pre => if bank then b.wrLen c + t 0x11 0 else 0
    | .wr _, .preab => if rank then b.wrLen c + t 0x11 0 else 0
    | _, _ => 0
  max base rule

/-- Every rule of R239 is met by a command against what the queue has issued. -/
def Block.timingOk (b : Block) (c : Nat) (issued : List Cmd) (x : Cmd) : Bool :=
  issued.all (fun y => y.at_ + b.spacingCk c y x ≤ x.at_ || b.spacingCk c y x == 0) &&
    (match x.kind with
     | .act => (issued.filter (fun y => (match y.kind with | .act => true | _ => false) && y.rank == x.rank &&
         x.at_ < y.at_ + b.tm c 0x0A 0)).length < 4
     | _ => true)

/-- Commands kept for the timing rules. -/
def Queue.remember (k : Queue) (x : Cmd) : Queue :=
  { k with issued := x :: k.issued.filter (fun y => x.at_ ≤ y.at_ + 20000) }

/-- The replay buffer holds the last 64 commands, oldest first; the row open in the bank of each command that leaves it is
kept as what was open before the oldest (R243). -/
def Queue.record (k : Queue) (x : Cmd) : Queue :=
  let key := fun (y : Cmd) => bankKey y.rank y.cid y.bg y.ba
  let leave := fun (o : List (Nat × Nat)) (y : Cmd) => match y.kind with
    | .act => (key y, y.row) :: o.filter (fun e => !(e.1 == key y))
    | .pre | .rd true | .wr true => o.filter (fun e => !(e.1 == key y))
    | .preab | .refab => o.filter (fun e => !(e.1 / 256 == y.rank))
    | _ => o
  let all := k.replay ++ [x]
  if all.length ≤ 64 then { k with replay := all }
  else { k with replay := all.drop 1, openBefore := leave k.openBefore (all.headD x) }

/-! ### Candidates (R225, R227) -/

/-- A command that the scheduler may choose. -/
structure Cand where
  cmd : Cmd
  ent : Option QEnt
  overdue : Bool
  hit : Bool
  due : Nat := 0

/-- CK of the next command slot. -/
def Chan.slotCk (ch : Chan) : Nat := 2 * (ch.ck2 + 1)

/-- The bank of a queue that a request addresses. -/
def QEnt.bank (e : QEnt) : Nat := bankKey e.d.coord.rank e.d.coord.cid e.d.coord.bg e.d.coord.ba

/-- The entry's next column command is a WR. -/
def QEnt.writes (e : QEnt) : Bool := e.whole

/-- The request is overdue (R228). -/
def Block.overdue (b : Block) (c : Nat) (e : QEnt) : Bool :=
  let cap := b.f 0x0900 c (64 + 16 * e.d.cls)
  !(cap == 0) && decide (cap ≤ b.clk.cclk - e.enqAt)

/-- The next command of a request (R227, R264): none where it is held, selected already, or R220 keeps it back. -/
def Block.nextCmd (b : Block) (c : Nat) (k : Queue) (e : QEnt) : Option Cmd :=
  let older := k.ents.takeWhile (fun x => !(x.d.id == e.d.id))
  let blocked := e.writes && older.any (fun x => x.d.blk == e.d.blk && !x.sel && !x.held)
  if e.held || e.sel then none
  else
    let x := e.d.coord
    let row := b.physRow e.d
    let base : Cmd := { kind := .act, rank := x.rank, cid := x.cid, bg := x.bg, ba := x.ba, row := row,
                        at_ := (b.chan c).slotCk, dreq := some e.d.id, blk := e.d.blk }
    if (b.chan c).pd.contains (b.unitOf c x.rank x.sc) then some { base with kind := .pdx }
    else match (tget {} k.banks e.bank).openRow with
      | none => some base
      | some r =>
        if r = row then
          if blocked then none
          else if e.writes then some { base with kind := .wr false, data := e.d.data, poison := e.d.poison }
          else some { base with kind := .rd false }
        else some { base with kind := .pre, row := r }

/-- The direction filter (R225): an overdue request passes in either direction. -/
def Queue.directs (k : Queue) (e : QEnt) (overdue : Bool) : Bool := overdue || (e.writes == k.dirWrite)

/-- An ACT that would raise a bank's count to RAAMMT is no candidate (R259). -/
def Block.raaOk (b : Block) (c : Nat) (k : Queue) (e : QEnt) (kind : CmdKind) : Bool :=
  match kind with
  | .act => b.ddr4 c || !(b.flag 0x0A00 c 1) || (tget {} k.banks e.bank).raa + 1 < b.f 0x0A00 c 80
  | _ => true

/-- The kind is a column command. -/
def CmdKind.column : CmdKind → Bool
  | .rd _ | .wr _ => true
  | _ => false

/-- Request commands that meet every condition of R227 but affordability. -/
def Block.reqCands (b : Block) (c : Nat) (k : Queue) : List Cand :=
  k.ents.filterMap (fun e =>
    (b.nextCmd c k e).bind (fun x =>
      let od := b.overdue c e
      if k.directs e od && b.raaOk c k e x.kind && b.timingOk c k.issued x then
        some { cmd := x, ent := some e, overdue := od, hit := x.kind.column }
      else none))

/-- The place that a bank key names. -/
def bankCmd (key row at_ : Nat) : Cmd :=
  { kind := .pre, rank := key / 256, cid := key / 32 % 8, bg := key / 4 % 8, ba := key % 4, row := row, at_ := at_ }

/-- Closes that are due (R234, R235): banks marked, with their row open, while the channel is not energy-short. -/
def Block.closeCands (b : Block) (c : Nat) (k : Queue) : List Cand :=
  if (b.chan c).gov.short then [] else
  k.banks.filterMap (fun e =>
    match e.2.openRow with
    | some r =>
      let x := bankCmd e.1 r (b.chan c).slotCk
      if e.2.deferred && b.timingOk c k.issued x then
        some { cmd := x, ent := none, overdue := false, hit := false, due := e.2.lastCol }
      else none
    | none => none)

/-! ### Ranking (R228, R229) -/

/-- Of two requests the first is older (R196). -/
def DReq.older (x y : DReq) : Bool :=
  x.born < y.born || (x.born == y.born && (x.requester < y.requester || (x.requester == y.requester && x.tag < y.tag)))

/-- `x` ranks above `y`. -/
def Cand.above (short : Bool) (x y : Cand) : Bool :=
  match x.ent, y.ent with
  | none, none => x.due < y.due
  | some _, none => true
  | none, some _ => false
  | some a, some b =>
    if x.overdue != y.overdue then x.overdue
    else if short && x.hit != y.hit then x.hit
    else if a.d.cls != b.d.cls then a.d.cls < b.d.cls
    else if x.hit != y.hit then x.hit
    else a.d.older b.d

/-- The highest-ranked of a list. -/
def topCand (short : Bool) (l : List Cand) : Option Cand :=
  l.foldl (fun m x => match m with
    | none => some x
    | some y => if x.above short y then some x else some y) none

/-! ### Direction and predictor (R225, R233) -/

/-- The direction at a command slot; the second component counts a turnaround from READ to WRITE. -/
def Block.direct (b : Block) (c : Nat) (k : Queue) : Queue × Nat :=
  let wb := (k.ents.filter (fun e => e.whole && !e.sel)).length
  let reads := k.ents.any (fun e => e.d.kind.isRead && !e.held && !e.sel)
  if k.dirWrite then
    if wb = 0 || (wb ≤ b.f 0x0900 c 40 && reads) then ({ k with dirWrite := false }, 0) else (k, 0)
  else if b.f 0x0900 c 32 ≤ wb || (!reads && 1 ≤ wb) then ({ k with dirWrite := true }, 1) else (k, 0)

/-- The predictor after a column command for row `r` (R233). -/
def predict (mode : Nat) (ctr : Tab Nat) (bank : Bank) (r : Nat) : Tab Nat × Bank :=
  let a := if bank.lastValid then
      let o := r == bank.lastRow
      let i := bank.hist % 64
      let v := tget 2 ctr i
      (tput 2 ctr i (if o then min (v + 1) 3 else v - 1), (bank.hist * 2 + (if o then 1 else 0)) % 256)
    else (ctr, bank.hist)
  (a.1, { bank with hist := a.2, lastRow := r, lastValid := true,
                    keep := mode == 1 || (mode == 0 && decide (2 ≤ tget 2 a.1 (a.2 % 64))) })

/-- Another request of the queue targets the row. -/
def Block.rowWanted (b : Block) (k : Queue) (e : QEnt) (row : Nat) : Bool :=
  k.ents.any (fun x => !(x.d.id == e.d.id) && x.bank == e.bank && b.physRow x.d == row && !x.sel)

/-! ### A command is selected -/

/-- The time at which an auto-precharge takes effect (R239). -/
def Block.autoPre (b : Block) (c : Nat) (k : Queue) (x : Cmd) : Nat :=
  let act := (k.issued.find? (fun y => (match y.kind with | .act => true | _ => false) && y.sameBank x)).map (·.at_)
  let own := match x.kind with
    | .wr _ => x.at_ + b.wrLen c + b.tm c 0x11 0
    | _ => x.at_ + b.tm c 0x10 0
  max own ((act.map (· + b.tm c 0x04 0)).getD 0)

/-- The units of a channel whose last command is remembered. -/
def Chan.used (ch : Chan) (u at_ : Nat) : Chan := { ch with unitLast := tput 0 ch.unitLast u at_ }

/-- Soundings of the first command of a request (R230, R448). -/
def Block.firstCmd (b : Block) (e : QEnt) : Block :=
  b.modSnd e.d.owner (fun s => { s with tCmd := some (s.tCmd.getD b.clk.cclk) })

/-- A unit leaves power-down: an exit after an exit that drew an alert counts 2, any other starts again at 0 (R265). -/
def Chan.exited (ch : Chan) (u : Nat) : Chan :=
  { ch with pd := ch.pd.filter (fun v => !(v == u)), pdAlerts := tmod 0 ch.pdAlerts u (fun v => if v == 1 then 2 else 0) }

/-- A row command or power-down exit selected for a request or a close. -/
def Block.rowSelect (b : Block) (c q : Nat) (x : Cand) : Block :=
  let m := x.cmd
  let key := bankKey m.rank m.cid m.bg m.ba
  let sc := if b.ddr4 c then none else some q
  let b := b.charge c m.kind
  let b := b.modChan c (fun ch => ch.used (b.unitOf c m.rank q) m.at_)
  let b := b.modQueue c q (fun k =>
    let bank := tget {} k.banks key
    let bank := match m.kind with
      | .act => { bank with openRow := some m.row, deferred := false, lastCol := m.at_
                            raa := if b.flag 0x0A00 c 1 && !(b.ddr4 c) then bank.raa + 1 else bank.raa }
      | .pre => { bank with openRow := none, deferred := false }
      | _ => bank
    { (k.remember m).record m with banks := tput {} k.banks key bank, selOther := some (b.chan c).ck2 })
  let b := match m.kind with
    | .act => b.countC c 0x01 none none sc 1
    | .pre => b.countC c 0x02 none none sc 1
    | .pdx => b.modChan c (fun ch => ch.exited (b.unitOf c m.rank q))
    | _ => b
  match x.ent with
  | none => b
  | some e =>
    let pre := match m.kind with | .pre => true | _ => false
    let act := match m.kind with | .act => true | _ => false
    (b.modQueue c q (fun k => k.setEnt e.d.id (fun e =>
      { e with first := true, hadPre := e.hadPre || pre, hadAct := e.hadAct || act }))).firstCmd e

/-- A column command selected for a request (R231, R233, R234). -/
def Block.colSelect (b : Block) (c q : Nat) (e : QEnt) (m : Cmd) : Block :=
  let sc := if b.ddr4 c then none else some q
  let k := (b.chan c).queue q
  let p := predict (b.f 0x0900 c 0) k.ctr (tget {} k.banks e.bank) m.row
  let close := !p.2.keep && !(b.rowWanted k e m.row)
  let ap := close && !(b.chan c).gov.short
  let kind := match m.kind with | .wr _ => CmdKind.wr ap | _ => CmdKind.rd ap
  let m := { m with kind := kind }
  let pre : List Cmd := if ap then [{ m with kind := .pre, at_ := b.autoPre c k m, dreq := none }] else []
  let b := b.charge c kind
  let b := b.modChan c (fun ch => ch.used (b.unitOf c m.rank q) m.at_)
  let b := b.modQueue c q (fun k =>
    let bank := { p.2 with openRow := if ap then none else some m.row, deferred := close && !ap, lastCol := m.at_ }
    let k := pre.foldl Queue.remember ((k.remember m).record m)
    let k := { k with banks := tput {} k.banks e.bank bank, ctr := p.1, selCol := some (b.chan c).ck2 }
    let k := if e.writes then { k with sending := k.sending ++ [e.d.id] } else { k with flight := k.flight ++ [e.d.id] }
    k.setEnt e.d.id (fun e => { e with first := true, sel := true }))
  let cls := some e.d.cls
  let rq := some e.d.requester
  let b := b.countC c (if e.writes then 0x04 else 0x03) cls rq sc 1
  let out := if e.hadPre then 3 else if e.hadAct then 2 else 1
  let b := if e.reread then b else b.countC c (0x06 + out) cls rq sc 1
  let b := if ap then b.countC c 0x02 none none sc 1 else b
  let b := if close && !ap then b.countC c 0x18 none none sc 1 else b
  (b.firstCmd e).modSnd e.d.owner (fun s => { s with rowOut := out })

/-- Whether a scheduler may still select a column or another command in this CK/2 cycle (R226). -/
def Block.openSlots (b : Block) (c : Nat) (k : Queue) : Bool × Bool :=
  let now := some (b.chan c).ck2
  if b.ddr4 c then (!(k.selCol == now), !(k.selOther == now))
  else (!(k.selCol == now || k.selOther == now), !(k.selCol == now || k.selOther == now))

/-- The turnover engine, an alert or a fence keeps the scheduler from selecting (R227, R244, R246, R251). -/
def Block.mayselect (b : Block) (c : Nat) : Bool :=
  b.chanServes c && !(b.chan c).turn.stalled && (b.chan c).alert == .none

/-- A queue's scheduler selects in a CK/2 cycle (R226 to R229). -/
def Block.select (b : Block) (c q : Nat) : Block :=
  if !(b.mayselect c) || (b.ddr4 c && !(q == 0)) then b else
  let r := b.direct c ((b.chan c).queue q)
  let b := (b.modQueue c q (fun _ => r.1)).countC c 0x16 none none (if b.ddr4 c then none else some q) r.2
  let k := (b.chan c).queue q
  let free := b.openSlots c k
  let all := (b.reqCands c k).filter (fun x => if x.cmd.kind.column then free.1 else free.2)
  let poor := all.filter (fun x => !(b.affordable c x.cmd.kind))
  let b := if poor.isEmpty then b else b.goShort c
  let closes := if free.2 then b.closeCands c k else []
  let shift := fun (x : Cand) => if b.ddr4 c && (k.selCol == some (b.chan c).ck2 || k.selOther == some (b.chan c).ck2)
    then { x with cmd := { x.cmd with at_ := x.cmd.at_ + 1 } } else x
  match topCand (b.chan c).gov.short ((all.filter (fun x => b.affordable c x.cmd.kind)) ++ closes) with
  | none => b
  | some x =>
    let x := shift x
    let b := if x.overdue then b.countC c 0x17 (x.ent.map (·.d.cls)) none (if b.ddr4 c then none else some q) 1 else b
    match x.ent with
    | some e => if x.cmd.kind.column then b.colSelect c q e x.cmd else b.rowSelect c q x
    | none => b.rowSelect c q x

/-! ### Closes and power-down -/

/-- A row has stayed open for KEEP_OPEN_TIMEOUT (R235): its close is due, and deferred while the channel is energy-short. -/
def Block.keepOpen (b : Block) (c q bank : Nat) : Block :=
  let x := tget {} ((b.chan c).queue q).banks bank
  let n := b.f 0x0900 c 16
  if x.openRow.isSome && !(n == 0) && x.lastCol + n ≤ 2 * (b.chan c).ck2 && !x.deferred then
    let b := b.modQueue c q (fun k => { k with banks := tput {} k.banks bank { x with deferred := true } })
    if (b.chan c).gov.short then b.countC c 0x18 none none (if b.ddr4 c then none else some q) 1 else b
  else b

/-- The units that share a CKE with unit `u` (R263). -/
def Block.ckeMates (b : Block) (c u : Nat) : List Nat :=
  if !(b.ddr4 c) then [u]
  else
    let per := 2 ^ b.f 0x0100 c 6
    if per = 4 then (List.range (b.units c)).filter (fun v => v / 4 == u / 4 && v % 2 == u % 2) else [u]

/-- A unit may enter power-down (R263). -/
def Block.pdReady (b : Block) (c u : Nat) : Bool :=
  let ch := b.chan c
  let idle := b.f 0x0A00 c 16
  !(idle == 0) && decide (tget 0 ch.unitLast u + idle ≤ 2 * ch.ck2) && !ch.turn.stalled && !(ch.pdDisabled.testBit u) &&
    decide (u < b.units c) &&
    !(ch.queues.any (fun k => k.ents.any (fun e => b.unitOf c e.d.coord.rank e.d.coord.sc == u)))

/-- A unit, and on DDR4 every rank that shares its CKE, enters power-down with its open banks precharged. -/
def Block.powerDown (b : Block) (c u : Nat) : Block :=
  let us := b.ckeMates c u
  if b.chanServes c && (b.chan c).alert == .none && us.all (fun v => b.pdReady c v && !((b.chan c).pd.contains v)) then
    let q := if b.ddr4 c then 0 else u % 2
    let rankOf := fun v => if b.ddr4 c then v else v / 2
    us.foldl (fun b v =>
      let k := (b.chan c).queue q
      let open_ := k.banks.filter (fun e => e.1 / 256 == rankOf v && e.2.openRow.isSome)
      let at_ := (b.chan c).slotCk
      let b := b.modQueue c q (fun k =>
        let k := open_.foldl (fun k e => let x := bankCmd e.1 (e.2.openRow.getD 0) at_
          { (k.remember x).record x with banks := tput {} k.banks e.1 { e.2 with openRow := none, deferred := false } }) k
        let x : Cmd := { kind := .pde, rank := rankOf v, at_ := at_ }
        (k.remember x).record x)
      let b := b.countC c 0x02 none none (if b.ddr4 c then none else some q) open_.length
      b.modChan c (fun ch => { ch with pd := ch.pd ++ [v] })) b
  else b

/-! ### One CK/2 cycle -/

/-- What the counters add up in a CK/2 cycle (R441). -/
def Block.cycleCounts (b : Block) (c : Nat) : Block :=
  if !(b.hasSelect (c + 1)) then b else
  let ch := b.chan c
  let one := fun (x : Bool) => if x then 1 else 0
  let b := (List.range 2).foldl (fun b q => (List.range 8).foldl (fun b k =>
    b.countC c 0x11 (some k) none (some q) (((ch.queue q).ents.filter (fun e => e.d.cls == k)).length)) b) b
  let b := b.countC c 0x13 none none none (one ch.gov.short)
  let b := b.countC c 0x14 none none none (one ch.turn.stalled)
  (List.range 2).foldl (fun b q =>
    b.countC c 0x15 none none (some q) ((ch.pd.filter (fun u => b.ddr4 c || u % 2 == q)).length)) b

/-- Either queue has a command that meets every condition but affordability (R271). -/
def Block.poor (b : Block) (c : Nat) : Bool :=
  b.mayselect c && (List.range 2).any (fun q => (b.reqCands c ((b.chan c).queue q)).any (fun x => !(b.affordable c x.cmd.kind)))

/-- A CK/2 cycle of a channel passes: the governor refills, energy shortage starts or ends (R268, R271). -/
def Block.ckCycle (b : Block) (c : Nat) : Block :=
  if !(b.chanServes c) || !b.clk.pll then b else
  let b := b.cycleCounts c
  let b := b.govCycle c
  let b := b.modChan c (fun ch => { ch with ck2 := ch.ck2 + 1 })
  let b := b.endShort c
  let b := if b.governed c && b.poor c then b.goShort c else b
  let b := if b.chanMw c == 0 && (b.chan c).gov.short then
      b.modChan c (fun ch => { ch with gov := { ch.gov with shortSince := b.clk.ns } }) else b
  b.dropPrefetches c

end Sys2Proof.Machine
end

