-- ==== Sys2Proof/Machine/Engines.lean ====
section
/-! DEFINITION. What the engines of long packets do by themselves once they may: the sparing copier (R349, R350), POND_WIPE and
POND_REBUILD (R170, R339), preload, unlock and range work of the cache (R374, R377), and relocking (R376). -/

namespace Sys2Proof.Machine

/-- The long packet with this opcode that is in progress. -/
def Block.op? (b : Block) (opcode : Nat) : Option LongOp := b.pkts.ops.find? (fun o => o.pkt.opcode.toNat == opcode)

/-- The long packets with this opcode changed. -/
def Block.modOp (b : Block) (opcode : Nat) (g : LongOp → LongOp) : Block :=
  { b with pkts := { b.pkts with ops := b.pkts.ops.map (fun o => if o.pkt.opcode.toNat == opcode then g o else o) } }

/-- One long packet in progress changed. -/
def Block.setOp (b : Block) (o : LongOp) (g : LongOp → LongOp) : Block :=
  { b with pkts := { b.pkts with ops := b.pkts.ops.map (fun x => if x == o then g x else x) } }

/-- Block ranges of packets: the first block and BLOCK_COUNT (R133). -/
def rangeFirst (p : Packet) : Nat := pP0 p 0 38

/-- BLOCK_COUNT. -/
def rangeCount (p : Packet) : Nat := pBody p 0 6 % 2 ^ 38

/-! ### The sparing copier (R349, R350) -/

/-- The pond and block that a place holds, a draining pond's old placement first. -/
def Block.heldAt (b : Block) (x : Coord) : Option (Nat × Nat × Bool) :=
  let old := b.ponds.findSome? (fun e => e.2.draining.findSome? (fun d =>
    (placeEncode b.cfg d.1 x).map (fun rel => (e.1, d.1.first + rel / 64, true))))
  old.or ((blockAt b.cfg x).map (fun e => (e.1, e.2, false)))

/-- The copier goes on to its next column: a block of an unwritten tile, or a place that no pond holds, is not read. -/
def Block.copyStep (b : Block) (c : Nat) : Option Block :=
  match (b.chan c).copy with
  | none => none
  | some k =>
    if k.busy || 2 ^ (geoOf b.cfg c).colb ≤ k.col || !(b.pkts.ops.any (fun o => o.pkt.opcode == 0x80 && pP0 o.pkt 0 3 == c)) then none
    else ((b.chan c).cam.find? (fun e => e.idx == k.idx)).map (fun e =>
      let x : Coord := { chan := c, sc := e.sc, rank := e.rank, cid := e.cid, bg := e.bg, ba := e.ba, row := e.row, col := k.col }
      let skip := b.modChan c (fun ch => { ch with copy := some { k with mask := setBit k.mask k.col, col := k.col + 1 } })
      match b.heldAt x with
      | none => skip
      | some (p, blk, old) =>
        if !old && !(b.written p blk) then skip
        else (b.modChan c (fun ch => { ch with copy := some { k with busy := true } })).issue
          { id := 0, kind := .copyRead, requester := 0xF3, tag := 0, cls := b.f 0x0D00 c 8, blk := blk, pond := p })

/-! ### POND_WIPE and POND_REBUILD (R170, R339) -/

/-- The recorded preload ranges of a pond are removed (R379). -/
def Block.dropRanges (b : Block) (p : Nat) : Block :=
  let pl := b.place p
  { b with preloads := b.preloads.filter (fun e => !(pl.first ≤ e.2.first && e.2.first < pl.stop)) }

/-- WF_READY is cleared and the walk restarts at block 0 (R346). -/
def Block.restartWalk (b : Block) (p : Nat) : Block :=
  { b with dredge := tmod {} b.dredge p (fun w => { passes := w.passes, passStart := b.blockTime }) }

/-- Step 2 of R170 and R339: the pond's lines are discarded. -/
def Block.emptyPond (b : Block) (p : Nat) : Block := ((b.discardPond p).dropRanges p).restartWalk p

/-- Every block of pond `p` is to be written by the fill engine, under this opcode. -/
def Block.wholeJob (b : Block) (o : LongOp) (p : Nat) (poison : Bool) : Block :=
  let pl := b.place p
  { b with jobs := b.jobs ++ [{ opcode := o.pkt.opcode.toNat, pond := p, first := pl.first, next := pl.first, stop := pl.stop,
                                poison := poison, started := o.started }] }

/-- Steps 2 and 3 of R339, once the pond is quiet. -/
def Block.wipeStep (b : Block) (o : LongOp) : Option Block :=
  let p := o.n
  if !(o.next == 0) || !(b.pondQuiet p) then none else
  let ways := ((List.range 16).filter (fun w => b.wayMode w == 2)).length
  let b := b.setOp o (fun o => { o with next := 1, m := if p == 63 then ways * 2 ^ 14 else b.f 0x0300 p 16 * 2 ^ 22 })
  some (if p == 63 then b.onCache (fun k => { k with scratch := [], scratchPoison := [] })
    else
      let b := b.emptyPond p
      if (b.place p).writeFirst then b.wholeJob o p false else b.clearTiles p)

/-- Members of a set that a rebuild excludes: fenced, failed, or not in use (R170); state 1 counts as failed (R391). -/
def Block.deadMembers (b : Block) (set : Nat) : Nat :=
  (maskList (setMask b.cfg set)).foldl (fun m c =>
    if [1, 5, 7].contains (b.chan c).state || !(b.inUse c) then m + 2 ^ c else m) 0

/-- Steps 3 and 4 of R170: the pond record with the EXCLUDE_MASK and SIZE that the clamp checker leaves. -/
def Block.rebuildCheck (b : Block) (p : Nat) : Chk :=
  let set := b.f 0x0300 p 32
  let dead := b.deadMembers set
  let t := cfgSet b.cfg 0x0300 p 112 dead
  let t := if dead == setMask b.cfg set then cfgSet t 0x0300 p 16 0 else t
  runChecks b { live := b.cfg, real := b.cfg, new := t, carried := [(0x0300, p)], rebuild := some p } false

/-- Steps 2 to 5 of R170, once the pond is quiet. -/
def Block.rebuildStep (b : Block) (o : LongOp) : Option Block :=
  let p := o.n
  if !(o.next == 0) || !(b.pondQuiet p) then none else
  let k := b.rebuildCheck p
  let size := b.f 0x0300 p 16
  let set := b.f 0x0300 p 32
  let none_ : List RepEnt := if b.deadMembers set == setMask b.cfg set then [⟨0x0300, p, 16, 4, size, 0⟩] else []
  let b := b.setOp o (fun o => { o with next := 1, report := none_ ++ k.rep })
  let b := { (b.emptyPond p).clearTiles p with cfg := k.new }
  some (if !(pondOn b.cfg p) then b
    else if (b.place p).writeFirst then b.wholeJob o p true else b.clearTiles p)

/-! ### Preload (R374, R376) -/

/-- The slot of a block in a way. -/
def slotIn (blk w : Nat) : Nat := 16 * setOf blk + w

/-- A range may be worked: it lies in one enabled, cached pond that is not lost (R374). -/
def Block.loadable (b : Block) (blk : Nat) : Option Nat :=
  match pondOf b.cfg blk with
  | none => none
  | some p => if policyOf b.cfg p == 0 || (b.pondRt p).lost || p == 63 then none else some p

/-- One block of a preload: none while it must wait; otherwise 0 skipped or fetched, 1 loaded with zeros, 2 moved. `tag` is the way,
plus 16 for a relock. -/
def Block.preloadOne (b : Block) (blk p w tag : Nat) : Option (Block × Nat) :=
  let key := slotIn blk w
  if (aget b.cache.lines key).isSome then some (b, 0)
  else if b.reserved key || b.cache.fills.any (fun f => f.blk == blk) then none
  else match b.cache.lookup blk with
    | some (at_, l) =>
      let free := match at_ with
        | .way k => b.wayMode (k % 16) == 0
        | .sh _ => true
      if free then some (b.onCache (fun k => (k.dropLine at_).putLine (.way key) l), 2) else some (b, 0)
    | none =>
      if !(b.written p blk) then some (b.onCache (fun k => k.putLine (.way key) { blk := blk, data := 0 }), 1)
      else if 512 ≤ b.cache.fills.length then none
      else some (b.issueFill blk p 0xF2 0 b.wbClass (some key) [] none (some tag) false, 0)

/-- The way that a packet names. -/
def wayOf (p : Packet) : Nat := pBody p 6 2 % 16

/-- CACHE_PRELOAD goes on by one block. A cache that is off, or a pond that goes away, ends it. -/
def Block.preloadStep (b : Block) (o : LongOp) : Option Block :=
  let count := rangeCount o.pkt
  let blk := rangeFirst o.pkt + o.next
  if count ≤ o.next then none
  else match (if b.cacheOn then b.loadable blk else none) with
    | none => some (b.setOp o (fun o => { o with next := count }))
    | some p => (b.preloadOne blk p (wayOf o.pkt) (wayOf o.pkt)).map (fun x =>
        x.1.setOp o (fun o => { o with next := o.next + 1, n := o.n + min x.2 1 }))

/-- Relocking goes on by one block, or to the next range (R376). -/
def Block.relockStep (b : Block) : Option Block :=
  match b.cache.relock with
  | none => none
  | some k =>
    let i := k / 2 ^ 38
    let off := k % 2 ^ 38
    if 64 ≤ i || b.drain || !b.serving then none
    else match aget b.preloads i with
      | none => some (b.onCache (fun c => { c with relock := some ((i + 1) * 2 ^ 38) }))
      | some r =>
        match (if r.count ≤ off || !b.cacheOn || !(b.wayMode r.way == 1) then none else b.loadable (r.first + off)) with
        | none => some (b.onCache (fun c => { c with relock := some ((i + 1) * 2 ^ 38), relockRuns := c.relockRuns + 1 }))
        | some p => (b.preloadOne (r.first + off) p r.way (16 + r.way)).map (fun x => x.1.onCache (fun c => { c with
            relock := some (k + 1), relockLoaded := c.relockLoaded + (if x.2 = 1 then 1 else 0)
            relockMoved := c.relockMoved + (if x.2 = 2 then 1 else 0) }))

/-! ### Unlock and ranges (R374, R377) -/

/-- CACHE_UNLOCK moves its next block into a normal way, as an allocation, or waits for the shallows. -/
def Block.unlockStep (b : Block) (o : LongOp) : Option Block :=
  match o.blks with
  | [] => none
  | blk :: t =>
    let past := fun (b : Block) (n : Nat) => some (b.setOp o (fun o => { o with blks := t, n := o.n + n }))
    match b.cache.lookup blk with
    | some (.way key, l) =>
      if !(b.wayMode (key % 16) == 1) then past b 0
      else if b.stalls (setOf blk) then none
      else match (b.onCache (fun k => k.dropLine (.way key))).allocate (setOf blk) with
        | some (b', some slot) => past (b'.onCache (fun k => k.putLine (.way slot) l)) 1
        | _ => none
    | _ => past b 0

/-- A line is dropped; an emptied slot of a locked way is counted. -/
def Block.dropCounted (b : Block) (at_ : Loc) : Block × Nat :=
  let locked := match at_ with
    | .way key => b.wayMode (key % 16) == 1
    | .sh _ => false
  (b.onCache (fun k => k.dropLine at_), if locked then 1 else 0)

/-- CACHE_RANGE goes on with one of the blocks that it has written back; `detail` is its action. -/
def Block.rangeStep (b : Block) (o : LongOp) : Option Block :=
  o.blks.findSome? (fun blk =>
    let past := fun (b : Block) (m : Nat) =>
      some (b.setOp o (fun o => { o with blks := o.blks.filter (fun x => !(x == blk)), m := o.m + m }))
    match b.cache.lookup blk with
    | none => past b 0
    | some (at_, l) =>
      if l.dirty then (if l.wb.isNone then some (b.issueWb at_ l) else none)
      else if o.detail == 2 then
        let x := b.dropCounted at_
        past x.1 x.2
      else past b 0)

/-! ### All engines -/

/-- The engine of a long packet goes on by one step, where it can. -/
def Block.opStep (b : Block) (o : LongOp) : Option Block :=
  match o.pkt.opcode.toNat with
  | 0x30 => b.rebuildStep o
  | 0x32 => b.wipeStep o
  | 0x40 => b.preloadStep o
  | 0x42 => b.unlockStep o
  | 0x43 => b.rangeStep o
  | _ => none

/-- One step of some engine. -/
def Block.engineStep (b : Block) : Option Block :=
  match (List.range 8).findSome? b.copyStep with
  | some b' => some b'
  | none => match b.pkts.ops.findSome? b.opStep with
    | some b' => some b'
    | none => b.relockStep

/-- The engines go on while they can. -/
def Block.pumpEngines : Nat → Block → Block
  | 0, b => b
  | n + 1, b =>
    match b.engineStep with
    | none => b
    | some b' => Block.pumpEngines n b'

end Sys2Proof.Machine
end

