-- ==== Sys2Proof/Machine/Inlet.lean ====
section
/-! DEFINITION. Memory requests on the inlets (R44 to R52, R80 to R111): credits, ingress, order, FENCE, CANCEL and
responses, and the settling of what waits after each command. -/

namespace Sys2Proof.Machine

/-! ### Stage 4 -/

/-- The request is cacheable (R356): its pond is enabled and cached, and the cache is on. -/
def Block.cacheable (b : Block) (p : Nat) : Bool := b.cacheOn && pondOn b.cfg p && !(policyOf b.cfg p == 0)

/-- Stage 4: scratch ways, the cache, or the channel of an uncached pond (R153, R356). -/
def Block.stage4 (b : Block) (r : Req) (f : SramFault) : Block :=
  let p := r.pond.getD 63
  if p == 63 then b.serveScratch r f
  else if b.cacheable p then b.lookup r f false
  else (b.modSnd (some r.id) (fun s => { s with tLookup := some b.clk.cclk })).toChannel r

/-! ### Stages 2 and 3 -/

/-- A WRITE_PARTIAL whose mask is zero: it completes OK without touching the block (R98). -/
def Req.idle (r : Req) : Bool := r.op == .writePartial && r.mask == 0

/-- The write kinds. -/
def Req.isWrite (r : Req) : Bool := r.op == .writeFull || r.op == .writePartial

/-- The base cost of an operation (R80). -/
def Op.cost : Op → Nat
  | .read | .writeFull => 64
  | .writePartial => 128
  | .cancel | .fence => 0

/-- After stage 3: reads of unwritten tiles and empty writes complete, and the rest go on (R87, R98, R332). -/
def Block.after3 (b : Block) (r : Req) (f : SramFault) : Block :=
  let p := r.pond.getD 63
  if r.op == .read && !(p == 63) && !(b.written p r.blk) then b.finish r.id stUnwritten (some 0)
  else if r.idle then b.finish r.id (r.good stOk) none
  else b.stage4 r f

/-- Stage 3: the policer, which the debug port does not pass (R26, R109, R174 to R176). -/
def Block.stage3 (b : Block) (r : Req) (f : SramFault) : Block :=
  match r.inlet with
  | none => b.after3 r f
  | some i =>
    let x := b.police r.requester i.val r.cls r.op.cost
    let pol := polOf b.cfg r.requester
    let served := servedClass pol r.cls x.2
    let b := x.1.modReq r.id (fun r => { r with
      colour := x.2, coloured := true, served := served, snd := { r.snd with tPolice := some b.clk.cclk } })
    let r := { r with colour := x.2, coloured := true, served := served }
    if x.2 = .red then b.finish r.id stThrottled none
    else if b.drain && 2 ≤ served then b.finish r.id stShed none
    else b.after3 r f

/-- A write to an unwritten tile waits on its fill (R333); anything else goes to stage 3. -/
def Block.stage2t (b : Block) (r : Req) (f : SramFault) : Block :=
  let p := r.pond.getD 63
  if r.isWrite && !r.idle && !(p == 63) && !(b.written p r.blk) then
    let t := b.tile p r.blk
    (b.wantTile p t r.cls none).stageTo r.id (.tile t)
  else b.stage3 r f

/-- A request has passed the ordering point (R24, R93, R217): it has completed, or is a read that its queue holds or
that has joined its fill. -/
def Block.passed (b : Block) (r : Req) : Bool :=
  match r.stage with
  | .ready => true
  | .joined => r.op == .read
  | .chan => r.op == .read &&
    (match b.findDReq (fun d => d.owner == some r.id) with
     | none => true
     | some (_, _, .queue _ e) => !e.held
     | some _ => false)
  | _ => false

/-- The requests taken before this one. -/
def Block.before (b : Block) (id : Nat) : List Req := b.reqs.takeWhile (fun r => !(r.id == id))

/-- An earlier request of the requester to the block has not passed the ordering point (R93). -/
def Block.ordered? (b : Block) (r : Req) : Bool :=
  (b.before r.id).any (fun x => x.requester == r.requester && x.blk == r.blk && (x.isWrite || x.op == .read) && !(b.passed x))

/-- Steps 8 to 12 of R87: the status that refuses the request, or its pond. -/
def Block.steps8to12 (b : Block) (r : Req) : Nat ⊕ Nat :=
  if b.drain && 2 ≤ r.cls then .inl stShed
  else match pondOf b.cfg r.blk with
    | none => .inl stAddressInvalid
    | some p =>
      let rt := b.pondRt p
      if rt.lost || rt.marked then .inl stPondLost
      else if r.inlet.isSome && (b.access r.requester p == 0 || (r.isWrite && !(b.access r.requester p == 2))) then
        .inl stAccessDenied
      else if r.isWrite && b.flag 0x0300 p 48 then .inl stWriteProtected
      else .inr p

/-- Stage 2. -/
def Block.stage2 (b : Block) (r : Req) (f : SramFault) : Block :=
  match b.steps8to12 r with
  | .inl st => b.finish r.id st none
  | .inr p =>
    let b := b.modReq r.id (fun r => { r with pond := some p })
    let r := { r with pond := some p }
    if b.ordered? r then b.stageTo r.id .order else b.stage2t r f

/-! ### CANCEL (R102 to R104) -/

/-- The request waits no more for a fill slot or the shallows head. -/
def Block.unwait (b : Block) (id : Nat) : Block :=
  b.onCache (fun k => { k with
    waitFill := k.waitFill.filter (fun x => !(x == id)), waitVictim := k.waitVictim.filter (fun x => !(x == id)) })

/-- A request that joined a line fill leaves it; the fill goes too when no one else waits on it. -/
def Block.leaveFill (b : Block) (id : Nat) : Block × Bool :=
  match b.cache.fills.find? (fun f => f.waiters.contains id) with
  | none => (b, false)
  | some f =>
    let started := match b.findDReq (fun d => d.id == f.id) with
      | some (_, _, .queue _ e) => e.first || e.sel
      | some _ => false
      | none => true
    if started then (b, false)
    else if f.waiters == [id] && !f.prefetch && f.preload.isNone then
      ((b.onCache (fun k => { k with fills := k.fills.filter (fun g => !(g.id == f.id)) })).withdraw f.id |>.1, true)
    else
      (b.onCache (fun k => { k with fills := k.fills.map (fun (g : LineFill) =>
        if g.id == f.id then { g with waiters := g.waiters.filter (fun x => !(x == id)) } else g) }), true)

/-- A CANCEL reaches its target; the answer says that it was removed. -/
def Block.removeReq (b : Block) (r : Req) : Block × Bool :=
  let gone := fun (x : Block × Bool) => if x.2 then (x.1.finish r.id stCancelled none, true) else (b, false)
  match r.stage with
  | .ready => (b, false)
  | .chan =>
    match b.findDReq (fun d => d.owner == some r.id) with
    | none => (b, false)
    | some (_, d, _) => gone (b.withdraw d.id)
  | .joined => gone (b.leaveFill r.id)
  | _ => gone (b.unwait r.id, true)

/-- The CANCEL of request `id` with this target tag takes effect (R102). -/
def Block.cancel (b : Block) (id requester target : Nat) : Block :=
  match b.reqs.find? (fun r => r.requester == requester && r.tag == target && r.tracked && !(r.op == .cancel) && !(r.id == id)) with
  | none => b.finish id stOk none
  | some t =>
    let x := b.removeReq t
    (x.1.modReq id (fun r => { r with cancelHit := x.2 })).finish id stOk none

/-! ### Ingress (R87 steps 1 to 7) -/

/-- Requests of a requester that count toward its cap (R91). -/
def Block.outstanding (b : Block) (rq : Nat) : Nat := (b.reqs.filter (fun r => r.counted && r.requester == rq)).length

/-- The slot is bound to this inlet. -/
def Block.boundTo (b : Block) (slot inlet : Nat) : Bool :=
  match (b.slot slot).attach with
  | .att i _ => i.val == inlet
  | _ => false

/-- The first check of steps 1 to 7 that fails: its step, status and reason code. -/
def Block.steps1to7 (b : Block) (i : Nat) (h : Hdr) : Option (Nat × Nat × Nat) :=
  if !h.parityOk then some (1, stBadRequest, 1)
  else if 4 < h.op then some (2, stBadRequest, 2)
  else if 128 ≤ h.requester || b.level h.requester == 0 then some (3, stBadRequest, 3)
  else if !(b.boundTo h.requester i) then some (4, stBadRequest, 4)
  else if b.level h.requester < h.level then some (5, stUnsupported, 0)
  else if b.reqs.any (fun r => r.tracked && r.requester == h.requester && r.tag == h.tag) then some (6, stBadRequest, 5)
  else if !(h.op == 3) && b.f 0x0401 h.requester 0 ≤ b.outstanding h.requester then some (7, stBadRequest, 6)
  else none

/-- The request that a header spells, taken now. -/
def Block.newReq (b : Block) (i : Fin 4) (h : Hdr) (data : Block512) (mask : BitVec 64) : Req :=
  let op := (Op.ofCode h.op).getD .read
  { id := b.nextId, inlet := some i, op := op, requester := h.requester, tag := h.tag, cls := h.cls, served := h.cls,
    blk := if op == .cancel then h.addr % 2 ^ 11 else h.addr, data := data, mask := mask, noAlloc := h.noAlloc,
    stage := .fenceHeld, takenAt := b.clk.cclk }

/-- An earlier FENCE of the requester holds the request (R101). -/
def Block.fenced (b : Block) (r : Req) : Bool :=
  (b.before r.id).any (fun x => x.requester == r.requester && x.stage == .fencing)

/-- A request that passed steps 1 to 7 goes on. -/
def Block.admitReq (b : Block) (r : Req) (f : SramFault) : Block :=
  if f == .header then (b.parity 0 r.requester r.tag 0).finish r.id stErrorInternal none
  else match r.op with
    | .cancel => b.cancel r.id r.requester r.blk
    | .fence => b.stageTo r.id .fencing
    | _ =>
      let bad := f == .data && r.isWrite
      let b := if bad then (b.parity 0 r.requester r.tag 1).modReq r.id (fun r => { r with status := stErrorInternal }) else b
      let r := if bad then { r with status := stErrorInternal } else r
      if b.fenced r then b else b.stage2 r f

/-- A request is taken (R45, R87, R446). -/
def Block.take (b : Block) (i : Fin 4) (h : Hdr) (data : Block512) (mask : BitVec 64) (f : SramFault) : Block :=
  let b := b.modInlet i.val (fun n => { n with reqCred := n.reqCred - (if n.reqVoid then 0 else 1) })
  let b := b.count 0x01 (some h.cls) (some h.requester) 1
  let r := b.newReq i h data mask
  let s := if h.parityOk && h.op ≤ 2 then b.sample r.op h.cls h.force else (b, false, false)
  let r := { r with snd := { sampled := s.2.1, forced := s.2.2 } }
  let b := { s.1 with nextId := b.nextId + 1 }
  match b.steps1to7 i.val h with
  | some (step, st, reason) =>
    let r := { r with tracked := step == 5 || step == 7, dup := step == 6 }
    let b := { b with reqs := b.reqs ++ [r] }.finish r.id st none
    if reason == 0 then b else b.event 0x2B [(1, i.val), (1, h.requester), (1, reason), (2, h.tag)]
  | none =>
    let r := { r with tracked := true, counted := !(r.op == .cancel) }
    { b with reqs := b.reqs ++ [r] }.admitReq r f

/-- A request is presented without a credit: it is discarded, with event 0x2E (R51). -/
def Block.violation (b : Block) (i kind rq tag : Nat) : Block := b.event 0x2E [(1, i), (1, kind), (1, rq), (2, tag)]

/-- The cclk in which VOID rises and the next (R50). -/
def Inlet.grace (n : Inlet) (now : Nat) : Bool := n.reqVoid && now ≤ n.reqVoidAt + 1

/-- One beat on an inlet (R45, R47, R50, R51). -/
def Block.present (b : Block) (i : Fin 4) (h : Hdr) (data : Block512) (mask : BitVec 64) (f : SramFault) : Block :=
  let n := b.inlet i.val
  if !b.clk.pll then b
  else if b.serving && ((!n.reqVoid && 0 < n.reqCred) || n.grace b.clk.cclk) then b.take i h data mask f
  else if n.grace b.clk.cclk then b
  else b.violation i.val 0 h.requester h.tag

/-! ### Settling -/

/-- A waiting miss may look up again: its turn has come, or its block is there now (R359, R360, R365). -/
def Block.retries (b : Block) (r : Req) : Bool :=
  let there := (b.cache.lookup r.blk).isSome || b.cache.fills.any (fun f => f.blk == r.blk) || b.drain || b.cache.disabling.isSome
  match r.stage with
  | .fillSlot => there || (b.cache.waitFill.head? == some r.id && b.cache.fills.length < 512)
  | .victim => there || (match b.pick (setOf r.blk) with
      | .victim _ _ => b.cache.room && b.cache.waitVictim.head? == some r.id
      | _ => true)
  | _ => false

/-- A miss that no longer needs a victim leaves that line. -/
def Block.unwaitIfThere (b : Block) (r : Req) : Block :=
  match b.pick (setOf r.blk) with
  | .victim _ _ => b
  | _ => b.unwait r.id

/-- The next request that need wait no longer goes on (R93, R101, R333, R359, R365). -/
def Block.releaseReq (b : Block) : Option Block :=
  b.reqs.findSome? (fun r =>
    match r.stage with
    | .fenceHeld => if b.fenced r then none else some (b.stage2 r .clean)
    | .order => if b.ordered? r then none else some (b.stage2t r .clean)
    | .tile _ => if b.written (r.pond.getD 63) r.blk then some (b.stage3 r .clean) else none
    | .fillSlot => if b.retries r then some (b.lookup r .clean true) else none
    | .victim => if b.retries r then some ((b.unwaitIfThere r).lookup r .clean true) else none
    | _ => none)

/-- What waits is released until nothing more can go on. -/
def Block.settleN : Nat → Block → Block
  | 0, b => b
  | n + 1, b =>
    match b.releaseReq with
    | some b' => Block.settleN n b'
    | none => match b.releaseOne with
      | some b' => Block.settleN n b'
      | none => b

/-- The request VOID of an inlet that holds no request falls, outside DORMANT entry: after an entry that was abandoned (R48). -/
def Block.lowerIdle (b : Block) : Block :=
  if b.serving && b.dorm == .none then
    { b with inlets := (b.inlets.zipIdx).map (fun e =>
        if e.1.reqVoid && !(b.reqs.any (fun r => r.inlet.map (·.val) == some e.2)) then { e.1 with reqVoid := false, reqCred := 512 }
        else e.1) }
  else b

/-- DORMANT entry has completed its requests: dirty lines that no writeback serves are written back (R383, R400). -/
def Block.dormFlush (b : Block) : Block :=
  match b.dorm with
  | .entering _ =>
    if b.reqs.isEmpty then
      (b.cache.lines.filter (fun e => e.2.dirty && e.2.wb.isNone)).foldl (fun (b : Block) e => b.issueWb (.way e.1) e.2) b
    else b
  | _ => b

/-- After a command: the engines issue, what waits is released, draining ponds and queue records are closed out. -/
def Block.settle (b : Block) : Block :=
  let b := (b.pumpEngines 600).pumpFill 300
  let b := b.settleN (8 * b.reqs.length + 512)
  let b := (b.pumpEngines 600).pumpFill 300
  ((b.dormFlush.endDrains).drainHold).lowerIdle

/-- A command's effect, settled. -/
def State.does (s : State) (g : Block → Block) : Host.Outcome State Fault Refusal := s.run (fun b => (g b).settle)

/-! ### The commands of the inlets -/

/-- READ (R94). -/
def execRead (i : Fin 4) (h : ReqHdr) (f : SramFault) (s : State) : Host.Outcome State Fault Refusal :=
  s.does (fun b => b.present i (hdrOf .read h) 0 0 f)

/-- WRITE_FULL (R95). -/
def execWriteFull (i : Fin 4) (h : ReqHdr) (data : Block512) (f : SramFault) (s : State) : Host.Outcome State Fault Refusal :=
  s.does (fun b => b.present i (hdrOf .writeFull h) data 0 f)

/-- WRITE_PARTIAL (R98). -/
def execWritePartial (i : Fin 4) (h : ReqHdr) (data : Block512) (mask : BitVec 64) (f : SramFault) (s : State) :
    Host.Outcome State Fault Refusal := s.does (fun b => b.present i (hdrOf .writePartial h) data mask f)

/-- CANCEL (R102). -/
def execCancel (i : Fin 4) (h : ReqHdr) (s : State) : Host.Outcome State Fault Refusal :=
  s.does (fun b => b.present i (hdrOf .cancel h) 0 0 .clean)

/-- FENCE (R101). -/
def execFence (i : Fin 4) (h : ReqHdr) (s : State) : Host.Outcome State Fault Refusal :=
  s.does (fun b => b.present i (hdrOf .fence h) 0 0 .clean)

/-- A FENCE completes once every earlier request of its requester has (R101). -/
def Block.fenceDone (b : Block) (rq tag : Nat) : Block :=
  match b.reqs.find? (fun r => r.requester == rq && r.tag == tag && r.stage == .fencing) with
  | none => b
  | some r =>
    if (b.before r.id).all (fun x => !(x.requester == rq) || x.stage == .ready) then b.finish r.id stOk none else b

/-- FENCE_COMPLETE. -/
def execFenceComplete (requester : BitVec 8) (tag : BitVec 11) (s : State) : Host.Outcome State Fault Refusal :=
  s.does (fun b => b.fenceDone requester.toNat tag.toNat)

/-- REQUEST_FRAMING: any 128-bit header, parity as presented (R83, R87). -/
def execRequestFraming (i : Fin 4) (hdr : BitVec 128) (data : Block512) (mask : BitVec 64) (s : State) :
    Host.Outcome State Fault Refusal := s.does (fun b => b.present i (parseHdr hdr) data mask .clean)

/-- A request beat for which the fabric holds no credit (R51). -/
def Block.noCredit (b : Block) (i : Fin 4) (h : Hdr) : Block :=
  let n := b.inlet i.val
  if b.clk.pll && !(n.grace b.clk.cclk) && (n.reqVoid || n.reqCred == 0 || !b.serving) then b.violation i.val 0 h.requester h.tag
  else b

/-- INLET_CREDIT_VIOLATION. -/
def execInletCreditViolation (i : Fin 4) (hdr : BitVec 128) (s : State) : Host.Outcome State Fault Refusal :=
  s.run (fun b => b.noCredit i (parseHdr hdr))

/-! ### Responses -/

/-- The Grenel level that a response is formed for (R85). -/
def Block.rspLevel (b : Block) (rq : Nat) : Nat :=
  match (b.slot rq).attach with
  | .att _ l => l
  | .detaching _ l => l
  | .free => 1

/-- A ready response may be presented: no earlier request of its requester to its block is still to be answered (R93),
and a CANCEL follows the target it removed (R103). -/
def Block.presentable (b : Block) (r : Req) : Bool :=
  r.stage == .ready &&
    (if r.op == .cancel then
       !(r.cancelHit && b.reqs.any (fun x => x.requester == r.requester && x.tag == r.blk && x.status == stCancelled && x.stage == .ready))
     else if r.op == .fence || !r.counted then true
     else !((b.before r.id).any (fun x => x.counted && x.requester == r.requester && x.blk == r.blk && (x.isWrite || x.op == .read))))

/-- The ready responses of an inlet, in the order in which their requests were taken. -/
def Block.readyOn (b : Block) (i : Nat) : List Req :=
  b.reqs.filter (fun r => r.inlet.map (·.val) == some i && b.presentable r)

/-- A response with the fault that its internal data or header met (R106, R303). -/
def Req.faulted (r : Req) (f : SramFault) : Req :=
  match f with
  | .clean => r
  | .data => if r.rdata.isSome then { r with status := stErrorInternal, rdata := none } else r
  | _ => { r with status := stErrorInternal, rdata := none }

/-- A response is presented (R45, R49, R52, R85, R86, R447). -/
def Block.respond (b : Block) (i k : Nat) (f : SramFault) : Block :=
  let n := b.inlet i
  match (b.readyOn i)[k]? with
  | none => b
  | some r0 =>
    if n.rspCred == 0 || !b.clk.pll then b else
    let r := r0.faulted f
    let b := if f == .clean || r.status == r0.status then b
      else b.parity 0 r.requester r.tag (if f == .data then 3 else 0)
    let lat := b.clk.cclk - r.takenAt
    let lvl := if r.requester < 128 then b.rspLevel r.requester else 1
    let rsp := (rspHeader lvl r lat, r.rdata.getD 0)
    let b := b.countResponse r lat
    let b := if r.snd.sampled then b.pushSnd (soundRecord r b.ctr.cycle0 b.clk.cclk) else b
    let b := { b with reqs := b.reqs.filter (fun x => !(x.id == r.id)) }
    b.modInlet i (fun n => { n with
      rspCred := n.rspCred - 1, lastRsp := some rsp, reqCred := if n.reqVoid then 0 else min 512 (n.reqCred + 1) })

/-- RESPONSE_PRESENT: the `k`-th ready response of an inlet. -/
def execResponsePresent (i : Fin 4) (k : Nat) (f : SramFault) (s : State) : Host.Outcome State Fault Refusal :=
  s.does (fun b => b.respond i.val k f)

/-- A response credit is granted; one above the limit is ignored (R52). -/
def Block.grantRsp (b : Block) (i : Nat) : Block :=
  if (b.inlet i).rspCred < 1023 then b.modInlet i (fun n => { n with rspCred := n.rspCred + 1 })
  else b.violation i 1 0 0

/-- RESPONSE_CREDIT_GRANT. -/
def execResponseCreditGrant (i : Fin 4) (s : State) : Host.Outcome State Fault Refusal := s.run (fun b => b.grantRsp i.val)

end Sys2Proof.Machine
end

