-- ==== Sys2Proof/Machine/Reads.lean ====
section
/-! DEFINITION. Read data and its decode (R282 to R304, R344, R345), the merge of read-modify-write, and write data sent. -/

namespace Sys2Proof.Machine

/-! ### Decode of a burst -/

/-- The retired device of a rank unit (R292). -/
def Block.retired (b : Block) (c u : Nat) : Option Nat :=
  let v := b.f 0x0C01 c (8 * u)
  if v == 0 then none else some (v - 1)

/-- The rank unit of coordinates. -/
def Block.unit (b : Block) (x : Coord) : Nat := b.unitOf x.chan x.rank x.sc

/-- A burst descrambled and decoded for a request (R281 to R290, R300). -/
def Block.decode (b : Block) (d : DReq) (raw : BitVec 640) : Decode :=
  let c := d.coord.chan
  let y := b.layout c
  let slot := b.keySlot d.pond d.blk
  let x := scramble (b.keys.getD slot 0) d.blk raw &&& usedBits y
  decodeGrid y d.blk slot (b.retired c (b.unit d.coord)) x

/-- Coordinates as CORRECTED and REBUILT list them (R304). -/
def Coord.fields (x : Coord) : List (Nat × Nat) :=
  [(1, x.sc), (1, x.rank), (1, x.cid), (1, x.bg), (1, x.ba), (4, x.row), (1, x.col)]

/-! ### Rebuild counts and retirement (R288, R289) -/

/-- The order of the layouts in R278. -/
def Layout.code : Layout → Nat
  | .g5x4 => 0 | .g5x8 => 1 | .g4x4 => 2 | .g4x8 => 3

/-- DEVICE_RETIRED (R304). -/
def Block.retireEvent (b : Block) (c u dev start : Nat) (written : Bool) : Block :=
  let sc := if b.ddr4 c then 0 else u % 2
  let rank := if b.ddr4 c then u else u / 2
  b.event (chanCode c 3) [(1, sc), (1, rank), (1, dev), (1, (b.layout c).code), (8, twos 8 ((start : Int) + b.net.blkOff)),
    (1, if written then 1 else 0)]

/-- A rebuild is offered to the count of its device, which a count of 16 retires (R288, R289). The answer is the count after it and,
where the device was retired, the start of its window. -/
def Block.offer (b : Block) (x : Coord) (dev blk : Nat) : Block × Nat × Option Nat :=
  let u := b.unit x
  let key := 16 * u + dev
  let w := b.f 0x0C00 0 16
  let n := tget {} (b.chan x.chan).rebuilds key
  let n := if !(w == 0) && !(n.count == 0) && w * 10 ^ 9 ≤ b.clk.ns - n.start then { n with count := 0 } else n
  if !(n.count == 0) && n.last == blk then
    (b.modChan x.chan (fun ch => { ch with rebuilds := tput {} ch.rebuilds key n }), n.count, none)
  else
    let n : Rebuild := { count := n.count + 1, start := if n.count == 0 then b.clk.ns else n.start, last := blk }
    let b := b.modChan x.chan (fun ch => { ch with rebuilds := tput {} ch.rebuilds key n })
    if 16 ≤ n.count && b.flag 0x0C00 0 0 && (b.retired x.chan u).isNone then
      (b.setF 0x0C01 x.chan (8 * u) (dev + 1), n.count, some n.start)
    else (b, n.count, none)

/-! ### What a final decode records (R295, R302, R344) -/

/-- CORRECTED with its kind and place (R304). -/
def Block.corrected (b : Block) (d : DReq) (kind place : Nat) : Block :=
  b.event (chanCode d.coord.chan 0)
    (d.coord.fields ++ [(1, kind), (1, place / 128), (1, place % 128), (1, d.requester)])

/-- CORRECTED for a retired device rebuilt with no further bit (R295). R304 lists no kind, beat and lane for it: they are free. -/
def Block.noteErased (b : Block) (d : DReq) : Block :=
  let x := fun k => (Config.unstated (b.free + k)).toNat % 256
  { b with free := b.free + 3 }.event (chanCode d.coord.chan 0) (d.coord.fields ++ [(1, x 0), (1, x 1), (1, x 2), (1, d.requester)])

/-- Events and counters of a final decode that gives data: corrections and rebuilds. `reads` says that a READ is served by it. -/
def Block.noteGood (b : Block) (d : DReq) (o : Outcome) (reads : Bool) : Block :=
  let c := d.coord.chan
  let sc := some d.coord.sc
  match o with
  | .corrected k => (b.countC c 0x19 none none sc 1).corrected d 0 k
  | .checkBit k => (b.countC c 0x19 none none sc 1).corrected d 1 k
  | .c0Failed => (b.countC c 0x19 none none sc 1).corrected d 2 0
  | .c1Failed => (b.countC c 0x19 none none sc 1).corrected d 3 0
  | .erasedFurther k => (b.countC c 0x1A none none sc 1).corrected d 4 k
  | .erased =>
    let b := b.countC c 0x1A none none sc 1
    if reads then b.noteErased d else b
  | .rebuilt dev bits =>
    let r := (b.countC c 0x1A none none sc 1).offer d.coord dev d.blk
    let b := r.1.event (chanCode c 1) (d.coord.fields ++ [(1, dev), (1, bits), (4, sat32 r.2.1)])
    match r.2.2 with
    | none => b
    | some start => b.retireEvent c (b.unit d.coord) dev start false
  | _ => b

/-- UNCORRECTABLE, a pond announcement (R295, R304). -/
def Block.uncorrectable (b : Block) (d : DReq) (o : Outcome) (poisoned : Bool) : Block :=
  let c := d.coord.chan
  let cause := if o == .mismatch then 1 else if (b.retired c (b.unit d.coord)).isSome then 2 else 0
  (b.countC c 0x1B none none (some d.coord.sc) 1).emitPond (chanCode c 2)
    (encFields [(8, d.coord.param), (8, d.blk), (1, d.pond), (1, d.requester), (1, cause), (1, if poisoned then 1 else 0)])
    (some d.pond)

/-- The outcome is uncorrectable. -/
def Outcome.bad : Outcome → Bool
  | .uncorrectable => true
  | _ => false

/-- What a final decode that is bad records, with the poison write of R296 where `write` says so. -/
def Block.noteBad (b : Block) (d : DReq) (o : Outcome) (data : Block512) (write : Bool) : Block :=
  if o == .mismatch then b.uncorrectable d o false
  else if o.bad then
    if write then
      let r := b.poisonWrite d.pond d.blk d.cls data d.stale
      r.1.uncorrectable d o r.2
    else b.uncorrectable d o false
  else b

/-! ### The return of a read -/

/-- The head of the reads in flight on a queue. -/
def Queue.returning (k : Queue) : Option QEnt := k.flight.head?.bind (fun id => k.ents.find? (fun e => e.d.id == id))

/-- The head of the reads in flight is taken off. -/
def Queue.landed (k : Queue) : Queue := { k with flight := k.flight.drop 1 }

/-- A burst returns for the read at the head, if `kinds` has it: it is read again once where its decode asks for that
(R294), and otherwise `go` acts on the final decode. -/
def Block.burst (b : Block) (c q : Nat) (raw : BitVec 640) (kinds : DKind → Bool)
    (go : Block → QEnt → Decode → Block) : Block :=
  let k := (b.chan c).queue q
  match k.returning with
  | none => b.modQueue c q (fun k => if k.flight.isEmpty then k else k.landed)
  | some e =>
    if !(kinds e.d.kind) then b else
    let r := b.decode e.d raw
    let b := b.modQueue c q Queue.landed
    if r.out.rereads && !e.reread then
      let b := b.modQueue c q (fun k => k.setEnt e.d.id (fun e => { e with reread := true, sel := false }))
      (b.countC c 0x1C none none (some e.d.coord.sc) 1).modSnd e.d.owner (fun s => { s with reread := true })
    else
      go (b.modSnd e.d.owner (fun s => { s with decode := r.out.code, tData := some b.clk.cclk })) e r

/-- A demand READ or debug read completes by its final decode (R295). -/
def Block.demand (f : SramFault) (b : Block) (e : QEnt) (r : Decode) : Block :=
  let d := e.d
  let b := b.modQueue d.coord.chan (b.dq d) (fun k => k.free d.id)
  let b := (b.noteGood d r.out true).noteBad d r.out r.data true
  if f == .data && r.out.status ≤ stCorrected then
    (b.parity 0 d.requester d.tag 3).finishOwner d.owner stErrorInternal none
  else b.finishOwner d.owner r.out.status (some r.data)

/-- A copier read is written to the spare row as its final decode leaves it (R350). -/
def Block.copied (b : Block) (e : QEnt) (r : Decode) : Block :=
  let d := e.d
  let b := (b.noteGood d r.out false).noteBad d r.out r.data false
  let id := b.nextId
  let b := b.modQueue d.coord.chan (b.dq d) (fun k => (k.free d.id).lock d.blk id)
  b.issue { d with kind := .copyWrite, data := r.data, poison := r.out.marks || r.out == .mismatch }

/-- READ_DATA_DECODE: a demand, debug-port or copier read. -/
def execReadDataDecode (c : Fin 8) (q : Fin 2) (raw : BitVec 640) (f : SramFault) (s : State) :
    Host.Outcome State Fault Refusal :=
  s.does (fun b => b.burst c.val q.val raw (fun k => k == .read || k == .debugRead || k == .copyRead)
    (fun b e r => if e.d.kind == .copyRead then b.copied e r else Block.demand f b e r))

/-- A line fill returns (R361). -/
def Block.fillBurst (b : Block) (e : QEnt) (r : Decode) : Block :=
  let d := e.d
  let b := b.modQueue d.coord.chan (b.dq d) (fun k => k.free d.id)
  let served := b.reqs.filter (fun x => b.cache.fills.any (fun f => f.id == d.id && f.waiters.contains x.id))
  let b := b.noteGood d r.out (served.isEmpty || served.any (fun x => x.op == .read))
  match b.cache.fills.find? (fun f => f.id == d.id) with
  | none => b.noteBad d r.out r.data true
  | some f =>
    let x := b.fillReturn f r.out.status r.out.marks r.out.bad r.data d.cls d.stale
    if r.out == .mismatch || r.out.bad then x.1.uncorrectable d r.out x.2 else x.1

/-- LINE_FILL_RETURN: a line fill or a prefetch. -/
def execLineFillReturn (c : Fin 8) (q : Fin 2) (raw : BitVec 640) (s : State) : Host.Outcome State Fault Refusal :=
  s.does (fun b => b.burst c.val q.val raw (fun k => k == .lineFill || k == .prefetch) Block.fillBurst)

/-- The old block of a WRITE_PARTIAL is decoded and merged (R223, R302). -/
def Block.rmw (b : Block) (e : QEnt) (r : Decode) : Block :=
  let d := e.d
  let b := b.noteGood d r.out false
  if r.out == .mismatch then
    let b := b.modQueue d.coord.chan (b.dq d) (fun k => (k.unlock d.blk).free d.id)
    (b.uncorrectable d r.out false).finishOwner d.owner stErrorCommand none
  else
    let b := if r.out.bad then b.uncorrectable d r.out true else b
    b.mergeWrite d r.data r.out.marks r.out.status

/-- RMW_MERGE. -/
def execRmwMerge (c : Fin 8) (q : Fin 2) (raw : BitVec 640) (s : State) : Host.Outcome State Fault Refusal :=
  s.does (fun b => b.burst c.val q.val raw (fun k => k == .writePartial) Block.rmw)

/-! ### The dredge's decode (R343 to R345) -/

/-- The dredge's counts of a pond changed. -/
def Block.modDredge (b : Block) (p : Nat) (g : Dredge → Dredge) : Block := { b with dredge := tmod {} b.dredge p g }

/-- Blocks of a pond. -/
def Block.pondBlocks (b : Block) (p : Nat) : Nat := b.f 0x0300 p 16 * 2 ^ 22

/-- A pond that the dredge walks (R342). -/
def Block.walks (b : Block) (p : Nat) : Bool :=
  let rt := b.pondRt p
  !(b.f 0x0300 p 16 == 0) && p < 63 && !rt.lost && !rt.marked && rt.draining.isEmpty && b.flag 0x0300 p 51 &&
    !(b.f 0x0C02 0 0 == 0) && (!(b.f 0x0300 p 40 == 1) || (tget {} b.dredge p).wfReady)

/-- The block interval I of a pond in ns (R343). -/
def Block.interval (b : Block) (p : Nat) : Nat :=
  let rate := b.f 0x0C02 0 0
  let size := b.f 0x0300 p 16
  if rate == 65535 then b.f 0x0300 p 96 * 3600 * 10 ^ 9 / (size * 2 ^ 22)
  else
    let sum := (((enabledPonds b.cfg).filter (fun e => b.walks e.1)).map (·.2)).sum
    64000 * sum / (rate * size)

/-- A pass that has read or passed over its last block ends: event 0x74, and 0x75 where it is late (R343, R344). -/
def Block.endPass (b : Block) (p : Nat) : Block :=
  let w := tget {} b.dredge p
  let l := b.pondBlocks p
  if w.cursor < l || l == 0 || b.chans.any (fun ch => (ch.find (fun d => d.kind == .dredgeRead && d.pond == p)).isSome) then b
  else
    let took := (b.blockTime - w.passStart).toNat
    let due := l * b.interval p
    let ms := fun n => sat32 (n / 10 ^ 6)
    let b := b.event 0x74 [(1, p), (4, sat32 (w.passes + 1)), (8, w.read), (8, w.corrected), (8, w.poisoned), (8, w.bad),
      (4, sat32 w.unwritten), (4, ms took)]
    let b := if due + due / 8 < took then b.event 0x75 [(1, p), (4, ms due), (4, ms took)] else b
    b.modDredge p (fun w => { w with
      passes := (w.passes + 1) % 2 ^ 32, cursor := 0, passStart := max b.blockTime (w.passStart + due)
      read := 0, corrected := 0, poisoned := 0, bad := 0, unwritten := 0 })

/-- The line that a dredge decode may use or spare: present, and without the poison mark where it is to repair (R345). -/
def Block.dredgeLine (b : Block) (d : DReq) : Option (Loc × Line) := b.cache.lookup d.blk

/-- A corrected dredge block is written back, unless its line is present (R345). -/
def Block.dredgeWrite (b : Block) (d : DReq) (data : Block512) : Block :=
  let b := b.modDredge d.pond (fun w => { w with corrected := w.corrected + 1 })
  if (b.dredgeLine d).isSome then b
  else b.issue { d with kind := .dredgeWb, cls := b.dredgeClass, data := data, owner := none }

/-- The dredge acts on a final decode (R344, R345). -/
def Block.dredged (b : Block) (e : QEnt) (r : Decode) : Block :=
  let d := e.d
  let b := b.modQueue d.coord.chan (b.dq d) (fun k => k.free d.id)
  let b := (b.noteGood d r.out false).modDredge d.pond (fun w => { w with read := w.read + 1 })
  let b := match r.out with
    | .clean | .erased => b
    | .poison => b.modDredge d.pond (fun w => { w with poisoned := w.poisoned + 1 })
    | .corrected _ | .rebuilt _ _ | .checkBit _ | .c0Failed | .c1Failed | .erasedFurther _ => b.dredgeWrite d r.data
    | .mismatch | .uncorrectable =>
      let b := b.modDredge d.pond (fun w => { w with bad := w.bad + 1 })
      match (b.dredgeLine d).filter (fun (x : Loc × Line) => !x.2.poison) with
      | none => b.noteBad { d with cls := b.dredgeClass } r.out r.data true
      | some (at_, l) =>
        let b := b.countC d.coord.chan 0x1B none none (some d.coord.sc) 1
        let b := b.event 0x76 [(1, d.pond), (8, d.blk), (1, d.coord.chan), (8, d.coord.param), (1, if l.dirty then 0 else 1)]
        b.update at_ { l with
          dirty := true, newer := l.wb.isSome, dirtyAt := if l.dirty then l.dirtyAt else b.blockTime
          age := if l.dirty then l.age else none }
  b.endPass d.pond

/-- DREDGE_DECODE. -/
def execDredgeDecode (c : Fin 8) (q : Fin 2) (raw : BitVec 640) (s : State) : Host.Outcome State Fault Refusal :=
  s.does (fun b => b.burst c.val q.val raw (fun k => k == .dredgeRead) Block.dredged)

/-! ### Write data (R221) -/

/-- The last beat of the oldest write being sent has left: its entry is released. -/
def Block.sent (b : Block) (c q : Nat) : Block :=
  b.modQueue c q (fun k => match k.sending with
    | [] => k
    | id :: t => { k.free id with sending := t })

/-- WRITE_DATA_SENT. -/
def execWriteDataSent (c : Fin 8) (q : Fin 2) (s : State) : Host.Outcome State Fault Refusal :=
  s.does (fun b => b.sent c.val q.val)

end Sys2Proof.Machine
end

