-- ==== Sys2Proof/Machine/Arbiter.lean ====
section
/-! DEFINITION. The admission arbiters (R195 to R213), and the commands of a channel's queues and scheduler. -/

namespace Sys2Proof.Machine

/-! ### Candidates (R198) -/

/-- TICKETS of a requester (R209). -/
def Block.tickets (b : Block) (rq : Nat) : Nat :=
  if rq < 128 then b.f 0x0801 rq 0
  else if 0xF0 ≤ rq && rq ≤ 0xF3 then b.f 0x0802 0 (8 * (rq - 0xF0))
  else if rq == 0xF5 then b.f 0x0802 0 40 else 0

/-- A queue can take a request (R216), with what is promised to granted ones. -/
def Block.canTake (b : Block) (c : Nat) (d : DReq) : Bool :=
  let q := b.dq d
  let k := (b.chan c).queue q
  let prom := (b.chan c).granted.filter (fun x => b.dq x == q)
  k.ents.length + prom.length < b.queueSize c &&
    (d.kind.isRead || (k.ents.filter QEnt.buffers).length + (prom.filter (fun x => !x.kind.isRead)).length < 96)

/-- A writeback of DORMANT entry passes no gate and no shaper (R383). -/
def Block.dormantWb (b : Block) (d : DReq) : Bool :=
  d.kind == .writeback && (match b.dorm with | .entering _ => true | _ => false)

/-- The request is a candidate (R198, R211). -/
def Block.candidate (b : Block) (c : Nat) (d : DReq) : Bool :=
  let wb := b.dormantWb d
  !(b.drain && 2 ≤ d.cls) && (wb || b.gateOpen d.cls) && (wb || b.drainFree d.cls || b.shEligible c d.cls) &&
    !(6 ≤ d.cls && (b.chan c).gov.short) && b.canTake c d

/-- The candidates of a channel. -/
def Block.candidates (b : Block) (c : Nat) : List DReq := (b.chan c).wait.filter (b.candidate c)

/-- The oldest of a list (R196). -/
def oldest (l : List DReq) : Option DReq :=
  l.foldl (fun m d => match m with
    | none => some d
    | some x => if d.older x then some d else some x) none

/-! ### The draw (R200, R201) -/

/-- The requesters of a list, ascending, each once. -/
def requesters (l : List DReq) : List Nat := (List.range 256).filter (fun r => l.any (fun d => d.requester == r))

/-- The draw over requesters with tickets: the first whose running sum exceeds v; none when they hold no ticket. -/
def drawOf (lfsr : BitVec 32) (rs : List (Nat × Nat)) : Option Nat :=
  let total := (rs.map (·.2)).sum
  if total = 0 then none
  else
    let v := lfsr.toNat * total / 2 ^ 32
    (rs.foldl (fun (acc : Nat × Option Nat) r =>
      match acc.2 with
      | some _ => acc
      | none => if v < acc.1 + r.2 then (acc.1 + r.2, some r.1) else (acc.1 + r.2, none)) (0, none)).2

/-- The request that a grant admits, with the LFSR already advanced, and whether the grant is reserved (R199 to R203). -/
def Block.choose (b : Block) (c : Nat) (lfsr : BitVec 32) : Option (DReq × Bool) :=
  let cs := b.candidates c
  let n := b.f 0x0800 c 0
  let due := !(n == 0) && decide (n ≤ (b.chan c).resCount + 1)
  let k := (cs.map (·.cls)).foldl min 7
  let own := cs.filter (fun d => d.cls == k)
  let drawn := if due then none else drawOf lfsr ((requesters own).map (fun r => (r, b.tickets r)))
  match drawn with
  | some r => (oldest (own.filter (fun d => d.requester == r))).map (fun d => (d, false))
  | none => (oldest cs).map (fun d => (d, true))

/-! ### Grants and follow-ons (R202 to R207) -/

/-- A request is admitted: its shaper is charged, its queue entry promised, and its wait reported (R180, R207, R212, R213). -/
def Block.admitDReq (b : Block) (c : Nat) (d : DReq) (reserved follow : Bool) : Block :=
  let now := b.clk.cclk
  let x := if b.dormantWb d then (b, 0) else b.shCharge c d.cls d.kind.cost
  let d' := { d with grantAt := now, cost := x.2, charged := !(x.2 == 0), followOn := follow, reserved := reserved }
  let b := x.1.modChan c (fun ch => { ch with
    wait := ch.wait.filter (fun e => !(e.id == d.id)), granted := ch.granted ++ [d'], lastAdmit := some now }.pump now)
  let b := if d.kind == .prefetch then b.count 0x08 (some d.cls) none 1 else b
  let b := b.modSnd d.owner (fun s => { s with tGrant := some now, resGrant := reserved, followOn := follow })
  let long := b.f 0x0800 c 64
  let wait := now - d.born
  if !(long == 0) && long < wait then
    b.event 0x47 [(1, c), (1, d.requester), (2, d.tag), (1, d.cls), (4, sat32 wait), (1, if reserved then 1 else 0)]
  else b

/-- The clock moves to the cclk in which the arbiter may next grant (R207, R208). -/
def Block.toAdmit (b : Block) (c : Nat) : Block :=
  let ch := b.chan c
  let after := fun (o : Option Nat) => (o.map (· + 1)).getD 0
  b.advance (max (after ch.lastAdmit) (after ch.deadAt) - b.clk.cclk)

/-- The tenure's next follow-on, where the tenure goes on (R205, R210). -/
def Block.followOn (b : Block) (c : Nat) : Option DReq :=
  (b.chan c).tenure.bind (fun t =>
    if t.count < b.f 0x0800 c 8 then
      oldest ((b.candidates c).filter (fun d => d.requester == t.requester && d.cls == t.cls))
    else none)

/-- The arbiter makes a grant (R199 to R203); none while a tenure has a follow-on. -/
def Block.grant (b : Block) (c : Nat) : Block :=
  if !(b.chanServes c) || !b.clk.pll then b else
  let b := b.dropPrefetches c
  let b := b.toAdmit c
  if (b.followOn c).isSome || (b.candidates c).isEmpty then b
  else
    let s := lfsrStep (b.chan c).lfsr
    match b.choose c s with
    | none => b
    | some (d, res) =>
      let n := b.f 0x0800 c 0
      let b := b.modChan c (fun ch => { ch with
        lfsr := s, resCount := if res || n == 0 then 0 else ch.resCount + 1
        tenure := some { requester := d.requester, cls := d.cls, count := 1 } })
      let b := b.arbAdd c d.requester 0 1
      let b := if res then b.arbAdd c d.requester 4 1 else b
      let b := b.countC c 0x0D (some d.cls) (some d.requester) none 1
      let b := if res then b.countC c 0x0E (some d.cls) (some d.requester) none 1 else b
      b.admitDReq c d res false

/-- ARBITER_GRANT. -/
def execArbiterGrant (c : Fin 8) (s : State) : Host.Outcome State Fault Refusal := s.does (fun b => b.grant c.val)

/-- The tenure admits a follow-on, or ends (R205). -/
def Block.tenureStep (b : Block) (c : Nat) : Block :=
  if !(b.chanServes c) || !b.clk.pll then b else
  let b := b.toAdmit c
  match b.followOn c with
  | none => b.modChan c (fun ch => { ch with tenure := none })
  | some d =>
    let b := b.modChan c (fun ch => { ch with tenure := ch.tenure.map (fun t => { t with count := t.count + 1 }) })
    (b.countC c 0x0F (some d.cls) (some d.requester) none 1).admitDReq c d false true

/-- TENURE_FOLLOW_ON. -/
def execTenureFollowOn (c : Fin 8) (s : State) : Host.Outcome State Fault Refusal := s.does (fun b => b.tenureStep c.val)

/-- The oldest granted request enters its queue two cclk after its grant (R207), and counts as admitted (R212). -/
def Block.enqueueNext (b : Block) (c : Nat) : Block :=
  match (b.chan c).granted with
  | [] => b
  | d :: _ =>
    if !(b.chanServes c) then b else
    let after := ((b.chan c).lastEnq.map (· + 1)).getD 0
    let b := b.advance (max (d.grantAt + 2) after - b.clk.cclk)
    let wait := d.grantAt - d.born
    let b := ((b.arbAdd c d.requester 1 1).arbAdd c d.requester 2 wait).arbMax c d.requester wait
    b.enqueue c d

/-- ENQUEUE. -/
def execEnqueue (c : Fin 8) (s : State) : Host.Outcome State Fault Refusal := s.does (fun b => b.enqueueNext c.val)

/-- A wait list has stayed full for 1 µs (R213). -/
def Block.saturated (b : Block) (c : Nat) : Block :=
  match (b.chan c).fullSince with
  | none => b
  | some t =>
    let n := b.clk.cclk - t
    if b.clk.hz ≤ n * 10 ^ 6 then b.event 0x46 [(1, c), (4, (b.chan c).outside.length), (4, sat32 n)] else b

/-- ADMISSION_SATURATED. -/
def execAdmissionSaturated (c : Fin 8) (s : State) : Host.Outcome State Fault Refusal := s.run (fun b => b.saturated c.val)

/-! ### The scheduler's commands -/

/-- COMMAND_SELECT (R226 to R235). -/
def execCommandSelect (c : Fin 8) (q : Fin 2) (s : State) : Host.Outcome State Fault Refusal :=
  s.does (fun b => b.select c.val q.val)

/-- GOVERNOR_CYCLE: a CK/2 cycle of the channel (R268, R271). -/
def execGovernorCycle (c : Fin 8) (dt : Nat) (s : State) : Host.Outcome State Fault Refusal :=
  s.does (fun b => (b.advance dt).ckCycle c.val)

/-- KEEP_OPEN_TIMEOUT (R235). -/
def execKeepOpenTimeout (c : Fin 8) (q : Fin 2) (bank : Nat) (s : State) : Host.Outcome State Fault Refusal :=
  s.run (fun b => b.keepOpen c.val q.val bank)

/-- POWER_DOWN_ENTRY (R263). -/
def execPowerDownEntry (c : Fin 8) (u : Fin 8) (s : State) : Host.Outcome State Fault Refusal :=
  s.run (fun b => b.powerDown c.val u.val)

end Sys2Proof.Machine
end

