-- ==== Sys2Proof/Machine/Turnover.lean ====
section
/-! DEFINITION. Turnover refresh, refresh management, thermal hold and drift work (R249 to R262, R273, R325 to R329). -/

namespace Sys2Proof.Machine

/-! ### Thermal hold and warnings (R273, R276) -/

/-- A temperature in 0.125 °C as a two-byte field. -/
def tempField (t8 : Int) : Nat × Nat := (2, twos 2 t8)

/-- Hold and warning of a channel follow its readings, with their events. -/
def Block.thermal (b : Block) (c : Nat) : Block :=
  match b.hottest c with
  | none => b
  | some (k, t) =>
    let ph := (b.chan c).phy
    let w : Int := 8 * (b.limit 0 : Int)
    let cr : Int := 8 * (b.limit 1 : Int)
    let set := fun (b : Block) (hold warned : Bool) => b.modChan c (fun ch => { ch with phy := { ch.phy with hold := hold, warned := warned } })
    let enter := !ph.hold && decide (cr ≤ t)
    let leave := ph.hold && decide (t ≤ cr - 16)
    let cross := !ph.warned && decide (w ≤ t)
    let rearm := ph.warned && decide (t ≤ w - 16)
    let b := set b (enter || (ph.hold && !leave)) (cross || (ph.warned && !rearm))
    let b := if cross then b.event (chanCode c 8) [(1, 0), (1, k), tempField t, (2, b.scale c)] else b
    if enter then b.event (chanCode c 9) [(1, 0), (1, k), tempField t]
    else if leave then b.event (chanCode c 9) [(1, 1), (1, k), tempField t] else b

/-- THERMAL_WARNING for doubling: cause 1 on, 2 off (R257, R276). -/
def Block.doubleEvent (b : Block) (c sensor : Nat) (t8 : Nat × Nat) (on : Bool) : Block :=
  b.event (chanCode c 8) [(1, if on then 1 else 2), (1, sensor), t8, (2, b.scale c)]

/-- DOUBLED of a channel changed, with what may be about to stop it (R257, R258). -/
def Block.setDoubled (b : Block) (c : Nat) (on : Bool) (x : Option Stopping) : Block :=
  b.modChan c (fun ch => { ch with turn := { ch.turn with doubled := on, stopping := x } })

/-! ### MR4 (R257) -/

/-- One MR4 reading of a unit: 1 a multiplier above 1x, 2 a temperature above range as well. Doubling starts with the
first above 1x; a full round at 1x stops it, after the next occasion (R258). The temperature that the warning reports of a reading
within range is not stated, and free. -/
def Block.mr4Read (b : Block) (c : Nat) (r : Mr4Read) : Block :=
  let t := (b.chan c).turn
  let v := if r.hot then 2 else if r.fast then 1 else 0
  let start := (!t.doubled || t.stopping.isSome) && !(v == 0)
  let mr4 := if start then (List.range (b.units c)).foldl (fun m u => tmod 0 m u (max 1)) t.mr4 else t.mr4
  let mr4 := tput 0 mr4 r.unit.val v
  let stop := t.doubled && t.stopping.isNone && (List.range (b.units c)).all (fun u => tget 0 mr4 u == 0)
  let temp := if r.hot then tempField (8 * (b.limit 1 : Int)) else (2, (Config.unstated b.free).toNat % 2 ^ 16)
  let b := b.modChan c (fun ch => { ch with turn := { ch.turn with mr4 := mr4, doubled := t.doubled || start
                                                                   stopping := if start then none
                                                                     else if stop then some { sensor := 0x10 + r.unit.val, temp := temp.2 }
                                                                     else t.stopping } })
  let b := if start && !t.doubled then b.doubleEvent c (0x10 + r.unit.val) temp true else b
  { b with free := b.free + 1 }.thermal c

/-! ### Drift (R325 to R329) -/

/-- The nibbles that carry a device's count, and the lanes of each (R315, R316). -/
def Block.nibbleLanes (b : Block) (c : Nat) : List (Nat × List Nat) :=
  let g := geoOf b.cfg c
  let n := if g.ddr4 then 18 else 10
  if g.width8 then (List.range (n / 2)).map (fun i => (2 * i, (List.range 8).map (fun k => 8 * i + k)))
  else (List.range n).map (fun k => (k, (List.range 4).map (fun j => 4 * k + j)))

/-- A signed byte of a record. -/
def sbyte (x : Nat) : Int := if x < 128 then (x : Int) else (x : Int) - 256

/-- The correction of one nibble for an oscillator count (R327): the new DRIFT_ADJ. -/
def driftTarget (run count base : Nat) (adj : Int) : Int :=
  let t := roundHalfAway (128 * run * ((base : Int) - count)) (count * base)
  clampInt (adj + clampInt (t - adj) (-4) 4) (-64) 63

/-- The drift sample of one nibble on DDR5. -/
def Block.driftNibble (b : Block) (c u k : Nat) (lanes : List Nat) (count : Nat) : Block :=
  let i := 8 * c + u
  let word := 8 * (0x128 + 8 * k)
  let base := b.f 0x1100 i (word + 32)
  if count == 0 || base == 0 then b else
  let old := sbyte (b.f 0x1100 i (word + 48))
  let new := driftTarget (b.f 0x0100 c 64) count base old
  let b := lanes.foldl (fun b n =>
    let bit := 8 * (0x08 + 4 * n)
    b.setF 0x1100 i bit (clampInt ((b.f 0x1100 i bit : Int) + (new - old)) 0 1023).toNat) b
  let b := b.setF 0x1100 i (word + 48) (twos 1 new)
  if old.natAbs / 8 < new.natAbs / 8 then
    b.event (chanCode c 7) [(1, u), (1, k), (1, 0), (1, twos 1 new), (2, count)]
  else b

/-- The drift sample of one lane on DDR4 (R328). -/
def Block.driftLane (b : Block) (c u n : Nat) (r : Bool × Bool) : Block :=
  let i := 8 * c + u
  let bit := 8 * (0x08 + 4 * n) + 10
  let v := b.f 0x1100 i bit
  let b := if r.2 && !r.1 then b.setF 0x1100 i bit (min (v + 1) 511)
    else if r.1 && !r.2 then b.setF 0x1100 i bit (v - 1) else b
  let key := 128 * u + n
  let fails := if r.1 || r.2 then 0 else tget 0 (b.chan c).phy.eyeFail key + 1
  let b := b.modChan c (fun ch => { ch with phy := { ch.phy with eyeFail := tput 0 ch.phy.eyeFail key (fails % 8) } })
  if fails == 8 then b.event (chanCode c 7) [(1, u), (1, n), (1, 2), (1, 0), (2, 0)] else b

/-- One drift sample of a unit. -/
def Block.driftSample (b : Block) (c : Nat) (r : DriftRead) : Block :=
  let u := r.unit.val
  let b := b.modChan c (fun ch => { ch with phy := { ch.phy with driftDue := tput 0 ch.phy.driftDue u 0 } })
  if b.ddr4 c then (r.lanes.zipIdx).foldl (fun b e => if e.2 < 72 then b.driftLane c u e.2 e.1 else b) b
  else (b.nibbleLanes c).foldl (fun b e => b.driftNibble c u e.1 e.2 (r.counts.getD e.1 0)) b

/-- Drift samples fall due at every DRIFT_INTERVAL-th occasion, and ZQ work of a unit 128 ms after its last (R325). -/
def Block.driftDueNow (b : Block) (c : Nat) : Block :=
  let n := (b.chan c).turn.occasions
  let due := n % (b.f 0x0100 c 80) == 0
  (List.range (b.units c)).foldl (fun b u =>
    b.modChan c (fun ch => { ch with phy := { ch.phy with
      driftDue := tmod 0 ch.phy.driftDue u (fun d => if d == 0 then (if due then 1 else 0) else d + 1)
      zqAt := if 128 * 10 ^ 6 ≤ b.clk.ns - tget 0 ch.phy.zqAt u then tput 0 ch.phy.zqAt u b.clk.ns else ch.phy.zqAt } })) b

/-! ### The claim (R250 to R253, R259) -/

/-- The lead in CK, whole CK/2 cycles (R251). -/
def Block.lead (b : Block) (c : Nat) : Nat := (b.wrLen c + b.tm c 0x11 0 + b.tm c 0x03 0 + 1) / 2 * 2

/-- The refresh slot of a unit (R250). -/
def Block.slotOf (b : Block) (c u : Nat) : Nat := b.f 0x0A00 c 32 / 8 ^ u % 8

/-- The start of a slot after the start of the occasion, in CK (R250). -/
def Block.slotStart (b : Block) (c u : Nat) : Nat :=
  let ck := ceilDiv (b.slotOf c u * b.f 0x0A01 0 0 * b.clk.rootMhz) (b.divider c * 1000)
  (ck + 1) / 2 * 2

/-- Rank and queue of a unit. -/
def Block.unitPlace (b : Block) (c u : Nat) : Nat × Nat := if b.ddr4 c then (u, 0) else (u / 2, u % 2)

/-- A turnover command issues on the queue of a unit, and is charged (R253, R269). -/
def Block.turnCmd (b : Block) (c u : Nat) (k : CmdKind) (at_ : Nat) : Block :=
  let p := b.unitPlace c u
  let x : Cmd := { kind := k, rank := p.1, at_ := at_ }
  ((b.charge c k).modQueue c p.2 (fun q => (q.remember x).record x)).modChan c (fun ch => ch.used u at_)

/-- The RAA counts of a unit fall by RAAIMT (R259). -/
def Block.raaFall (b : Block) (c u : Nat) : Block :=
  let p := b.unitPlace c u
  let n := b.f 0x0A00 c 64
  b.modQueue c p.2 (fun q => { q with banks := q.banks.foldl (fun t e =>
    if e.1 / 256 == p.1 then tput {} t e.1 { e.2 with raa := e.2.raa - n } else t) q.banks })

/-- Refresh management is on (R259). -/
def Block.rfmOn (b : Block) (c : Nat) : Bool := b.flag 0x0A00 c 1 && !(b.ddr4 c)

/-- A bank of the unit counts at least RAAIMT. -/
def Block.rfmWanted (b : Block) (c u : Nat) : Bool :=
  let p := b.unitPlace c u
  b.rfmOn c && ((b.chan c).queue p.2).banks.any (fun e => e.1 / 256 == p.1 && b.f 0x0A00 c 64 ≤ e.2.raa)

/-- RFMab to a unit. -/
def Block.rfmab (b : Block) (c u at_ : Nat) : Block :=
  let p := b.unitPlace c u
  ((b.turnCmd c u .rfmab at_).countC c 0x06 none none (some p.2) 1).raaFall c u

/-- The turnover engine claims the channel: tenure ends, units leave power-down, every open bank is closed (R206, R251). -/
def Block.claim (b : Block) (c : Nat) : Block :=
  let at_ := 2 * (b.chan c).ck2
  let b := (b.chan c).pd.foldl (fun b u => (b.turnCmd c u .pdx at_).modChan c (fun ch => ch.exited u)) b
  let b := (List.range (b.units c)).foldl (fun b u =>
    let p := b.unitPlace c u
    let open_ := ((b.chan c).queue p.2).banks.any (fun e => e.1 / 256 == p.1 && e.2.openRow.isSome)
    if open_ then
      let b := (b.turnCmd c u .preab at_).countC c 0x02 none none (some p.2) 1
      b.modQueue c p.2 (fun q => { q with banks := q.banks.foldl (fun t e =>
        if e.1 / 256 == p.1 then tput {} t e.1 { e.2 with openRow := none, deferred := false } else t) q.banks })
    else b) b
  b.modChan c (fun ch => { ch with tenure := none, pd := [], turn := { ch.turn with stalled := true } })

/-- CK of a channel in ns, rounded up. -/
def Block.ckNs (b : Block) (c n : Nat) : Nat := ceilDiv (n * b.divider c * 1000) b.clk.rootMhz

/-- What is left, at the start of an occasion claimed now, of the turnover entry in which it starts, in ns (R259). None where nothing
limits RFMab: in unaligned mode, and in an emergency occasion, which is the backstop or one that starts in no turnover entry. -/
def Block.rfmRoom (b : Block) (c : Nat) (backstop : Bool) : Option Nat :=
  let start := b.blockTime + (b.ckNs c (b.lead c) : Int)
  let e := entryAt b.cfg 0x0701 start
  if backstop || !(b.chan c).turn.aligned || listLen b.cfg 0x0701 == 0 || !(entryTurn b.cfg 0x0701 e) then none
  else ((spans b.cfg 0x0701).find? (fun x => x.1 == e)).map (fun x => x.2.2 - listPhase b.cfg 0x0701 start)

/-- REFab of a unit in its slot, and RFMab after it where R259 asks for it. -/
def Block.refreshUnit (b : Block) (c base : Nat) (room : Option Nat) (u : Nat) : Block :=
  let at_ := base + b.slotStart c u
  let p := b.unitPlace c u
  let b := ((b.turnCmd c u .refab at_).countC c 0x05 none none (some p.2) 1).raaFall c u
  let after := at_ + b.tm c 0x16 0
  let fits := room.all (fun n => (after - base + b.f 0x0A00 c 96) * b.divider c * 1000 < n * b.clk.rootMhz)
  if b.rfmWanted c u && fits then b.rfmab c u after else b

/-- One occasion (R249 to R259, R325): the claim, MR4 reads, drift samples, and one REFab to every unit. -/
def Block.occasion (b : Block) (c : Nat) (backstop : Bool) (mr4 : List Mr4Read) (drift : List DriftRead) : Block :=
  let room := b.rfmRoom c backstop
  let base := 2 * (b.chan c).ck2 + b.lead c
  let start := b.clk.ns + b.lead c * b.divider c * 1000 / b.clk.rootMhz
  let b := b.claim c
  let b := b.modChan c (fun ch => { ch with turn := { ch.turn with
    lastStart := start, lastRef := start, occasions := ch.turn.occasions + 1, lateCause := 3
    stopping := ch.turn.stopping.map (fun x => { x with due := true }) } })
  let b := b.driftDueNow c
  let b := if b.ddr4 c then b else mr4.foldl (fun b r => b.mr4Read c r) b
  let b := drift.foldl (fun b r => b.driftSample c r) b
  (List.range (b.units c)).foldl (fun b u => b.refreshUnit c base room u) b

/-- The engine may claim the channel now (R247, R249): it serves, is not stalled, and no alert waits for ALERT_n. -/
def Block.mayClaim (b : Block) (c : Nat) : Bool :=
  b.chanServes c && b.clk.pll && !(b.chan c).turn.stalled &&
    (match (b.chan c).alert with | .waitHigh _ => false | .recoveryWait => false | _ => true)

/-- TURNOVER_CLAIM. -/
def execTurnoverClaim (c : Fin 8) (mr4 : List Mr4Read) (drift : List DriftRead) (dt : Nat) (s : State) :
    Host.Outcome State Fault Refusal :=
  s.does (fun b => let b := b.advance dt; if b.mayClaim c.val then b.occasion c.val false mr4 drift else b)

/-- The stall of an occasion ends (R252), and with it doubling, where the occasion follows the reading that stopped it (R258). -/
def Block.endStall (b : Block) (c : Nat) : Block :=
  let t := (b.chan c).turn
  let b := b.modChan c (fun ch => { ch with turn := { ch.turn with stalled := false } })
  match t.stopping with
  | some x => if t.stalled && x.due then (b.setDoubled c false none).doubleEvent c x.sensor (2, x.temp) false else b
  | none => b

/-- TURNOVER_STALL_END. -/
def execTurnoverStallEnd (c : Fin 8) (s : State) : Host.Outcome State Fault Refusal := s.does (fun b => b.endStall c.val)

/-- The current interval in ns (R255, R256). -/
def Block.turnInterval (b : Block) (c : Nat) : Nat :=
  let n := b.tm c 0x18 0 * b.divider c * 1000 / b.clk.rootMhz
  if (b.chan c).turn.doubled then n / 2 else n

/-- The backstop of aligned mode (R256). -/
def Block.turnLate (b : Block) (c : Nat) : Block :=
  let t := (b.chan c).turn
  let since := b.clk.ns - t.lastStart
  if b.mayClaim c && t.aligned && 9 * b.turnInterval c ≤ 8 * since then
    let cause := t.lateCause
    (b.occasion c true [] []).event (chanCode c 0xB) [(1, cause), (8, since)]
  else b

/-- TURNOVER_LATE. -/
def execTurnoverLate (c : Fin 8) (dt : Nat) (s : State) : Host.Outcome State Fault Refusal :=
  s.does (fun b => (b.advance dt).turnLate c.val)

/-- DOUBLED_EXTRA_OCCASION (R258). -/
def execDoubledExtraOccasion (c : Fin 8) (mr4 : List Mr4Read) (drift : List DriftRead) (dt : Nat) (s : State) :
    Host.Outcome State Fault Refusal :=
  s.does (fun b =>
    let b := b.advance dt
    let t := (b.chan c.val).turn
    if b.mayClaim c.val && t.doubled && t.aligned then b.occasion c.val false mr4 drift else b)

/-- An RFM emergency (R259). `bank` is 1,024 x queue + bank. -/
def Block.rfmEmergency (b : Block) (c bank : Nat) : Block :=
  let q := bank / 1024
  let k := tget {} ((b.chan c).queue q).banks (bank % 1024)
  let u := if b.ddr4 c then bank % 1024 / 256 else 2 * (bank % 1024 / 256) + q
  if b.mayClaim c && b.rfmOn c && q < 2 && b.f 0x0A00 c 80 ≤ k.raa + 1 then
    let at_ := 2 * (b.chan c).ck2 + b.lead c
    (b.claim c).rfmab c u at_
  else b

/-- RFM_EMERGENCY. -/
def execRfmEmergency (c : Fin 8) (bank : Nat) (s : State) : Host.Outcome State Fault Refusal :=
  s.does (fun b => b.rfmEmergency c.val bank)

/-- Drift work forced after 64 occasions undone (R326). -/
def Block.driftForced (b : Block) (c : Nat) (drift : List DriftRead) : Block :=
  let due := drift.filter (fun r => 64 < tget 0 (b.chan c).phy.driftDue r.unit.val)
  if b.mayClaim c && !due.isEmpty then
    due.foldl (fun b r =>
      let u := r.unit.val
      let b := b.driftSample c r
      b.event (chanCode c 7) [(1, u), (1, 0), (1, 3), (1, b.f 0x1100 (8 * c + u) (8 * 0x128 + 48)), (2, r.counts.getD 0 0)]) (b.claim c)
  else b

/-- DRIFT_FORCED. -/
def execDriftForced (c : Fin 8) (drift : List DriftRead) (s : State) : Host.Outcome State Fault Refusal :=
  s.does (fun b => b.driftForced c.val drift)

end Sys2Proof.Machine
end

