-- ==== Sys2Proof/Machine/Service.lean ====
section
/-! DEFINITION. What packets, modes and channels share: replies and long packets (R112, R120), changes of mode (R385, R415),
VOIDs and credits (R48, R54), serving entry (R392), DORMANT entry abandoned (R403), and the fence of a channel (R246). -/

namespace Sys2Proof.Machine

/-! ### Replies -/

/-- The LEVEL of a reply to a packet of this requester on this path (R112). -/
def Block.replyLevel (b : Block) (src : Src) (rq : Nat) : Nat :=
  match src with
  | .mgmt => 3
  | .inlet i =>
    if 128 ≤ rq then 0 else
    match (b.slot rq).attach with
    | .att k l => if k = i then l else 0
    | .detaching k l => if k = i then l else 0
    | .free => 0

/-- The reply to a packet (R112, R113). -/
def mkReply (lvl : Nat) (p : Packet) (st detail p0 : Nat) (body : List Byte) : Packet :=
  { level := BitVec.ofNat 4 lvl, reply := true, event := false, rsvd := 0, opcode := p.opcode,
    length := BitVec.ofNat 8 (unitsOf (padTo 16 body).length), requester := p.requester, status := BitVec.ofNat 8 st,
    detail := BitVec.ofNat 8 detail, seq := p.seq, param0 := BitVec.ofNat 64 p0, body := padTo 16 body }

/-- A reply waits to be sent, and its packet keeps its objects until then (R55, R59, R121). Packets answered are counted (R440). -/
def Block.pushReply (b : Block) (src : Src) (p : Packet) (busy : Bool) (objs : List Nat) : Block :=
  let b := b.count 0x10 none (some p.requester.toNat) 1
  let b := if busy then b.count 0x11 none (some p.requester.toNat) 1 else b
  { b with pkts := { b.pkts with replies := b.pkts.replies ++ [{ src := src, pkt := p, busy := busy, objs := objs }] } }

/-- A packet that holds objects is answered. -/
def Block.replyHold (b : Block) (src : Src) (p : Packet) (objs : List Nat) (st detail p0 : Nat) (body : List Byte) : Block :=
  b.pushReply src (mkReply (b.replyLevel src p.requester.toNat) p st detail p0 body) false objs

/-- A packet is answered. -/
def Block.reply (b : Block) (src : Src) (p : Packet) (st detail p0 : Nat) (body : List Byte) : Block :=
  b.replyHold src p [] st detail p0 body

/-- A packet is answered with its PARAM0 echoed. -/
def Block.echo (b : Block) (src : Src) (p : Packet) (st detail : Nat) : Block := b.reply src p st detail p.param0.toNat []

/-- The long packets in progress that `sel` names end with a reply each. -/
def Block.endOps (b : Block) (sel : LongOp → Bool) (st detail : Nat) (p0 : LongOp → Nat) (body : LongOp → List Byte) : Block :=
  let out := b.pkts.ops.filter sel
  let b := { b with pkts := { b.pkts with ops := b.pkts.ops.filter (fun o => !(sel o)) } }
  out.foldl (fun (b : Block) o => b.replyHold o.src o.pkt o.objs st detail (p0 o) (body o)) b

/-- MODE and DRAIN as PARAM0 of a WRONG_MODE reply (R124, R386). -/
def Block.modeBits (b : Block) : Nat := b.mode.code + (if b.drain then 8 else 0)

/-! ### Changes of mode -/

/-- Microseconds from a moment in ns to now. -/
def Block.usSince (b : Block) (since : Nat) : Nat := (b.clk.ns - since) / 1000

/-- The mode changes, with MODE_CHANGED: cause 0 end of RESTORE, 1 MODE_SET, 2 fence, 3 WAKE, 4 reset (R385, R415). -/
def Block.changeMode (b : Block) (m : Mode) (cause us : Nat) : Block :=
  let old := b.mode
  let b := { b with mode := m }
  let b := { b with stat := { b.stat with modeAt := b.stamp64 } }
  if m == .off then b else b.event 0x00 [(1, old.code), (1, m.code), (1, cause), (4, sat32 us)]

/-! ### VOIDs and credits -/

/-- The request VOIDs fall and 512 credits follow (R48). -/
def Block.lowerReq (b : Block) : Block := { b with inlets := b.inlets.map (fun n => { n with reqVoid := false, reqCred := 512 }) }

/-- The command VOIDs fall and 32 flit credits follow (R54). -/
def Block.lowerCmd (b : Block) : Block :=
  { b with inlets := b.inlets.map (fun n => if n.cmdVoid then { n with cmdVoid := false, cmdCred := 32, cmdOwed := 0, flits := [] } else n) }

/-- Every request VOID rises (R48, R50). -/
def Block.raiseReq (b : Block) : Block :=
  { b with inlets := b.inlets.map (fun n => if n.reqVoid then n else { n with reqVoid := true, reqVoidAt := b.clk.cclk, reqCred := 0 }) }

/-- Every command VOID rises (R54). -/
def Block.raiseCmd (b : Block) : Block :=
  { b with inlets := b.inlets.map (fun n => if n.cmdVoid then n else { n with cmdVoid := true, cmdVoidAt := b.clk.cclk, cmdCred := 0 }) }

/-! ### Serving entry -/

/-- The dredge's time goes on, after DORMANT or an entry that was abandoned: each PASS_START advances by the time it stood still (R343). -/
def Block.resumeDredge (b : Block) : Block :=
  { b with dredge := b.dredge.map (fun e => (e.1, { e.2 with passStart := e.2.passStart + ((b.clk.ns - b.stat.dredgeAt : Nat) : Int) })) }

/-- Each pass of the dredge starts at serving entry, or goes on after DORMANT (R343, R346). -/
def Block.startDredge (b : Block) (fromDormant : Bool) : Block :=
  if fromDormant then b.resumeDredge
  else (enabledPonds b.cfg).foldl (fun (b : Block) e => b.modDredge e.1 (fun w => { w with passStart := b.blockTime })) b

/-- Every shaper is empty from now on (R181, R392). -/
def Block.emptyShapers (b : Block) : Block :=
  { b with chans := b.chans.map (fun ch => { ch with
      shapers := (List.range 8).foldl (fun t k => tput {} t k { tok := 0, last := b.clk.cclk }) ch.shapers }) }

/-- RES_COUNT of every channel starts at 0 (R202). -/
def Block.restartReserve (b : Block) : Block := { b with chans := b.chans.map (fun ch => { ch with resCount := 0 }) }

/-- Entry into SERVE or DEGRADED from RESTORE, COMMISSION or DORMANT (R48, R190, R202, R392). -/
def Block.serveFrom (b : Block) (m : Mode) (cause us : Nat) : Block :=
  let dormant := b.mode == .dormant
  let b := if dormant then b.restartReserve else b.emptyShapers.restartReserve
  let b := b.startSluice.changeMode m cause us
  (((b.lowerReq).lowerCmd).startDredge dormant).sluiceStarted

/-! ### Channels that become ready -/

/-- A channel is ready: it reads state 3 or 4, its banks are closed and its turnover timer starts (R255, R322, R323). -/
def Block.makeReady (b : Block) (c : Nat) : Block :=
  let st := if b.ddr4 c then 4 else 3
  let quiet := fun (k : Queue) => { k with
    ents := [], locks := [], replay := [], openBefore := [], issued := [], flight := [], sending := [], selCol := none,
    selOther := none, banks := k.banks.map (fun e => (e.1, { e.2 with openRow := none, deferred := false })) }
  b.modChan c (fun ch => { ch with
    state := st, queues := ch.queues.map quiet, alert := .none, pd := []
    turn := { ch.turn with lastStart := b.clk.ns, lastRef := b.clk.ns, stalled := false } })

/-! ### DORMANT entry abandoned (R403) -/

/-- The step of R400 that DORMANT entry has reached. -/
def Block.dormStep (b : Block) : Nat :=
  if !b.reqs.isEmpty || b.pkts.queue.any (fun q => !(q.src == .mgmt)) then 2
  else if b.cache.lines.any (fun e => e.2.dirty) || !b.cache.shallows.isEmpty ||
      b.chans.any (fun ch => (ch.find (fun d => !d.kind.isRead)).isSome) then 3
  else 4

/-- DORMANT entry is abandoned: `cause` 0 is a power-fail warning and 1 a fence. The VOIDs of an inlet fall once it holds no
request (R48). -/
def Block.abandon (b : Block) (cause : Nat) : Block :=
  match b.dorm with
  | .entering _ =>
    let step := b.dormStep
    let b := (({ b with dorm := .none }.resumeDredge).lowerCmd).event 0x09 [(1, cause), (1, step)]
    b.endOps (fun o => o.pkt.opcode == 0x20) stWrongMode 6 (fun _ => b.modeBits) (fun _ => [])
  | _ => b

/-! ### Fences (R111, R246) -/

/-- The interleave set that a channel belongs to; where there is none, the number that CHANNEL_FENCED gives is free. -/
def Block.setNumber (b : Block) (c : Nat) : Block × Nat :=
  match (List.range 8).find? (fun s => (setMask b.cfg s).testBit c) with
  | some s => (b, s)
  | none => ({ b with free := b.free + 1 }, (Config.unstated b.free).toNat % 256)

/-- What a channel that stops keeps: no request, no command, no copy (R211, R246, R350). -/
def Chan.stop (ch : Chan) (state : Nat) : Chan :=
  let quiet := fun (k : Queue) => { k with
    ents := [], locks := [], replay := [], openBefore := [], issued := [], flight := [], sending := [], selCol := none,
    selOther := none, banks := k.banks.map (fun e => (e.1, { e.2 with openRow := none, deferred := false })) }
  { ch with
    state := state, wait := [], outside := [], granted := [], tenure := none, fullSince := none, alert := .none, pd := []
    queues := ch.queues.map quiet, turn := { ch.turn with stalled := false }, gov := { ch.gov with short := false }
    cam := match ch.copy with
      | some k => ch.cam.filter (fun e => !(e.idx == k.idx))
      | none => ch.cam
    copy := none }

/-- A SPARE_ADD on a channel that is fenced is REJECTED with DETAIL 2 (R350). -/
def Block.dropCopy (b : Block) (c : Nat) : Block :=
  b.endOps (fun o => o.pkt.opcode == 0x80 && pP0 o.pkt 0 3 == c) stRejected 2 (fun o => o.pkt.param0.toNat) (fun _ => [])

/-- A channel is fenced. `cause` is 0 a third failed replay, 1 a stuck alert, 2 a failed recovery pass, 3 a cause named in
another chapter; `pre` records the events of lower code that come about with it (R419). -/
def Block.fence (b : Block) (c cause : Nat) (pre : Block → Block) : Block :=
  if (b.chan c).state == 5 then b else
  let b := b.modChan c (fun ch => { ch with state := 5 })
  let b := if b.mode == .serve then b.changeMode .degraded 2 0 else b
  let b := b.abandon 1
  let b := pre (b.losePonds c 0)
  let s := b.setNumber c
  let b := s.1.event (chanCode c 0xF) [(1, cause), (1, s.2)]
  ((b.dropCopy c).modChan c (fun ch => ch.stop 5)).recountJobs

end Sys2Proof.Machine
end

