-- ==== Sys2Proof/Machine/Alerts.lean ====
section
/-! DEFINITION. Command/address alerts, replay, recovery and the fence they lead to (R242 to R248, R265). -/

namespace Sys2Proof.Machine

/-- The queues of a channel (R214). -/
def Block.queuesOf (b : Block) (c : Nat) : List Nat := if b.ddr4 c then [0] else [0, 1]

/-- The subchannel mask of an alert: the pin is shared (R242). -/
def Block.alertMask (b : Block) (c : Nat) : Nat := if b.ddr4 c then 1 else 3

/-- The units whose first command after a power-down exit is the last command issued (R265). -/
def Block.alertUnits (b : Block) (c : Nat) : List Nat :=
  (b.queuesOf c).filterMap (fun q =>
    match ((b.chan c).queue q).replay.reverse with
    | x :: t =>
      if x.kind == .pdx then none else
      (t.find? (fun y => y.rank == x.rank)).bind (fun y => if y.kind == .pdx then some (b.unitOf c x.rank q) else none)
    | [] => none)

/-- An alert on the first command after a power-down exit; the second such exit running disables power-down (R265). -/
def Block.pdAlert (b : Block) (c u : Nat) : Block :=
  if tget 0 (b.chan c).pdAlerts u == 2 then
    (b.modChan c (fun ch => { ch with
      pdAlerts := tput 0 ch.pdAlerts u 1, pdDisabled := setBit ch.pdDisabled u })).event (chanCode c 0xE) [(1, u)]
  else b.modChan c (fun ch => { ch with pdAlerts := tput 0 ch.pdAlerts u 1 })

/-- Step 1 of R244: selection stops, and a replay begins on each queue. -/
def Block.startAlert (b : Block) (c : Nat) (missing : Bool) : Block :=
  let b := b.modChan c (fun ch => { ch with alert := .waitHigh missing })
  let b := (b.queuesOf c).foldl (fun b q => b.countC c 0x1D none none (some q) 1) b
  if missing then b else (b.alertUnits c).foldl (fun b u => b.pdAlert c u) b

/-- A command is a RD. -/
def Cmd.isRd (x : Cmd) : Bool := match x.kind with | .rd _ => true | _ => false

/-- A command is a WR. -/
def Cmd.isWr (x : Cmd) : Bool := match x.kind with | .wr _ => true | _ => false

/-- A command is a precharge, PREab or an auto-precharge form, as the PRE counter counts them (R441). -/
def Cmd.precharges (x : Cmd) : Bool :=
  match x.kind with
  | .pre | .preab | .rd true | .wr true => true
  | _ => false

/-- The requests whose commands of a kind are in the replay buffer. -/
def Queue.inReplay (k : Queue) (sel : Cmd → Bool) : List Nat := (k.replay.filter sel).filterMap (·.dreq)

/-- A command that a replay or a recovery pass issues: it is charged, moves the counts of R441 for its kind, and the RAA counts of its
bank or its unit (R259, R269). Column commands of a replay are not counted. -/
def Block.reissue (b : Block) (c q : Nat) (x : Cmd) : Block :=
  let sc := some q
  let b := b.charge c x.kind
  let b := if x.precharges then b.countC c 0x02 none none sc 1 else b
  match x.kind with
  | .act =>
    (b.modQueue c q (fun k => if b.flag 0x0A00 c 1 && !(b.ddr4 c)
      then { k with banks := tmod {} k.banks (bankKey x.rank x.cid x.bg x.ba) (fun n => { n with raa := n.raa + 1 }) } else k)).countC c
        0x01 none none sc 1
  | .refab => (b.countC c 0x05 none none sc 1).raaFall c (b.unitOf c x.rank q)
  | .rfmab => (b.countC c 0x06 none none sc 1).raaFall c (b.unitOf c x.rank q)
  | _ => b

/-- Steps 3 to 5 of R244 on one queue: every rank precharged, the rows that were open before the buffer reopened, and the
buffered commands issued again with their spacing. Reads not yet completed return their data anew. -/
def Block.replayQueue (b : Block) (c q : Nat) : Block :=
  let k := (b.chan c).queue q
  let start := (b.chan c).slotCk
  let base := start + b.tm c 0x03 0 + b.tm c 0x02 0
  let t0 := (k.replay.head?.map (·.at_)).getD 0
  let ranks := List.range (b.ranks c)
  let pres : List Cmd := ranks.map (fun r => { kind := .preab, rank := r, at_ := start })
  let acts : List Cmd := k.openBefore.map (fun e => bankCmd e.1 e.2 (start + b.tm c 0x03 0))
  let acts := acts.map (fun x => { x with kind := .act })
  let again := k.replay.map (fun x => { x with at_ := base + (x.at_ - t0) })
  let b := (pres ++ acts ++ again).foldl (fun b x => b.reissue c q x) b
  let ids := k.inReplay (fun x => x.isRd || x.isWr)
  let b := (k.ents.filter (fun e => ids.contains e.d.id)).foldl
    (fun b e => b.modSnd e.d.owner (fun s => { s with replays := s.replays + 1 })) b
  let rds := k.inReplay Cmd.isRd
  let live := fun id => k.ents.any (fun e => e.d.id == id && e.sel && !e.whole)
  b.modQueue c q (fun k => { k with
    flight := k.flight.filter (fun id => !(rds.contains id)) ++ rds.filter live
    issued := (again.reverse ++ acts ++ pres) })

/-- The requests of a queue that a failed replay completes, and the entries it releases: those whose RD or WR is in the
buffer and not done (R245). -/
def Queue.lostInReplay (k : Queue) : List QEnt :=
  let ids := k.inReplay (fun x => x.isRd || x.isWr)
  k.ents.filter (fun e => ids.contains e.d.id && e.sel)

/-- One entry lost to a failed replay: what waits on it completes ERROR_COMMAND (R245). -/
def Block.loseEntry (b : Block) (c q : Nat) (e : QEnt) : Block :=
  let b := b.modQueue c q (fun k => { k.drop e.d.id with
    flight := k.flight.filter (fun id => !(id == e.d.id)), sending := k.sending.filter (fun id => !(id == e.d.id)) })
  if e.whole then b
  else match e.d.kind with
    | .lineFill | .prefetch =>
      match b.cache.fills.find? (fun f => f.id == e.d.id) with
      | none => b
      | some f => (b.fillReturn f stErrorCommand false false 0 e.d.cls e.d.stale).1
    | _ => b.finishOwner e.d.owner stErrorCommand none

/-- The blocks of the WRs in the replay buffers of a channel. -/
def Block.doubtful (b : Block) (c : Nat) : List Nat :=
  ((b.queuesOf c).flatMap (fun q => (((b.chan c).queue q).replay.filter Cmd.isWr).map (·.blk))).eraseDups

/-- A failed replay (R245); a third within 1 s fences the channel (R246). -/
def Block.failReplay (b : Block) (c : Nat) : Block :=
  let blocks := (b.doubtful c).length
  let fails := ((b.chan c).fails.filter (fun t => b.clk.ns ≤ t + 10 ^ 9)) ++ [b.clk.ns]
  let ready := fun (b : Block) => (b.reqs.filter (fun r => r.stage == .ready && r.status == stErrorCommand)).length
  let b' := (b.queuesOf c).foldl (fun b q =>
    (((b.chan c).queue q).lostInReplay).foldl (fun b e => b.loseEntry c q e) b) b
  let told := fun (x : Block) => x.event (chanCode c 5)
    [(1, b.alertMask c), (4, sat32 (ready b' - ready b)), (8, blocks), (4, fails.length)]
  let b' := b'.modChan c (fun ch => { ch with fails := fails })
  if 3 ≤ fails.length then b'.fence c 0 told
  else (told b').modChan c (fun ch => { ch with alert := .recoveryWait })

/-- Two low samples of ALERT_n (R242, R244, R245). -/
def Block.alerted (b : Block) (c : Nat) (missing : Bool) : Block :=
  if !(b.chanServes c) || !b.clk.pll then b else
  match (b.chan c).alert with
  | .none => b.startAlert c missing
  | .replaying _ => b.failReplay c
  | .recovery => b.fence c 2 id
  | .waitHigh _ | .recoveryWait => b

/-- ALERT. -/
def execAlert (c : Fin 8) (s : State) : Host.Outcome State Fault Refusal := s.does (fun b => b.alerted c.val false)

/-- MISSING_BURST: a read whose burst is missing is in flight, and no alert followed (R242). -/
def execMissingBurst (c : Fin 8) (s : State) : Host.Outcome State Fault Refusal :=
  s.does (fun b => if (b.chan c.val).queues.all (fun k => k.flight.isEmpty) then b else b.alerted c.val true)

/-- The commands of a recovery pass on one queue: every rank precharged, then an ACT and a write with poison for the block of each WR in
the buffer, once each and one after the other. -/
def Block.recoverCmds (b : Block) (c q : Nat) : List Cmd :=
  let start := (b.chan c).slotCk
  let base := start + b.tm c 0x03 0
  let span := max (b.tm c 0x06 0) (b.tm c 0x02 0 + b.wrLen c + b.tm c 0x11 0 + b.tm c 0x03 0)
  let ws := (((b.chan c).queue q).replay.filter Cmd.isWr).foldr (fun x l => x :: l.filter (fun y => !(y.blk == x.blk))) []
  let pres : List Cmd := (List.range (b.ranks c)).map (fun r => { kind := .preab, rank := r, at_ := start })
  pres ++ (ws.zipIdx).flatMap (fun e =>
    let at_ := base + e.2 * span
    [{ e.1 with kind := .act, at_ := at_, dreq := none },
     { e.1 with kind := .wr true, at_ := at_ + b.tm c 0x02 0, dreq := none, poison := true }])

/-- The recovery pass of one queue (R245): its commands take the place of those in the replay buffer (R243). -/
def Block.recoverQueue (b : Block) (c q : Nat) : Block :=
  let cmds := b.recoverCmds c q
  let b := cmds.foldl (fun b x => b.reissue c q x) b
  let b := b.countC c 0x04 none none (some q) (cmds.filter Cmd.isWr).length
  b.modQueue c q (fun k => cmds.foldl Queue.record { k with
    replay := [], openBefore := [], issued := []
    banks := k.banks.map (fun e => (e.1, { e.2 with openRow := none, deferred := false })) })

/-- The recovery pass (R245): every bank is precharged, and the block of every WR in the buffers is written with poison. -/
def Block.recover (b : Block) (c : Nat) : Block := (b.queuesOf c).foldl (fun b q => b.recoverQueue c q) b

/-- ALERT_n is high again: the replay, or the recovery pass (R244, R245). -/
def Block.released (b : Block) (c : Nat) : Block :=
  match (b.chan c).alert with
  | .waitHigh m =>
    let b := (b.queuesOf c).foldl (fun b q => b.replayQueue c q) b
    b.modChan c (fun ch => { ch with alert := .replaying m })
  | .recoveryWait => (b.recover c).modChan c (fun ch => { ch with alert := .recovery })
  | _ => b

/-- ALERT_RELEASED. -/
def execAlertReleased (c : Fin 8) (s : State) : Host.Outcome State Fault Refusal := s.does (fun b => b.released c.val)

/-- ALERT_n has stayed low for 10 µs (R244 step 2). -/
def Block.stuck (b : Block) (c : Nat) : Block :=
  match (b.chan c).alert with
  | .waitHigh _ | .recoveryWait => b.fence c 1 id
  | _ => b

/-- STUCK_ALERT_FENCE. -/
def execStuckAlertFence (c : Fin 8) (s : State) : Host.Outcome State Fault Refusal := s.does (fun b => b.stuck c.val)

/-- The replay succeeded (R244 step 6), or the recovery pass has ended (R245): selection resumes. -/
def Block.replayed (b : Block) (c : Nat) : Block :=
  let resume := fun (b : Block) => b.modChan c (fun ch => { ch with alert := .none })
  match (b.chan c).alert with
  | .replaying m =>
    let n := ((b.queuesOf c).map (fun q => ((b.chan c).queue q).replay.length)).sum
    let ok := ((b.chan c).replays.filter (fun t => b.clk.ns ≤ t + 10 ^ 9)) ++ [b.clk.ns]
    let b := resume (b.modChan c (fun ch => { ch with replays := ok }))
    b.event (chanCode c 4) [(1, b.alertMask c), (1, if m then 1 else 0), (4, n), (4, sat32 ok.length)]
  | .recovery => resume b
  | _ => b

/-- ALERT_REPLAYED. -/
def execAlertReplayed (c : Fin 8) (s : State) : Host.Outcome State Fault Refusal := s.does (fun b => b.replayed c.val)

end Sys2Proof.Machine
end

