-- ==== Sys2Proof/Machine/Packets.lean ====
section
/-! DEFINITION. The packet service (R53 to R56, R112 to R129, R133, R468): opcodes, framing, arrival, the checks on each packet,
replies, event packets, attachment, QUERY_CAPS and PING. -/

namespace Sys2Proof.Machine

/-! ### The opcode table (R133) -/

/-- Who may send an opcode (R130, R133, R135). -/
inductive Priv where
  | unattached | tenant | owner | ownSlot | subscribe | counter | mgmtOnly
  deriving DecidableEq, Repr

/-- A row of the opcode table: privilege, first level, modes by MODE code with drain as 6, long, the PARAM0 bits that the
parameter table gives (the rest of an ATTACH is reserved, and so ignored, R12, R125), and the body length where it is fixed. -/
structure OpInfo where
  priv : Priv
  level : Nat
  modes : List Nat
  long : Bool
  p0 : Nat
  body : Option Nat
  deriving DecidableEq, Repr

/-- The modes of opcodes that run everywhere, in order RS CM SV DG DM DR. -/
def allModes : List Nat := [1, 2, 3, 4, 5, 6]

/-- The opcode table; none where the opcode is reserved. -/
def opInfo (op : Nat) : Option OpInfo :=
  let all := 2 ^ 64 - 1
  match op with
  | 0x01 => some ⟨.unattached, 1, [3, 4], false, all, some 0⟩
  | 0x02 => some ⟨.ownSlot, 1, [3, 4, 5, 6], false, 0xFF, some 0⟩
  | 0x03 => some ⟨.tenant, 1, allModes, false, 0, some 0⟩
  | 0x04 => some ⟨.tenant, 1, allModes, false, all, none⟩
  | 0x10 => some ⟨.owner, 1, [2, 3, 4], false, 2 ^ 40 - 1, none⟩
  | 0x11 => some ⟨.owner, 1, [2, 3, 4, 5, 6], false, 2 ^ 56 - 1, some 0⟩
  | 0x12 => some ⟨.owner, 2, [2, 3, 4], false, all, none⟩
  | 0x13 => some ⟨.owner, 2, [2, 3, 4], true, 2 ^ 17 - 1, some 0⟩
  | 0x14 => some ⟨.owner, 2, [2, 3, 4, 5, 6], false, 2 ^ 16 - 1, some 0⟩
  | 0x20 => some ⟨.owner, 1, [2, 3, 4, 5], true, 7, some 0⟩
  | 0x21 => some ⟨.owner, 1, [2, 3, 4], true, 0, some 0⟩
  | 0x22 => some ⟨.owner, 1, [2], true, 1, some 0⟩
  | 0x23 => some ⟨.owner, 1, [2, 4], true, 2 ^ 9 - 1, some 0⟩
  | 0x24 => some ⟨.owner, 1, [2, 4], true, 2 ^ 8 - 1, some 0⟩
  | 0x25 => some ⟨.owner, 1, allModes, false, 0, some 0⟩
  | 0x26 => some ⟨.owner, 1, allModes, false, 1, some 0⟩
  | 0x30 => some ⟨.owner, 1, [3, 4], true, 2 ^ 6 - 1, some 0⟩
  | 0x31 => some ⟨.owner, 1, [3, 4, 6], false, 0x13F, some 0⟩
  | 0x32 => some ⟨.owner, 1, [3, 4], true, 2 ^ 6 - 1, some 0⟩
  | 0x40 | 0x41 | 0x42 | 0x43 => some ⟨.owner, 2, [3, 4], true, 2 ^ 38 - 1, some 16⟩
  | 0x44 => some ⟨.owner, 2, [3, 4], false, 0, some 0⟩
  | 0x45 => some ⟨.owner, 2, [3, 4], true, 0, some 0⟩
  | 0x46 => some ⟨.owner, 2, [3, 4], true, 2 ^ 18 - 1, some 0⟩
  | 0x50 => some ⟨.owner, 1, [3, 4], true, 2 ^ 38 - 1, some 16⟩
  | 0x60 => some ⟨.owner, 1, allModes, false, 2 ^ 24 - 1, some 0⟩
  | 0x61 => some ⟨.subscribe, 2, [2, 3, 4, 5], false, 0, some 32⟩
  | 0x62 => some ⟨.owner, 1, [2, 3, 4, 5], false, 0, some 0⟩
  | 0x70 => some ⟨.counter, 1, [2, 3, 4, 5, 6], false, 2 ^ 8 - 1, some 0⟩
  | 0x71 => some ⟨.owner, 1, [2, 3, 4, 5], false, 2 ^ 8 - 1, some 0⟩
  | 0x72 => some ⟨.owner, 2, [2, 3, 4, 5, 6], false, 2 ^ 15 - 1, some 0⟩
  | 0x73 => some ⟨.owner, 2, [2, 3, 4], false, all, some 0⟩
  | 0x80 => some ⟨.owner, 1, [3, 4], true, 2 ^ 32 - 1, some 0⟩
  | 0x81 => some ⟨.owner, 1, [2, 3, 4, 5], false, 0xFF07, some 0⟩
  | 0x82 => some ⟨.owner, 1, [2, 4], true, 2 ^ 33 - 1, some 0⟩
  | 0x90 => some ⟨.tenant, 1, allModes, false, 0, some 0⟩
  | 0xF0 => some ⟨.mgmtOnly, 3, [2, 3, 4], false, 2 ^ 41 - 1, some 0⟩
  | 0xF1 => some ⟨.mgmtOnly, 3, [2, 3, 4], false, 2 ^ 41 - 1, none⟩
  | _ => none

/-- Bytes rounded up to 16 (R113). -/
def up16 (n : Nat) : Nat := ceilDiv n 16 * 16

/-- The body length of opcodes whose body depends on PARAM0 departs from their layout (R133, R136, R137). -/
def bodyFault (p : Packet) : Bool :=
  let n := p.body.length
  match p.opcode.toNat with
  | 0x10 => match recShape (pP0 p 0 16) with
    | none => false
    | some s => !(n == up16 (pP0 p 32 8 * s.1))
  | 0x12 => match recShape (pP0 p 16 16) with
    | none => false
    | some s => decide (s.1 ≤ 8 * pP0 p 48 16) || decide (up16 (s.1 - 8 * pP0 p 48 16) < n)
  | 0xF1 => !(n == up16 (8 * pP0 p 32 9))
  | _ => false

/-- A parameter outside its encodable form (R115 DETAIL 8; R125, R129, R133, R137). -/
def paramFault (p : Packet) : Bool :=
  match p.opcode.toNat with
  | 0x01 => pP0 p 0 4 == 0 || decide (pP0 p 4 4 < pP0 p 0 4)
  | 0x02 => decide (0x80 ≤ pP0 p 0 8)
  | 0x12 | 0x13 | 0x14 => pP0 p 0 16 == 0
  | 0x43 => decide (3 ≤ pBody p 7 1)
  | 0x46 => pP0 p 16 2 == 3
  | 0x70 | 0x71 => decide (9 ≤ pP0 p 0 8 ∧ pP0 p 0 8 < 0x10) || decide (0x90 ≤ pP0 p 0 8)
  | 0x72 => pP0 p 12 3 == 0
  | 0xF0 | 0xF1 => pP0 p 32 9 == 0 || decide (62 < pP0 p 32 9)
  | _ => false

/-- DETAIL 6 to 8 of R115; 0 where there is none. -/
def layoutFault (p : Packet) : Nat :=
  match opInfo p.opcode.toNat with
  | none => 6
  | some k =>
    if !(p.param0.toNat &&& (2 ^ 64 - 1 - k.p0) == 0) || (match k.body with | some n => !(p.body.length == n) | none => false) ||
        bodyFault p then 7
    else if paramFault p then 8 else 0

/-! ### Senders (R116, R117) -/

/-- The slot is bound to the inlet, for a packet that was taken at the right time (R129). -/
def Block.bound (b : Block) (i : Fin 4) (rq : Nat) (late : Bool) : Option Nat :=
  if 128 ≤ rq then none else
  match (b.slot rq).attach with
  | .att k l => if k = i then some l else none
  | .detaching k l => if k = i && !late then some l else none
  | .free => none

/-- DETAIL 4 and 5 of R115. An ATTACH may name a slot that is not bound, and its LEVEL is ignored (R116, R117, R127). -/
def Block.senderFault (b : Block) (q : QPkt) : Nat :=
  let rq := q.pkt.requester.toNat
  let lvl := q.pkt.level.toNat
  match q.src with
  | .mgmt =>
    if q.pkt.opcode = 0x01 then 5
    else if !(lvl == 3) then 4 else if !(rq == 0xF6) then 5 else 0
  | .inlet i =>
    if q.pkt.opcode = 0x01 then (if 128 ≤ rq then 5 else 0)
    else match b.bound i rq q.late with
      | none => 5
      | some l => if lvl == l then 0 else 4

/-- The first framing fault of a packet in the order of R115; 0 where there is none. -/
def Block.framing (b : Block) (q : QPkt) : Nat :=
  let len := q.pkt.length.toNat
  if len % 2 == 1 || len < 2 || 64 < len then 1
  else if !(q.bytes == 8 * len) then 2
  else if q.pkt.reply || q.pkt.event || !(q.pkt.rsvd == 0) then 3
  else if !(b.senderFault q == 0) then b.senderFault q
  else layoutFault q.pkt

/-- The sender's level (R116). -/
def Block.senderLevel (b : Block) (q : QPkt) : Nat :=
  match q.src with
  | .mgmt => 3
  | .inlet i => (b.bound i q.pkt.requester.toNat q.late).getD 0

/-- The sender holds owner privilege (R130). -/
def Block.sendsAsOwner (b : Block) (src : Src) (rq : Nat) : Bool :=
  match src with
  | .mgmt => true
  | .inlet _ => b.owner rq

/-- The sender holds the privilege of an opcode (R129, R130, R133, R135). -/
def Block.privileged (b : Block) (q : QPkt) (k : Priv) : Bool :=
  let rq := q.pkt.requester.toNat
  let own := b.sendsAsOwner q.src rq
  match k with
  | .unattached | .tenant => true
  | .owner => own
  | .mgmtOnly => q.src == .mgmt
  | .ownSlot => own || pP0 q.pkt 0 8 == rq
  | .subscribe => own || b.flag 0x0400 rq 2
  | .counter => own || (b.flag 0x0400 rq 1 && pP0 q.pkt 0 8 == 0x10 + rq)

/-! ### Objects (R121) -/

/-- The object of a channel, a pond, the cache, a configuration group, the image, the block. -/
def objChan (c : Nat) : Nat := c
def objPond (p : Nat) : Nat := 16 + p
def objCache : Nat := 96
def objGroup (g : Nat) : Nat := 128 + g
def objImage : Nat := 400
def objBlock : Nat := 401

/-- The enabled pond in which a range wholly lies (R338). -/
def Block.rangePond (b : Block) (first count : Nat) : Option Nat :=
  match pondOf b.cfg first with
  | none => none
  | some p =>
    let stop := if p == 63 then scratchBase + 2 ^ 18 else (placeOf b.cfg p).stop
    if first + count ≤ stop then some p else none

/-- The open transaction of a source. -/
def Block.txn? (b : Block) (src : Src) (id : Nat) : Option Txn := b.pkts.txns.find? (fun t => t.src == src && t.id == id)

/-- The objects that a packet names. -/
def Block.objects (b : Block) (src : Src) (p : Packet) : List Nat :=
  match p.opcode.toNat with
  | 0x10 => if (recShape (pP0 p 0 16)).isSome then [objGroup (pP0 p 8 8)] else []
  | 0x13 => match b.txn? src (pP0 p 0 16) with
    | some t => t.staged.map (fun e => objGroup (e.1 / 256))
    | none => []
  | 0x20 => [objBlock]
  | 0x21 => [objImage]
  | 0x22 => recIds.map (fun id => objGroup (id / 256))
  | 0x23 | 0x24 => (maskList (pP0 p 0 8)).map objChan
  | 0x30 | 0x31 | 0x32 => [objPond (pP0 p 0 6)]
  | 0x40 | 0x41 | 0x42 | 0x43 | 0x45 | 0x46 => [objCache]
  | 0x50 => ((b.rangePond (rangeFirst p) (rangeCount p)).map objPond).toList
  | 0x80 | 0x82 => [objChan (pP0 p 0 3)]
  | _ => []

/-- The objects held by long packets until their reply has been sent. -/
def Block.heldObjs (b : Block) : List Nat := b.pkts.ops.flatMap (·.objs) ++ b.pkts.replies.flatMap (·.objs)

/-- A packet meets a held object; MODE_SET meets every long packet that runs. -/
def Block.blocked (b : Block) (src : Src) (p : Packet) : Bool :=
  (b.objects src p).any (fun o => b.heldObjs.contains o) || (p.opcode.toNat == 0x20 && !b.pkts.ops.isEmpty)

/-! ### Arrival and order (R118, R119, R122) -/

/-- Entries of the queue held by packets that `sel` names by source. -/
def Block.entries (b : Block) (sel : Src → Bool) : Nat :=
  (b.pkts.queue.filter (fun q => sel q.src)).length + (b.pkts.ops.filter (fun o => sel o.src)).length +
    (b.pkts.replies.filter (fun r => sel r.src && !r.busy)).length + (b.pkts.detachers.filter (fun d => sel d.2.1)).length

/-- The slot that a packet names is detaching on this inlet. -/
def Block.isLate (b : Block) (src : Src) (p : Packet) : Bool :=
  match src with
  | .mgmt => false
  | .inlet i => match (b.slot p.requester.toNat).attach with
    | .detaching k _ => k == i
    | _ => false

/-- A management packet in DORMANT restarts the PLL and hclk (R401). -/
def Block.wakeClocks (b : Block) : Block :=
  if b.mode == .dormant && b.dorm == .asleep then { b with clk := { b.clk with pll := true }, dorm := .clocked } else b

/-- A packet has arrived whole: it takes an entry, or is answered BUSY (R118). -/
def Block.arrive (b : Block) (src : Src) (p : Packet) (bytes : Nat) (bad : Bool) : Block :=
  let b := b.wakeClocks
  let all := b.entries (fun _ => true)
  if 64 ≤ all || (!(src == .mgmt) && 60 ≤ b.entries (fun s => !(s == .mgmt))) then
    let b := b.event 0x22 [(1, srcNum src), (1, p.requester.toNat), (1, p.opcode.toNat), (1, all)]
    b.pushReply src (mkReply (b.replyLevel src p.requester.toNat) p stBusy 0 1000 []) true []
  else { b with pkts := { b.pkts with queue := b.pkts.queue ++ [⟨src, p, bytes, bad, b.isLate src p⟩] } }

/-- The packet may be taken: in RESTORE only where its opcode lists RESTORE, or is reserved (R122). -/
def Block.takable (b : Block) (q : QPkt) : Bool :=
  !(b.mode == .restore) || (match opInfo q.pkt.opcode.toNat with | none => true | some k => k.modes.contains 1)

/-- The packet that the sequencer takes next: the first ATTACH, or else the first (R119). -/
def Block.nextPacket (b : Block) : Option QPkt :=
  let l := b.pkts.queue.filter b.takable
  (l.find? (fun q => q.pkt.opcode == 0x01)).or l.head?

/-- A packet that a command names whole arrives with all its bytes, where its source can carry it (R54, R59). -/
def Block.bring (b : Block) (src : Src) (p : Packet) : Block :=
  let open_ := match src with
    | .mgmt => true
    | .inlet i => !(b.inlet i).cmdVoid
  if open_ then b.arrive src p (16 + p.body.length) false else b

/-! ### The checks (R124) -/

/-- BLOCK_MIN (R125). -/
def Block.blockMin (b : Block) : Nat := max 1 (b.f 0x0410 0 0)

/-- PARAM0 of an ATTACH reply (R126). For an ID that names no slot the cap and the privilege are not stated, and free. -/
def Block.attachP0 (b : Block) (rq level : Nat) : Nat :=
  let rest := if rq < 128 then b.f 0x0401 rq 0 * 2 ^ 12 + b.f 0x0400 rq 0 * 2 ^ 24
    else (Config.unstated b.free).toNat % 2 ^ 13 * 2 ^ 12
  level + b.blockMin * 2 ^ 4 + 3 * 2 ^ 8 + rest

/-- PARAM0 of a reply to a packet that is not executed: R126 for an ATTACH, with LEVEL 0 on the management port, which is not
attached; the packet's own otherwise. -/
def Block.refusedP0 (b : Block) (q : QPkt) : Nat :=
  let rq := q.pkt.requester.toNat
  if q.pkt.opcode = 0x01 then b.attachP0 rq (if q.src == .mgmt then 0 else b.replyLevel q.src rq)
  else q.pkt.param0.toNat

/-- A packet taken from the queue is checked in order (R124); one that passes is executed by `act`. -/
def Block.check (b : Block) (q : QPkt) (act : Block → Src → Packet → Block) : Block :=
  let p := q.pkt
  let rq := p.requester.toNat
  let op := p.opcode.toNat
  let head := [(1, srcNum q.src), (1, rq), (1, op)]
  if q.parityBad then (b.parity 3 rq 0 5).reply q.src p stErrorInternal 0 (b.refusedP0 q) []
  else
    let d := b.framing q
    if !(d == 0) then
      ({ b with free := b.free + 1 }.event 0x20 (head ++ [(1, d), (2, p.seq.toNat)])).reply q.src p stBadRequest d (b.refusedP0 q) []
    else match opInfo op with
      | none => b
      | some k =>
        if !(op == 0x01) && b.senderLevel q < k.level then b.reply q.src p stUnsupported 0 p.param0.toNat []
        else if !(b.privileged q k.priv) then (b.event 0x23 head).reply q.src p stPrivilege 0 p.param0.toNat []
        else if !(k.modes.contains (if b.drain then 6 else b.mode.code)) then
          (b.event 0x29 (head ++ [(1, b.mode.code), (1, if b.drain then 1 else 0)])).reply q.src p stWrongMode 0 b.modeBits []
        else if b.blocked q.src p then
          { b with free := b.free + 1 }.reply q.src p stNotReady 0 (Config.retryHint b.free).toNat []
        else act b q.src p

/-- The packet leaves the queue. -/
def Block.dequeue (b : Block) (q : QPkt) : Block :=
  { b with pkts := { b.pkts with queue := (takeFirst (fun x => x.src == q.src && x.pkt == q.pkt) b.pkts.queue).1 } }

/-- A packet command: the packet arrives where it does not wait yet, and is checked and executed where it is the one to take. -/
def Block.packet (b : Block) (src : Src) (p : Packet) (act : Block → Src → Packet → Block) : Block :=
  if b.mode == .off then b else
  let b := if b.pkts.queue.any (fun q => q.src == src && q.pkt == p) then b else b.bring src p
  match b.nextPacket with
  | none => b
  | some q => if q.src == src && q.pkt == p then (b.dequeue q).check q act else b

/-- The meaning of a packet command. -/
def State.packet (s : State) (op : Nat) (src : Src) (p : Packet) (act : Block → Src → Packet → Block) :
    Host.Outcome State Fault Refusal := s.does (fun b => b.packet src { p with opcode := BitVec.ofNat 8 op } act)

/-- A long packet that passed its checks is handed to its engine (R120). -/
def Block.beginOp (b : Block) (src : Src) (p : Packet) (g : LongOp → LongOp) : Block :=
  { b with pkts := { b.pkts with
      ops := b.pkts.ops ++ [g { src := src, pkt := p, objs := b.objects src p, started := b.clk.ns }] } }

/-- A long packet that ends in the step that executes it holds its objects until its reply has been sent (R121). -/
def Block.answer (b : Block) (src : Src) (p : Packet) (st detail p0 : Nat) (body : List Byte) : Block :=
  b.replyHold src p (b.objects src p) st detail p0 body

/-- PACKET_FRAMING: a packet with a framing fault (R115). -/
def execPacketFraming (src : Src) (p : Packet) (s : State) : Host.Outcome State Fault Refusal :=
  s.does (fun b =>
    if b.framing ⟨src, p, 16 + p.body.length, false, b.isLate src p⟩ = 0 then b else b.packet src p (fun b _ _ => b))

/-! ### Command flits (R53, R54) -/

/-- A BUSY reply of the inlet waits for reply credits (R55). -/
def Block.busyBlocked (b : Block) (i : Fin 4) : Bool :=
  match b.pkts.replies.find? (fun r => r.src == .inlet i) with
  | none => false
  | some r => b.pkts.replies.any (fun x => x.src == .inlet i && x.busy) && decide ((b.inlet i).rplCred < r.pkt.length.toNat / 2)

/-- Command flit credits held back are returned once no BUSY reply waits (R55). -/
def Block.returnOwed (b : Block) (i : Fin 4) : Block :=
  if b.busyBlocked i then b
  else b.modInlet i (fun n => if n.cmdVoid then n else { n with cmdCred := n.cmdCred + n.cmdOwed, cmdOwed := 0 })

/-- A command flit is taken; the last of a packet, or flit 32, ends it. Its credit returns once the flit has moved on. -/
def Block.takeFlit (b : Block) (i : Fin 4) (flit : BitVec 128) (last bad : Bool) : Block :=
  let n := b.inlet i
  let flits := n.flits ++ [flit]
  let fbad := n.flitBad || bad
  let b := b.modInlet i (fun n => { n with cmdCred := n.cmdCred - 1, cmdOwed := if n.cmdVoid then 0 else n.cmdOwed + 1 })
  let b := if last || flits.length = 32 then
      (b.modInlet i (fun n => { n with flits := [], flitBad := false })).arrive (.inlet i)
        (packetOf (flits.flatMap flitBytes)) (16 * flits.length) fbad
    else b.modInlet i (fun n => { n with flits := flits, flitBad := fbad })
  b.returnOwed i

/-- A command flit is presented: taken under a credit, or in the cclk in which VOID rises or the next, and otherwise discarded
with INLET_CREDIT_VIOLATION. -/
def Block.cmdFlit (b : Block) (i : Fin 4) (flit : BitVec 128) (last bad : Bool) : Block :=
  if b.mode == .off then b else
  let n := b.inlet i
  let ok := if n.cmdVoid then b.clk.pll && decide (b.clk.cclk ≤ n.cmdVoidAt + 1) && (b.mode == .serve) else 0 < n.cmdCred
  if ok then b.takeFlit i flit last bad
  else b.violation i 3 (if n.flits.isEmpty then (flit.extractLsb' 24 8).toNat else 0) 0

/-- COMMAND_FLIT. -/
def execCommandFlit (i : Fin 4) (flit : BitVec 128) (last : Bool) (f : SramFault) (s : State) : Host.Outcome State Fault Refusal :=
  s.does (fun b => b.cmdFlit i flit last (!(f == .clean)))

/-- COMMAND_FLIT_NO_CREDIT: a flit that the fabric may not present. -/
def execCommandFlitNoCredit (i : Fin 4) (flit : BitVec 128) (last : Bool) (s : State) : Host.Outcome State Fault Refusal :=
  s.does (fun b => b.cmdFlit i flit last false)

/-- A reply credit is granted; one above the limit is ignored (R55). -/
def Block.grantRpl (b : Block) (i : Fin 4) : Block :=
  if (b.inlet i).rplCred < 1023 then (b.modInlet i (fun n => { n with rplCred := n.rplCred + 1 })).returnOwed i
  else b.violation i 2 0 0

/-- REPLY_CREDIT_GRANT. -/
def execReplyCreditGrant (i : Fin 4) (s : State) : Host.Outcome State Fault Refusal := s.run (fun b => b.grantRpl i)

/-! ### Replies and event packets (R55, R56, R59, R145 to R147) -/

/-- Words in the receive FIFO. -/
def Mgmt.rxWords (m : Mgmt) : Nat := (m.rx.map List.length).sum

/-- A packet can be sent now: reply credits cover it, or it fits in the receive FIFO of 256 words. -/
def Block.canSend (b : Block) (src : Src) (p : Packet) : Bool :=
  match src with
  | .mgmt => decide (b.mgmt.rxWords + 2 * p.length.toNat ≤ 256)
  | .inlet i => decide (p.length.toNat / 2 ≤ (b.inlet i).rplCred)

/-- A packet leaves the block. -/
def Block.emitPacket (b : Block) (src : Src) (p : Packet) : Block :=
  match src with
  | .mgmt => { b with mgmt := { b.mgmt with rx := b.mgmt.rx ++ [bytesWords (packetBytes p)] } }
  | .inlet i => b.modInlet i (fun n => { n with rplCred := n.rplCred - p.length.toNat / 2, lastPkt := some p })

/-- The first reply of a source is sent, if it can be; its queue entry and its objects are free (R55, R118, R121). -/
def Block.sendReply (b : Block) (src : Src) : Block :=
  let r := takeFirst (fun (x : Reply) => x.src == src) b.pkts.replies
  match r.2 with
  | none => b
  | some x =>
    if !(b.canSend src x.pkt) then b else
    let b := { b with pkts := { b.pkts with replies := r.1 } }.emitPacket src x.pkt
    match src with
    | .mgmt => b
    | .inlet i => b.returnOwed i

/-- The event packet that an entry of an event queue becomes as it leaves (R146). -/
def Block.eventPacket (b : Block) (e : EvPkt) : Packet :=
  let body := padTo 16 (e.record.bytes e.notLogged)
  let dropped := (tget {} b.recips e.recipient).dropped
  { level := BitVec.ofNat 4 (if e.recipient = 0xF6 then 3 else b.level e.recipient), reply := false, event := true, rsvd := 0,
    opcode := 0x60, length := BitVec.ofNat 8 (unitsOf body.length), requester := BitVec.ofNat 8 e.recipient, status := 0, detail := 0,
    seq := BitVec.ofNat 16 e.seq,
    param0 := BitVec.ofNat 64 (dropped + (match e.pond with | some p => p * 2 ^ 16 + 2 ^ 22 | none => 0)), body := body }

/-- The oldest event packet of a source is sent where no reply of the inlet waits (R56). -/
def Block.sendEventPkt (b : Block) (src : Src) : Block :=
  if !(src == .mgmt) && b.pkts.replies.any (fun r => r.src == src) then b else
  let r := takeFirst (fun (x : Src × EvPkt) => x.1 == src) b.pkts.evq
  match r.2 with
  | none => b
  | some x =>
    let p := b.eventPacket x.2
    if !(b.canSend src p) then b else
    { b with pkts := { b.pkts with evq := r.1 }, recips := tmod {} b.recips x.2.recipient (fun q => { q with dropped := 0 }) }.emitPacket src p

/-- EVENT_PACKET_SEND. -/
def execEventPacketSend (src : Src) (s : State) : Host.Outcome State Fault Refusal := s.does (fun b => b.sendEventPkt src)

/-! ### Attachment (R125 to R129) -/

/-- ATTACH: the slot is bound, emptied and returned to its defaults in one step (R128), or refused. -/
def Block.attach (b : Block) (src : Src) (p : Packet) : Block :=
  let s := p.requester.toNat
  match src with
  | .mgmt => b
  | .inlet i =>
    let refuse := fun (b : Block) (st d : Nat) => b.pushReply src (mkReply 0 p st d (b.attachP0 s 0) []) false []
    if !((b.slot s).attach = .free) then refuse b stAccessDenied 0 else
    let lo := pP0 p 0 4
    let hi := pP0 p 4 4
    let l := min hi 3
    if l < max lo b.blockMin then
      refuse (b.event 0x26 [(1, s), (1, i.val), (1, lo), (1, hi), (1, b.blockMin)]) stRejected 1
    else
      let now := b.clk.cclk
      let b := b.modSlot s (fun _ => { attach := .att i l, polC := { tok := 0, last := now }, polP := { tok := 0, last := now }, reds := 0 })
      let b := { b with cfg := cfgReset (cfgReset b.cfg 0x0400 s) 0x0F02 s, recips := tput {} b.recips s {} }.clearVis s
      let b := b.event 0x24 [(1, s), (1, i.val), (1, l)]
      b.reply src p stOk 0 (b.attachP0 s l) []

/-- ATTACH. -/
def execAttach (src : Src) (p : Packet) (s : State) : Host.Outcome State Fault Refusal := s.packet 0x01 src p Block.attach

/-- DETACH: the target detaches from this step on (R129). -/
def Block.detach (b : Block) (src : Src) (p : Packet) : Block :=
  let t := pP0 p 0 8
  match (b.slot t).attach with
  | .att i l =>
    { b.modSlot t (fun s => { s with attach := .detaching i l }) with
      pkts := { b.pkts with detachers := b.pkts.detachers ++ [(t, src, p)] } }
  | _ => b.echo src p stOk 1

/-- DETACH. -/
def execDetach (src : Src) (p : Packet) (s : State) : Host.Outcome State Fault Refusal := s.packet 0x02 src p Block.detach

/-- A request or a packet of the slot, taken before it began to detach, has not completed (R129). -/
def Block.slotBusy (b : Block) (t : Nat) (i : Fin 4) : Bool :=
  let mine := fun (src : Src) (rq : BitVec 8) => src == .inlet i && rq.toNat == t
  b.reqs.any (fun r => r.requester == t) || b.pkts.queue.any (fun q => mine q.src q.pkt.requester && !q.late) ||
    b.pkts.ops.any (fun o => mine o.src o.pkt.requester) ||
    b.pkts.replies.any (fun r => mine r.src r.pkt.requester && !r.busy) ||
    b.pkts.detachers.any (fun d => mine d.2.1 d.2.2.requester && !(d.1 == t))

/-- The last request and packet of a detaching slot have completed: the reply, and the slot is free. -/
def Block.detached (b : Block) (t : Nat) : Block :=
  match (b.slot t).attach, b.pkts.detachers.find? (fun d => d.1 == t) with
  | .detaching i _, some d =>
    if b.slotBusy t i then b else
    let b := { b with pkts := { b.pkts with detachers := b.pkts.detachers.filter (fun x => !(x.1 == t)) } }
    let b := b.echo d.2.1 d.2.2 stOk 0
    let b := { b.modSlot t (fun s => { s with attach := .free }) with
      cfg := cfgReset (cfgReset b.cfg 0x0400 t) 0x0F02 t, recips := tput {} b.recips t {}
      pkts := { b.pkts with evq := b.pkts.evq.filter (fun e => !(e.2.recipient == t)) } }
    b.event 0x25 [(1, t), (1, i.val), (1, d.2.2.requester.toNat)]
  | _, _ => b

/-- DETACH_DONE. -/
def execDetachDone (slot : Fin 128) (s : State) : Host.Outcome State Fault Refusal := s.does (fun b => b.detached slot.val)

/-! ### QUERY_CAPS and PING (R133, R468) -/

/-- Slots attached. -/
def Block.attached (b : Block) : Nat :=
  (b.slots.filter (fun e => match e.2.attach with | .att _ _ => true | _ => false)).length

/-- Channels in state 3 or 4, as a mask. -/
def Block.servingMask (b : Block) : Nat := (List.range 8).foldl (fun m c => if b.chanServes c then m + 2 ^ c else m) 0

/-- The QUERY_CAPS body (R468). -/
def Block.capsBody (b : Block) : List Byte :=
  encFields [(1, 8), (1, Config.siliconRev.toNat), (1, b.blockMin), (1, 3), (1, b.servingMask), (1, b.attached), (2, 0)] ++
    leBytes 8 Config.serial.toNat ++ List.replicate 16 0

/-- QUERY_CAPS. -/
def execQueryCaps (src : Src) (p : Packet) (s : State) : Host.Outcome State Fault Refusal :=
  s.packet 0x03 src p (fun b src p => b.reply src p stOk 0 p.param0.toNat b.capsBody)

/-- PING. -/
def execPing (src : Src) (p : Packet) (s : State) : Host.Outcome State Fault Refusal :=
  s.packet 0x04 src p (fun b src p => b.reply src p stOk 0 p.param0.toNat p.body)

end Sys2Proof.Machine
end

