-- ==== Sys2Proof/Machine/Phy.lean ====
section
/-! DEFINITION. VDDQ, temperatures, discovery, SPD checks, bring-up and training (R66, R67, R77, R293, R310 to R323, R352). -/

namespace Sys2Proof.Machine

/-! ### Events of one step in ascending order of code (R419) -/

/-- An event with its payload fields. -/
abbrev Ev := Nat × List (Nat × Nat)

/-- Insertion by code, after events of the same code. -/
def insEv (e : Ev) : List Ev → List Ev
  | [] => [e]
  | x :: t => if e.1 < x.1 then e :: x :: t else x :: insEv e t

/-- Events occur in ascending order of code, and in the order given within a code (R419). -/
def Block.events (b : Block) (evs : List Ev) : Block :=
  (evs.foldl (fun l e => insEv e l) []).foldl (fun b e => b.event e.1 e.2) b

/-- The block with `g` applied to what the sideband and the PHY hold of channel `c`. -/
def Block.modPhy (b : Block) (c : Nat) (g : Phy → Phy) : Block := b.modChan c (fun ch => { ch with phy := g ch.phy })

/-- The block with `g` applied to RESTORE in progress. -/
def Block.modRestore (b : Block) (g : Restore → Restore) : Block := { b with restore := g b.restore }

/-! ### VDDQ (R77) -/

/-- GENERATION as a number. -/
def Block.gen (b : Block) (c : Nat) : Nat := b.f 0x0100 c 1

/-- VDDQ_MISMATCH: 0 at bring-up, 1 in service. -/
def Block.vddqEv (b : Block) (c mv inService : Nat) : Ev := (chanCode c 0xD, [(2, mv), (1, b.gen c), (1, inService)])

/-- A comparison of VDDQ_SENSE: two successive failures fence a serving channel, and one stops a channel in training (R322). -/
def Block.vddqCheck (b : Block) (c mv : Nat) : Block :=
  if !(b.inUse c) || b.mode == .off || b.mode == .dormant then b else
  let b := b.modPhy c (fun h => { h with vddqMv := mv, vddqSeen := true })
  let ok := vddqInWindow (b.gen c) mv
  if b.chanServes c then
    if ok then b.modPhy c (fun h => { h with vddqBad := 0 })
    else if (b.chan c).phy.vddqBad = 0 then b.modPhy c (fun h => { h with vddqBad := 1 })
    else (b.modPhy c (fun h => { h with vddqBad := 0 })).fence c 3 (fun b => b.events [b.vddqEv c mv 1])
  else if (b.chan c).state == 2 && !ok then
    (b.modChan c (fun ch => { ch with state := 1 })).events [b.vddqEv c mv 0]
  else b

/-- VDDQ_CHECK. -/
def execVddqCheck (c : Fin 8) (mv : BitVec 16) (s : State) : Host.Outcome State Fault Refusal :=
  s.does (fun b => b.vddqCheck c.val mv.toNat)

/-! ### Thermal polls (R257, R314) -/

/-- Sensor `k` exists: its slot is filled, and on DDR4 it is the one of its slot (R310). -/
def Block.sensorAt (b : Block) (c k : Nat) : Bool :=
  (b.chan c).phy.present.getD (k / 3) false && (!(b.ddr4 c) || k % 3 == 0)

/-- One reading of a sensor; none where it did not answer. The operation that SIDEBAND_FAULT names is free. -/
def Block.pollOne (b : Block) (c k : Nat) (t : Option (BitVec 16)) : Block :=
  if !(b.sensorAt c k) then b else
  let h := (b.chan c).phy
  let put := fun (b : Block) (bad good temp : Nat) => b.modPhy c (fun (h : Phy) => { h with
    tempBad := h.tempBad.set k bad, tempGood := h.tempGood.set k good, temps := h.temps.set k temp })
  let old := h.temps.getD k 0x8000
  match t with
  | some v =>
    if h.failed k && h.tempGood.getD k 0 < 2 then put b (h.tempBad.getD k 0) (h.tempGood.getD k 0 + 1) old
    else put b 0 0 v.toNat
  | none =>
    let n := h.tempBad.getD k 0 + 1
    if h.failed k then put b (h.tempBad.getD k 0) 0 old
    else if n < 3 then put b n 0 old
    else
      let b := put b 3 0 0x8000
      { b with free := b.free + 1 }.event 0x32
        [(1, c), (1, k / 3), (1, 1 + k % 3), (1, (Config.unstated b.free).toNat % 256), (1, 3)]

/-- DDR4 doubling: starts above DOUBLE_ON; every sensor at or below DOUBLE_ON - 2 stops it, after the next occasion (R257, R258). A
failed sensor counts as above (R314). -/
def Block.ddr4Double (b : Block) (c : Nat) : Block :=
  if !(b.ddr4 c) then b else
  let on : Int := 8 * (b.f 0x0A01 0 16 : Int)
  let h := (b.chan c).phy
  let rd := (List.range 6).filterMap (fun k =>
    if h.failed k then some (k, on + 1) else (temp8 (h.temps.getD k 0x8000)).map (fun t => (k, t)))
  let top := rd.foldl (fun (m : Option (Nat × Int)) e => match m with
    | none => some e
    | some x => if x.2 < e.2 then some e else some x) none
  match top with
  | none => b
  | some (k, t) =>
    let w := (b.chan c).turn
    if on < t then
      let b := b.setDoubled c true none
      if w.doubled then b else b.doubleEvent c k (tempField t) true
    else if w.doubled && w.stopping.isNone && decide (t ≤ on - 16) then
      b.setDoubled c true (some { sensor := k, temp := (tempField t).2 })
    else b

/-- The sensors of a channel answer. -/
def Block.pollSensors (b : Block) (c : Nat) (rs : List (Option (BitVec 16))) : Block :=
  let b := ((rs.take 6).zipIdx).foldl (fun b e => b.pollOne c e.2 e.1) b
  (b.ddr4Double c).thermal c

/-- One poll of the thermal sensors of a channel. Polls pause in DORMANT and OFF (R79, R314). -/
def Block.thermalPoll (b : Block) (c : Nat) (rs : List (Option (BitVec 16))) : Block :=
  if !(b.chanServes c) || b.mode == .dormant || b.mode == .off then b else b.pollSensors c rs

/-- THERMAL_POLL. -/
def execThermalPoll (c : Fin 8) (readings : List (Option (BitVec 16))) (s : State) : Host.Outcome State Fault Refusal :=
  s.does (fun b => b.thermalPoll c.val readings)

/-! ### Power cap and die temperature (R66, R67, R273, R276) -/

/-- PCAP_MW is taken with PCAP_VALID; an invalid value changes nothing (R67). -/
def Block.pcap (b : Block) (mw : Nat) (valid : Bool) : Block :=
  if valid && !(b.mode == .off) then { b with pins := { b.pins with capMw := mw, capValid := true } } else b

/-- PCAP_TAKEN. -/
def execPcapTaken (mw : BitVec 16) (valid : Bool) (s : State) : Host.Outcome State Fault Refusal :=
  s.does (fun b => b.pcap mw.toNat valid)

/-- A valid die temperature: DIE_THERMAL_WARNING when it crosses DIE_WARN upward, DIE_THERMAL_HOLD when hold is entered or
left 2 °C below DIE_CRIT. -/
def Block.dieTemp (b : Block) (t : BitVec 12) : Block :=
  if b.mode == .off then b else
  let t8 := dieT8 t
  let w : Int := 8 * (b.limit 2 : Int)
  let cr : Int := 8 * (b.limit 3 : Int)
  let st := b.stat
  let enter := !st.dieHold && decide (cr ≤ t8)
  let leave := st.dieHold && decide (t8 ≤ cr - 16)
  let cross := !st.dieWarned && decide (w ≤ t8)
  let rearm := st.dieWarned && decide (t8 ≤ w - 16)
  let b := { b with
    pins := { b.pins with dieTemp := some t, lastDie := t }
    stat := { st with dieHold := enter || (st.dieHold && !leave), dieWarned := cross || (st.dieWarned && !rearm) } }
  b.events ((if cross then [(0x10, [tempField t8, (2, b.dieScale)])] else []) ++
    (if enter then [(0x11, [(1, 0), tempField t8])] else if leave then [(0x11, [(1, 1), tempField t8])] else []))

/-- DIE_TEMP_TAKEN. -/
def execDieTempTaken (t : BitVec 12) (s : State) : Host.Outcome State Fault Refusal := s.does (fun b => b.dieTemp t)

/-- DIE_TEMP_VALID falls: the die temperature takes no part in scaling or hold until it is valid again. -/
def Block.loseDie (b : Block) : Block :=
  match b.pins.dieTemp with
  | none => b
  | some t => { b with
      pins := { b.pins with dieTemp := none }
      stat := { b.stat with dieHold := false, dieWarned := false } }.event 0x08 [tempField (dieT8 t)]

/-- TEMP_INPUT_LOST. -/
def execTempInputLost (s : State) : Host.Outcome State Fault Refusal := s.does Block.loseDie

/-! ### The restore report (R413) -/

/-- RESTORE_ENTRY. -/
def RepEnt.ev (e : RepEnt) : Ev :=
  (0x01, [(2, e.record), (2, e.inst), (2, e.field), (1, e.reason), (1, 0), (4, e.full e.requested), (4, e.full e.applied)])

/-- Entries of R293, R313 and R352, as rules 0, 1 and 2, for the restore report; after RESTORE they join the report at its end. -/
def Block.addReport (b : Block) (rule c : Nat) (es : List RepEnt) : Block :=
  if b.mode == .restore then b.modRestore (fun r => { r with late := r.late ++ es.map (fun e => (rule, c, e)) })
  else { b with report := b.report ++ es }

/-! ### Discovery (R310 to R312) -/

/-- DEVICE_TYPE of a DDR5 SPD. -/
def spdDdr5 : Nat := 0x12

/-- DEVICE_TYPE of a DDR4 SPD. -/
def spdDdr4 : Nat := 0x0C

/-- What was found in one slot; a full read fills record 0x0102. -/
def Phy.foundSlot (h : Phy) (full : Bool) (s : SlotInfo) : Phy :=
  let k := s.slot.val
  { h with
    present := h.present.set k s.present
    devType := h.devType.set k (if s.present then s.devType.toNat else 0)
    identity := h.identity.set k (if s.present then s.identity.toNat else 0)
    spd := if !full then h.spd
      else h.spd.set k (if s.present then s.spd.take (if s.devType.toNat = spdDdr4 then 512 else 1024) else []) }

/-- The full read of the slots of a channel (R312); a slot that stops answering counts as absent (R322). -/
def Block.fullRead (b : Block) (c : Nat) (found : List SlotInfo) : Block :=
  b.modPhy c (fun h => (found.filter (fun s => s.chan.val == c)).foldl (Phy.foundSlot · true) h)

/-- A DDR5 hub that does not acknowledge SETAASA (R78). -/
def i2cOnly (s : SlotInfo) : Bool := s.present && s.devType.toNat == spdDdr5 && !s.i3c

/-- Discovery of one channel: the slots named are all it has; a channel with none named was not covered (R312). -/
def Block.discoverChan (b : Block) (full : Bool) (slots : List SlotInfo) (c : Nat) : Block :=
  let ss := slots.filter (fun s => s.chan.val == c)
  if ss.isEmpty then b else
  let i3c := ss.any (fun s => s.present && s.devType.toNat == spdDdr5) && !(ss.any i2cOnly)
  b.modPhy c (fun h => ss.foldl (Phy.foundSlot · full) { h with
    present := [false, false], devType := [0, 0], identity := [0, 0], sbMode := if i3c then 2 else 1 })

/-- Discovery of every channel, with SIDEBAND_I2C_ONLY. -/
def Block.discover (b : Block) (full : Bool) (slots : List SlotInfo) : Block :=
  ((List.range 8).foldl (fun b c => b.discoverChan full slots c) b).events
    ((slots.filter i2cOnly).map (fun s => (0x34, [(1, s.chan.val), (1, s.slot.val)])))

/-- The identities found on a channel, slots 0 and 1 (R409). -/
def Phy.ids (h : Phy) : List DimmId :=
  (List.range 2).map (fun k =>
    { identity := h.identity.getD k 0, present := h.present.getD k false, devType := h.devType.getD k 0 })

/-- The saved identities with those of channel `c` as found. -/
def Block.saveIds (b : Block) (c : Nat) : Block :=
  let all := (List.range 16).map (fun k => b.ids.getD k {})
  { b with ids := all.take (2 * c) ++ (b.chan c).phy.ids ++ all.drop (2 * c + 2) }

/-! ### Changed channels (R293, R318) -/

/-- The slots of a channel whose identity differs from the saved one, with both. -/
def Block.changedSlots (b : Block) (c : Nat) : List (Nat × Nat × Nat) :=
  (List.range 2).filterMap (fun k =>
    let old := (b.ids.getD (2 * c + k) {}).identity
    let new := (b.chan c).phy.identity.getD k 0
    if old = new then none else some (k, old, new))

/-- The channel is changed (R318). -/
def Block.isChanged (b : Block) (c : Nat) : Bool :=
  let old := (List.range 2).map (fun k => b.ids.getD (2 * c + k) {})
  !(b.changedSlots c).isEmpty || old.all (fun d => !d.present && d.identity == 0) ||
    ((List.range 2).any (fun k => !((b.chan c).phy.present.getD k false == (old.getD k {}).present))) ||
    (List.range (b.units c)).any (fun u => !(b.flag 0x1100 (8 * c + u) 0))

/-- A channel is judged: a changed one has VALID set to 0 on every unit and record 0x0C01 returned to its defaults. -/
def Block.judge (b : Block) (c : Nat) : Block × List Ev :=
  if !(b.isChanged c) then (b.modPhy c (fun h => { h with changed := false }), []) else
  let slots := (b.changedSlots c).map (fun e => ((0x33, [(1, c), (1, e.1), (8, e.2.1), (8, e.2.2)]) : Ev))
  let es := (List.range 8).filterMap (fun u =>
    let v := b.f 0x0C01 c (8 * u)
    if v = 0 then none else some (⟨0x0C01, c, 8 * u, 5, v, 0⟩ : RepEnt))
  let b := (List.range 8).foldl (fun (b : Block) u => (b.setF 0x1100 (8 * c + u) 0 0).setF 0x0C01 c (8 * u) 0) b
  let b := b.modPhy c (fun h => { h with changed := true })
  (b.addReport 0 c es, es.map RepEnt.ev ++ slots)

/-! ### The remap CAM (R352) -/

/-- The coordinates of a map record. -/
def SpareRec.place (r : SpareRec) : Nat × Nat × Nat × Nat × Nat × Nat := (r.sc, r.dimmRank, r.cid, r.bg, r.ba, r.row)

/-- The governing spared records of an identity, in record order, with their numbers. -/
def Block.governing (b : Block) (identity : Nat) : List (Nat × SpareRec) :=
  let rs := (b.spares.zipIdx).filter (fun e => e.1.identity == identity)
  (rs.filter (fun e => !e.1.repaired && !(rs.any (fun x => e.2 < x.2 && x.1.place == e.1.place)))).map (fun e => (e.2, e.1))

/-- Coordinates lie in the geometry of a channel (R158). -/
def Block.inGeometry (b : Block) (x : Coord) : Bool :=
  let g := geoOf b.cfg x.chan
  x.sc < 2 ^ g.sc && x.rank < b.ranks x.chan && x.cid < 2 ^ g.cid && x.bg < 2 ^ g.bg && x.ba < 4 && x.row < g.rows

/-- Where a map record of the DIMM in `slot` lies on channel `c`. -/
def Block.spareCoord (b : Block) (c slot : Nat) (r : SpareRec) : Coord :=
  { chan := c, sc := r.sc, rank := slot * (b.f 0x0100 c 6 + 1) + r.dimmRank, cid := r.cid, bg := r.bg, ba := r.ba, row := r.row }

/-- Two places lie in one bank. -/
def CamEnt.inBank (e : CamEnt) (x : Coord) : Bool :=
  e.sc == x.sc && e.rank == x.rank && e.cid == x.cid && e.bg == x.bg && e.ba == x.ba

/-- The lowest free CAM entry. -/
def freeCam (cam : List CamEnt) : Option Nat := (List.range 256).find? (fun k => !(cam.any (fun e => e.idx == k)))

/-- The CAM with an entry, kept in ascending order. -/
def insCam (e : CamEnt) : List CamEnt → List CamEnt
  | [] => [e]
  | x :: t => if e.idx < x.idx then e :: x :: t else x :: insCam e t

/-- The cause for which a governing record is skipped: 0 geometry, 1 spare rows, 2 index taken, 3 CAM full. -/
def Block.skips (b : Block) (c slot : Nat) (r : SpareRec) : Option Nat :=
  let x := b.spareCoord c slot r
  let cam := (b.chan c).cam
  if 2 ^ b.f 0x0100 c 6 ≤ r.dimmRank || !(b.inGeometry x) then some 0
  else if b.f 0x0D00 c 0 ≤ r.spare then some 1
  else if cam.any (fun e => e.inBank x && e.spare == r.spare) then some 2
  else if (freeCam cam).isNone then some 3
  else none

/-- One governing record enters the CAM, or is skipped with a report entry; the field that the entry names is free. -/
def Block.restoreSpare (c slot : Nat) (a : Block × List Ev) (e : Nat × SpareRec) : Block × List Ev :=
  let b := a.1
  let x := b.spareCoord c slot e.2
  match b.skips c slot e.2 with
  | none =>
    let ent : CamEnt := { idx := (freeCam (b.chan c).cam).getD 0, active := true, sc := x.sc, rank := x.rank, cid := x.cid,
                          bg := x.bg, ba := x.ba, row := x.row, spare := e.2.spare }
    (b.modChan c (fun ch => { ch with cam := insCam ent ch.cam }), a.2)
  | some cause =>
    let draw := fun k => (Config.unstated (b.free + k)).toNat
    let ent : RepEnt := ⟨0x0D02, e.1, draw 0 % 2 ^ 16, 5, draw 1 % 2 ^ 32, draw 2 % 2 ^ 32⟩
    ({ b with free := b.free + 3 }.addReport 2 c [ent], a.2 ++ [ent.ev, (0x7A, [(1, c), (2, e.1), (1, cause)])])

/-- The CAM of a channel is rebuilt from the sparing map, once after each reset (R352). -/
def Block.rebuildCam (b : Block) (c : Nat) : Block × List Ev :=
  if b.restore.camDone.testBit c then (b, []) else
  let b := b.modRestore (fun r => { r with camDone := r.camDone + 2 ^ c })
  let b := b.modChan c (fun ch => { ch with cam := [] })
  (List.range 2).foldl (fun (a : Block × List Ev) slot =>
    let id := (a.1.chan c).phy.identity.getD slot 0
    if id = 0 then a else (a.1.governing id).foldl (Block.restoreSpare c slot) a) (b, [])

/-- A channel becomes ready, and its CAM is rebuilt where the reset calls for it. -/
def Block.becomeReady (b : Block) (c : Nat) : Block × List Ev := (b.makeReady c).rebuildCam c

/-! ### The SPD check (R313) -/

/-- The slots that DIMMS names. -/
def Block.slotsNamed (b : Block) (c : Nat) : List Nat := if b.flag 0x0100 c 2 then [0, 1] else [0]

/-- The geometry fields that one DIMM states, with the record's values. -/
def Block.geoPairs (b : Block) (c : Nat) (s : SpdInfo) : List (Nat × Nat) :=
  [(s.width, b.f 0x0100 c 3), (s.density, b.f 0x0100 c 4), (s.ranks, b.f 0x0100 c 6), (s.stack, b.f 0x0100 c 13)]

/-- Step 1 of R313: the slot, cause, SPD value and record value of the first failure. Causes: 0 generation, 1 geometry,
2 speed, 3 missing DIMM, 4 DIMMs unequal. -/
def Block.spdMismatch (b : Block) (c : Nat) (spd : List SpdInfo) : Option (Nat × Nat × Nat × Nat) :=
  let h := (b.chan c).phy
  let want := if b.ddr4 c then spdDdr4 else spdDdr5
  let slots := b.slotsNamed c
  let gone := slots.find? (fun k => !(h.present.getD k false))
  let wrong := slots.find? (fun k => h.present.getD k false && !(h.devType.getD k 0 == want))
  let geo := slots.findSome? (fun k =>
    (((spd[k]?).map (b.geoPairs c)).getD []).findSome? (fun e => if e.1 = e.2 then none else some (k, e.1, e.2)))
  let slow := slots.findSome? (fun k => (spd[k]?).bind (fun s =>
    if b.divider c * 10 ^ 6 < s.tckMinPs * b.clk.rootMhz then some (k, s.tckMinPs) else none))
  match wrong with
  | some k => some (k, 0, h.devType.getD k 0, b.gen c)
  | none => match gone with
    | some k => some (k, 3, 0, b.f 0x0100 c 2)
    | none => match geo with
      | some (k, x, y) => some (k, if k = 0 then 1 else 4, x, y)
      | none => slow.map (fun e => (e.1, 2, e.2, b.divider c))

/-- The fields of record 0x0200 that step 2 of R313 raises, in its order. -/
def spdFields (ddr5 : Bool) : List Nat :=
  [0x02, 0x03, 0x04, 0x06, 0x08, 0x09, 0x0A, 0x0C, 0x0E, 0x0F, 0x10, 0x11].map (8 * ·) ++
    (if ddr5 then [8 * 0x0D] else []) ++ [8 * 0x16]

/-- CK_min of a field: the larger minimum of the DIMMs in CK (R313). -/
def Block.ckMin (b : Block) (c bit : Nat) (spd : List SpdInfo) : Nat :=
  let ps := (spd.map (fun s => ((s.minsPs.find? (fun e => e.1 == bit)).map (·.2)).getD 0)).foldl max 0
  ceilDiv (ps * b.clk.rootMhz) (b.divider c * 10 ^ 6)

/-- Changes that the SPD check makes to live fields: each with its report entry. -/
structure Raise where
  blk : Block
  rep : List RepEnt

/-- One field takes a value, with its entry, where that differs. -/
def Raise.put (a : Raise) (id c bit v : Nat) : Raise :=
  let old := a.blk.f id c bit
  if old = v then a else { blk := a.blk.setF id c bit v, rep := a.rep ++ [⟨id, c, bit, 5, old, v⟩] }

/-- CL raised to CK_min, and further to the smallest latency that every SPD lists. -/
def Block.clWanted (b : Block) (c : Nat) (spd : List SpdInfo) : Nat :=
  let cl := max (b.f 0x0200 c 0) (b.ckMin c 0 spd)
  let listed := ((List.range 256).filter (fun n => cl ≤ n && spd.all (fun s => s.casList.contains n))).head?
  min (listed.getD cl) (timingTop 0)

/-- Steps 2 and 3 of R313. A raise stays within the Range of its field. -/
def Block.spdRaise (b : Block) (c : Nat) (spd : List SpdInfo) : Raise :=
  let ddr5 := !(b.ddr4 c)
  let a : Raise := { blk := b, rep := [] }
  let a := a.put 0x0200 c 0 (b.clWanted c spd)
  let a := (spdFields ddr5).foldl (fun (a : Raise) bit =>
    a.put 0x0200 c bit (min (max (b.f 0x0200 c bit) (b.ckMin c bit spd)) (max (b.f 0x0200 c bit) (timingTop bit)))) a
  let refi := (if ddr5 then 3900 else 7800) * b.clk.rootMhz / (b.divider c * 1000)
  let a := a.put 0x0200 c (8 * 0x18) (min (b.f 0x0200 c (8 * 0x18)) refi)
  let t := a.blk.cfg
  let k := timingRelations { live := t, real := t, new := t, carried := [(0x0200, c)] } c
  let a : Raise := { blk := { a.blk with cfg := k.new }, rep := a.rep ++ k.rep.map (fun e => { e with reason := 5 }) }
  match ddr5, spd.filterMap (·.rfm) with
  | true, r :: rs =>
    let imt := rs.foldl (fun m e => min m e.1) r.1
    let mmt := rs.foldl (fun m e => min m e.2) r.2
    let a := a.put 0x0A00 c 1 1
    let a := a.put 0x0A00 c 64 (min (b.f 0x0A00 c 64) imt)
    a.put 0x0A00 c 80 (min (b.f 0x0A00 c 80) mmt)
  | _, _ => a

/-- SPD_TIMING_RAISED. -/
def RepEnt.raised (e : RepEnt) : Ev :=
  (0x30, [(1, e.inst), (2, e.record), (2, e.field), (4, e.requested), (4, e.applied)])

/-- The SPD check of a channel (R313): its events, and whether it passes. In RESTORE its changes join the report. -/
def Block.spdCheck (b : Block) (c : Nat) (spd : List SpdInfo) : Block × List Ev × Bool :=
  match b.spdMismatch c spd with
  | some (k, cause, x, y) => (b, [(0x31, [(1, c), (1, k), (1, cause), (4, x), (4, y)])], false)
  | none =>
    let a := b.spdRaise c (spd.take (b.slotsNamed c).length)
    let evs := a.rep.map RepEnt.raised
    if b.mode == .restore then (a.blk.addReport 1 c a.rep, a.rep.map RepEnt.ev ++ evs, true) else (a.blk, evs, true)

/-! ### Training and verify (R316 to R321) -/

/-- VERIFY_FAILED. -/
def verifyEv (f : VerifyFail) (c : Nat) : Ev :=
  (chanCode c 6, [(1, f.unit.val), (1, f.chip.val), (1, f.pass.val), (8, f.lanes % 2 ^ 64), (8, f.lanes / 2 ^ 64 % 2 ^ 64)])

/-- Training of one unit starts from default delays and writes what it found; DRIFT_ADJ is 0 and VALID stays 0 (R316, R320). -/
def Block.trainUnit (b : Block) (c ext : Nat) (u : UnitTrain) : Block :=
  let i := 8 * c + u.unit.val
  let fields := (recFields 0x1100 i).filter (fun f => !(f.bit == 0) && !(decide (f.oor = .drift)))
  let b := u.delays.foldl (fun (b : Block) e =>
    match fields.find? (fun f => f.bit == e.1) with
    | none => b
    | some f => b.setF 0x1100 i e.1 (e.2 % 2 ^ f.w)) b
  let base := 2048 * u.unit.val
  let eyes := u.margins.foldl (fun (t : Tab Nat) e =>
    if 64 ≤ e.1 && e.1 < 8 * 152 && e.1 % 8 == 0 then tput 0 t (base + e.1) (min e.2 255) else t)
  b.modPhy c (fun h => { h with margins := tput 0 (eyes (tclear h.margins base (base + 2048))) base ext })

/-- A channel trains: `ext` is 1 standard, 2 extended; a pass sets VALID on every unit in use (R320). -/
def Block.trainChan (b : Block) (c ext : Nat) (r : TrainRes) : Block :=
  let us := (List.range (b.units c)).map (fun u => 8 * c + u)
  let b := us.foldl (fun (b : Block) i => { b with cfg := cfgReset b.cfg 0x1100 i }) b
  let b := (r.units.filter (fun u => u.unit.val < b.units c)).foldl (fun b u => b.trainUnit c ext u) b
  if r.fail.isNone then us.foldl (fun (b : Block) i => b.setF 0x1100 i 0 1) b else b

/-- A channel does not come up: it reads state 7 (R319). -/
def Block.upFailed (b : Block) (c : Nat) : Block :=
  { b.modChan c (fun ch => { ch with state := 7 }) with boot := { b.boot with failed := b.boot.failed ||| 2 ^ c } }

/-! ### Bring-up in RESTORE (R319, R388) -/

/-- RESTORE is to end in COMMISSION (R391). After a wipe it goes on as with no valid image (R340). -/
def Block.toCommission (b : Block) : Bool := !b.boot.imageValid || !(b.lc == .deployed) || b.stat.force

/-- PHASE moves on, never back (R319). -/
def Block.phase (b : Block) (n : Nat) : Block := { b with boot := { b.boot with phase := max b.boot.phase n } }

/-- Bring-up of every channel in use begins: each reads state 2, and the channels that discovery covered are judged. -/
def Block.startBringUp (b : Block) : Block :=
  let cs := (List.range 8).filter b.inUse
  let b := (b.phase 5).modRestore (fun r => { r with up := true })
  let a := cs.foldl (fun (a : Block × List Ev) c =>
    let b := a.1.modChan c (fun ch => { ch with state := 2 })
    if (b.chan c).phy.sbMode = 0 then (b, a.2)
    else
      let j := b.judge c
      (j.1, a.2 ++ j.2)) (b, [])
  a.1.events a.2

/-- Step 6 of R388 starts once image, seed and discovery are done, unless RESTORE is to end in COMMISSION; a power-fail
warning stops it (R387). -/
def Block.tryBringUp (b : Block) : Block :=
  let r := b.restore
  if b.mode == .restore && r.imageDone && r.seedDone && r.discovered && !r.up && !b.pins.pfail && b.wipe.isNone && !b.toCommission
  then b.startBringUp else b

/-- Discovery ends: in RESTORE, or with a full read of every slot at COMMISSION entry (R312). -/
def Block.discovered (b : Block) (slots : List SlotInfo) : Block :=
  if b.restore.discovered then b
  else if b.mode == .restore && b.clk.pll then
    (((b.discover false slots).modRestore (fun r => { r with discovered := true })).phase 4).tryBringUp
  else if b.mode == .commission then
    let b := (b.discover true slots).modRestore (fun r => { r with discovered := true })
    (List.range 8).foldl (fun (b : Block) c => b.saveIds c) b
  else b

/-- DISCOVERY_DONE. -/
def execDiscoveryDone (slots : List SlotInfo) (s : State) : Host.Outcome State Fault Refusal :=
  s.does (fun b => b.discovered slots)

/-- Steps 4 to 8 of R319 for a channel whose VDDQ is right. -/
def Block.upChecked (b : Block) (c : Nat) (r : BringUp) : Block × List Ev :=
  let train := fun (b : Block) (res : TrainRes) (last : Option VerifyFail) =>
    let b := ({ b with boot := { b.boot with trained := b.boot.trained ||| 2 ^ c } }.phase 6).trainChan c 1
      { res with fail := res.fail.or last }
    match res.fail.or last with
    | none => b.becomeReady c
    | some f => (b.upFailed c, [verifyEv f c])
  if (b.chan c).phy.changed then
    let k := (b.fullRead c r.found).spdCheck c r.spd
    if k.2.2 then
      let t := train k.1 r.train none
      (t.1, k.2.1 ++ t.2)
    else (k.1.upFailed c, k.2.1)
  else if r.verify.isNone then b.becomeReady c
  else train b r.train r.verify2

/-- The bring-up of one channel in RESTORE is over. -/
def Block.bringUpDone (b : Block) (c : Nat) (r : BringUp) : Block :=
  if !(b.mode == .restore && b.restore.up && b.inUse c && !(b.restore.upDone.testBit c)) || b.pins.pfail then b else
  let b := b.modRestore (fun q => { q with upDone := q.upDone + 2 ^ c })
  let b := b.modPhy c (fun h => { h with vddqMv := r.vddqMv, vddqSeen := true })
  if !(vddqInWindow (b.gen c) r.vddqMv) then
    (b.modChan c (fun ch => { ch with state := 1 })).events [b.vddqEv c r.vddqMv 0]
  else
    let j := if (b.chan c).phy.sbMode = 0 then b.judge c else (b, [])
    let u := j.1.upChecked c r
    u.1.events (j.2 ++ u.2)

/-- CHANNEL_BRING_UP_DONE. -/
def execChannelBringUpDone (c : Fin 8) (r : BringUp) (s : State) : Host.Outcome State Fault Refusal :=
  s.does (fun b => b.bringUpDone c.val r)

end Sys2Proof.Machine
end

