-- ==== Sys2Proof/Machine/Ponds.lean ====
section
/-! DEFINITION. FILL, POND_WIPE, POND_PROTECT, POND_REBUILD and the reads of the dredge (R156, R170, R338, R339, R342, R343), and
replies that carry a clamp report (R142, R143). -/

namespace Sys2Proof.Machine

/-! ### Clamp reports (R143) -/

/-- The status of a reply that carries a clamp report. -/
def repStatus (r : List RepEnt) : Nat := if clamps r = 0 then stOk else stClamped

/-- CONFIG_CLAMPED and REPORT_TRUNCATED. -/
def repEvents (src : Src) (p : Packet) (r : List RepEnt) : List Ev :=
  (match r.find? (fun e => !(e.reason == 7)) with
   | none => []
   | some e => [(0x21, [(1, srcNum src), (1, p.requester.toNat), (2, e.record), (2, clamps r)])]) ++
  (if 30 < r.length then [(0x28, [(1, srcNum src), (1, p.opcode.toNat), (2, r.length)])] else [])

/-- The body of a clamp report applied now (R142). -/
def Block.repBody (b : Block) (r : List RepEnt) : List Byte := reportBody r 30 b.stamp64

/-- A packet is answered with its clamp report, after its events. -/
def Block.replyReport (b : Block) (src : Src) (p : Packet) (objs : List Nat) (r : List RepEnt) (evs : List Ev) : Block :=
  let body := b.repBody r
  (b.events (repEvents src p r ++ evs)).replyHold src p objs (repStatus r) 0 p.param0.toNat body

/-! ### FILL (R338) -/

/-- The status that refuses a FILL, or its pond. -/
def Block.fillCheck (b : Block) (p : Packet) : Nat ⊕ Nat :=
  match b.rangePond (rangeFirst p) (rangeCount p) with
  | none => .inl stAddressInvalid
  | some q =>
    let rt := b.pondRt q
    if rt.lost || rt.marked then .inl stPondLost
    else if b.flag 0x0300 q 48 then .inl stWriteProtected
    else .inr q

/-- FILL. -/
def Block.fill (b : Block) (src : Src) (p : Packet) : Block :=
  if rangeCount p = 0 then b.answer src p stOk 0 0 [] else
  match b.fillCheck p with
  | .inl st => b.answer src p st 0 0 []
  | .inr q =>
    let first := rangeFirst p
    let pat := pBody p 7 1 % 2 == 1
    let j : FillJob := { opcode := 0x50, pond := q, first := first, next := first, stop := first + rangeCount p,
                         pattern := if pat then BitVec.ofNat 64 (pBody p 8 8) else 0, isPattern := pat, started := b.clk.ns }
    { b.beginOp src p (fun o => { o with n := q }) with jobs := b.jobs ++ [j] }

/-- FILL. -/
def execFill (src : Src) (p : Packet) (s : State) : Host.Outcome State Fault Refusal := s.packet 0x50 src p Block.fill

/-- FILL_DONE, event 0x77. -/
def Block.fillDoneEv (b : Block) (opcode p blocks started : Nat) : Ev :=
  (0x77, [(1, opcode), (1, p), (8, blocks), (4, sat32 (b.usSince started))])

/-- A FILL ends: its blocks are counted, and a stop at drain gives DETAIL 2. A pond that has been lost gives POND_LOST. -/
def Block.fillDone (b : Block) : Block :=
  match b.jobs.find? (fun j => j.opcode == 0x50 && j.over b) with
  | none => b
  | some j =>
    let lost := (b.pondRt j.pond).lost
    let b := { b with jobs := b.jobs.filter (fun x => !(x.key == j.key)) }
    let b := if j.stopped then b else b.events [b.fillDoneEv 0x50 j.pond j.covered j.started]
    b.endOps (fun o => o.pkt.opcode == 0x50 && o.n == j.pond) (if lost then stPondLost else stOk)
      (if j.stopped && !lost then 2 else 0) (fun _ => j.covered) (fun _ => [])

/-- FILL_DONE. -/
def execFillDone (s : State) : Host.Outcome State Fault Refusal := s.does Block.fillDone

/-! ### POND_WIPE (R339) -/

/-- POND_WIPE: the pond is marked, and its tile fills stop (R334). -/
def Block.wipePond (b : Block) (src : Src) (p : Packet) : Block :=
  let q := pP0 p 0 6
  if !(pondOn b.cfg q) then b.answer src p stOk 1 p.param0.toNat []
  else if (b.pondRt q).lost then b.answer src p stPondLost 0 p.param0.toNat []
  else if b.flag 0x0300 q 48 then b.answer src p stWriteProtected 0 p.param0.toNat []
  else ((b.modPond q (fun r => { r with wiping := true })).stopTiles q stPondLost).beginOp src p (fun o => { o with n := q })

/-- POND_WIPE. -/
def execPondWipe (src : Src) (p : Packet) (s : State) : Host.Outcome State Fault Refusal := s.packet 0x32 src p Block.wipePond

/-- The work of a long packet on pond `p` has ended: the pond has been emptied, and no job of it goes on. -/
def Block.jobEnded (b : Block) (o : LongOp) : Bool :=
  o.next == 1 && b.jobs.all (fun j => !(j.key == o.pkt.opcode.toNat * 64 + o.n) || j.over b)

/-- The long packet of an opcode on a pond. -/
def Block.pondOp? (b : Block) (opcode p : Nat) : Option LongOp := b.pkts.ops.find? (fun o => o.pkt.opcode.toNat == opcode && o.n == p)

/-- The blocks that the job of a long packet covered, and the block without it. -/
def Block.takeJob (b : Block) (o : LongOp) : Option FillJob × Block :=
  let mine := fun (j : FillJob) => j.key == o.pkt.opcode.toNat * 64 + o.n
  (b.jobs.find? mine, { b with jobs := b.jobs.filter (fun j => !(mine j)) })

/-- POND_WIPE ends: the mark clears. A pond lost meanwhile answers POND_LOST. -/
def Block.wiped (b : Block) (p : Nat) : Block :=
  match b.pondOp? 0x32 p with
  | none => b
  | some o =>
    let lost := (b.pondRt p).lost
    if !(b.jobEnded o) && !lost then b else
    let j := b.takeJob o
    let b := (j.2.modPond p (fun r => { r with wiping := false })).restartWalk p
    let b := if lost then b else b.events [b.fillDoneEv 0x32 p ((j.1.map (·.covered)).getD o.m) o.started]
    b.endOps (fun x => x == o) (if lost then stPondLost else stOk) 0 (fun o => o.pkt.param0.toNat) (fun _ => [])

/-- POND_WIPE_DONE. -/
def execPondWipeDone (p : Fin 64) (s : State) : Host.Outcome State Fault Refusal := s.does (fun b => b.wiped p.val)

/-! ### POND_PROTECT (R156) -/

/-- POND_PROTECT. -/
def Block.protect (b : Block) (src : Src) (p : Packet) : Block :=
  let q := pP0 p 0 6
  let v := pP0 p 8 1
  ((b.setF 0x0300 q 48 v).event 0x72 [(1, q), (1, v), (1, p.requester.toNat)]).echo src p stOk 0

/-- POND_PROTECT. -/
def execPondProtect (src : Src) (p : Packet) (s : State) : Host.Outcome State Fault Refusal := s.packet 0x31 src p Block.protect

/-! ### POND_REBUILD (R170) -/

/-- POND_REBUILD: the pond is marked, and its tile fills stop (R334). -/
def Block.rebuild (b : Block) (src : Src) (p : Packet) : Block :=
  let q := pP0 p 0 6
  if q == 63 || !(pondOn b.cfg q) then b.answer src p stOk 1 p.param0.toNat []
  else ((b.modPond q (fun r => { r with rebuild := true })).stopTiles q stPondLost).beginOp src p (fun o => { o with n := q })

/-- POND_REBUILD. -/
def execPondRebuild (src : Src) (p : Packet) (s : State) : Host.Outcome State Fault Refusal := s.packet 0x30 src p Block.rebuild

/-- A member of a pond is fenced or has failed. -/
def Block.memberBad (b : Block) (p : Nat) : Bool :=
  (maskList (b.members p)).any (fun c => [1, 5, 7].contains (b.chan c).state)

/-- POND_REBUILD ends: the marks clear; a pond that has lost a member meanwhile stays lost (R169). -/
def Block.rebuilt (b : Block) (p : Nat) : Block :=
  match b.pondOp? 0x30 p with
  | none => b
  | some o =>
    if !(b.jobEnded o) then b else
    let j := b.takeJob o
    let b := j.2.modPond p (fun r => { r with rebuild := false, lost := pondOn j.2.cfg p && j.2.memberBad p })
    let b := b.restartWalk p
    let evs : List Ev := [(0x71, [(1, p), (1, b.f 0x0300 p 112), (2, b.f 0x0300 p 16)])] ++
      (match j.1 with
       | none => []
       | some k => [b.fillDoneEv 0x30 p k.covered o.started])
    let b := { b with pkts := { b.pkts with ops := b.pkts.ops.filter (fun x => !(x == o)) } }
    b.replyReport o.src o.pkt o.objs o.report evs

/-- POND_REBUILT. -/
def execPondRebuilt (p : Fin 64) (s : State) : Host.Outcome State Fault Refusal := s.does (fun b => b.rebuilt p.val)

/-! ### The dredge's reads (R342, R343) -/

/-- Dredge reads in flight. -/
def Block.dredgeOut (b : Block) : Nat :=
  let mine := fun (d : DReq) => d.kind == .dredgeRead
  (b.chans.map (fun ch => ((ch.outside ++ ch.wait ++ ch.granted).filter mine).length +
    (ch.queues.map (fun (k : Queue) => (k.ents.filter (fun e => mine e.d)).length)).sum)).sum

/-- The next block of a pass at or after block `k` that is to be read, with the unwritten tiles passed over. -/
def Block.dredgeNext (b : Block) (p k : Nat) : Nat × Nat :=
  let pl := b.place p
  if pl.writeFirst then (k, 0) else
  let lo := pl.tileBase * 1024
  let t := lo + k / 4096
  let hi := lo + pl.size * 1024
  let nxt := ((b.tiles.filter (fun e => t ≤ e.1 && e.1 < hi)).head?.map (·.1)).getD hi
  if nxt = t then (k, 0) else ((nxt - lo) * 4096, nxt - t)

/-- The time of a dredge block arrives: unwritten tiles are passed over, and the next block is read. -/
def Block.dredgeRead (b : Block) (p : Nat) : Block :=
  let w := tget {} b.dredge p
  let l := b.pondBlocks p
  let due := fun k => decide (w.passStart + ((k * b.interval p : Nat) : Int) ≤ b.blockTime)
  if !b.serving || b.drain || !(b.dorm == .none) || !(b.walks p) then b
  else if l ≤ w.cursor then b.endPass p
  else if !(due w.cursor) then b
  else
    let n := b.dredgeNext p w.cursor
    let b := b.modDredge p (fun w => { w with cursor := n.1, unwritten := w.unwritten + n.2 })
    if l ≤ n.1 then b.endPass p
    else if !(due n.1) || b.f 0x0C02 0 24 ≤ b.dredgeOut then b
    else
      (b.modDredge p (fun w => { w with cursor := n.1 + 1 })).issue
        { id := 0, kind := .dredgeRead, requester := 0xF0, tag := 0, cls := b.dredgeClass, blk := (b.place p).first + n.1, pond := p }

/-- DREDGE_READ. -/
def execDredgeRead (p : Fin 63) (s : State) : Host.Outcome State Fault Refusal := s.does (fun b => b.dredgeRead p.val)

end Sys2Proof.Machine
end

