-- ==== Sys2Proof/Machine/CacheOps.lean ====
section
/-! DEFINITION. Commands of the cache: preload, lock, unlock and ranges (R374 to R377), enable and disable (R378), way modes (R371,
R372), dirty-age cleaning (R367) and the stall of the shallows (R365). -/

namespace Sys2Proof.Machine

/-! ### Ranges -/

/-- Insertion into an ascending list. -/
def insNat (x : Nat) : List Nat → List Nat
  | [] => [x]
  | y :: t => if x ≤ y then x :: y :: t else y :: insNat x t

/-- The blocks of a range that have a line, ascending; `ways` says for which way modes a line in a way counts, `sh` whether the
shallows count. -/
def Block.linesIn (b : Block) (first count : Nat) (ways : Nat → Bool) (sh : Bool) : List Nat :=
  let inside := fun blk => first ≤ blk && blk < first + count
  let a := (b.cache.lines.filter (fun e => inside e.2.blk && ways (b.wayMode (e.1 % 16)))).map (fun e => e.2.blk)
  let s := if sh then (b.cache.shallows.filter (fun l => inside l.blk)).map (·.blk) else []
  (a ++ s).foldl (fun l x => insNat x l) []

/-- The status that refuses a range: it must lie in one enabled, cached pond that is not lost (R374). -/
def Block.rangeOk (b : Block) (p : Packet) : Bool :=
  match b.rangePond (rangeFirst p) (rangeCount p) with
  | none => false
  | some _ => (b.loadable (rangeFirst p)).isSome

/-- A range command: an empty range and a range that is refused are answered at once. -/
def Block.onRange (b : Block) (src : Src) (p : Packet) (go : Block → Block) : Block :=
  if rangeCount p = 0 then b.answer src p stOk 0 0 []
  else if !(b.rangeOk p) then b.answer src p stAddressInvalid 0 0 []
  else go b

/-! ### CACHE_PRELOAD (R374, R375) -/

/-- CACHE_PRELOAD: a way that is not LOCKED takes nothing, with DETAIL 3. -/
def Block.preload (b : Block) (src : Src) (p : Packet) : Block :=
  b.onRange src p (fun b =>
    let locked := b.wayMode (wayOf p) == 1
    b.beginOp src p (fun o => { o with next := if locked then 0 else rangeCount p, detail := if locked then 0 else 3 }))

/-- CACHE_PRELOAD. -/
def execCachePreload (src : Src) (p : Packet) (s : State) : Host.Outcome State Fault Refusal := s.packet 0x40 src p Block.preload

/-- The range is recorded in the first free instance of record 0x0E01; a full list gives DETAIL 4 and event 0x63. -/
def Block.recordRange (b : Block) (p : Packet) : Block × Nat :=
  match (List.range 64).find? (fun k => (aget b.preloads k).isNone) with
  | some k => ({ b with preloads := aput b.preloads k { first := rangeFirst p, count := rangeCount p, way := wayOf p } }, 0)
  | none => (b.event 0x63 [(8, rangeFirst p), (8, rangeCount p), (1, wayOf p)], 4)

/-- CACHE_PRELOAD ends: every block has been reached and every fill has returned. -/
def Block.preloaded (b : Block) : Block :=
  match b.op? 0x40 with
  | none => b
  | some o =>
    if o.next < rangeCount o.pkt || b.cache.fills.any (fun f => f.preload.any (· < 16)) then b else
    let r := b.recordRange o.pkt
    r.1.endOps (fun x => x == o) stOk (if o.detail = 3 then 3 else r.2) (fun o => o.n) (fun _ => [])

/-- CACHE_PRELOAD_DONE. -/
def execCachePreloadDone (s : State) : Host.Outcome State Fault Refusal := s.does Block.preloaded

/-! ### CACHE_LOCK (R374) -/

/-- One present block is moved into its slot of way `w`, where that is free. -/
def Block.lockOne (w : Nat) (a : Block × Nat) (blk : Nat) : Block × Nat :=
  let b := a.1
  let key := slotIn blk w
  if (aget b.cache.lines key).isSome || b.reserved key then a
  else match b.cache.lookup blk with
    | some (at_, l) => (b.onCache (fun k => (k.dropLine at_).putLine (.way key) l), a.2 + 1)
    | none => a

/-- CACHE_LOCK: present blocks of normal ways and the shallows move at once. -/
def Block.lockRange (b : Block) (src : Src) (p : Packet) : Block :=
  b.onRange src p (fun b =>
    if !(b.wayMode (wayOf p) == 1) then b.beginOp src p (fun o => { o with detail := 3 })
    else
      let r := (b.linesIn (rangeFirst p) (rangeCount p) (· == 0) true).foldl (Block.lockOne (wayOf p)) (b, 0)
      r.1.beginOp src p (fun o => { o with n := r.2 }))

/-- CACHE_LOCK. -/
def execCacheLock (src : Src) (p : Packet) (s : State) : Host.Outcome State Fault Refusal := s.packet 0x41 src p Block.lockRange

/-- A range command ends with its count, once it waits for no block. -/
def Block.rangeDone (b : Block) (opcode : Nat) (p0 : LongOp → Nat) : Block :=
  match b.op? opcode with
  | none => b
  | some o => if o.blks.isEmpty then b.endOps (fun x => x == o) stOk o.detail p0 (fun _ => []) else b

/-- CACHE_LOCK_DONE. -/
def execCacheLockDone (s : State) : Host.Outcome State Fault Refusal := s.does (fun b => b.rangeDone 0x41 (fun o => o.n))

/-! ### CACHE_UNLOCK (R374, R375) -/

/-- CACHE_UNLOCK: recorded ranges that overlap are removed, and locked blocks of the range move out. -/
def Block.unlockRange (b : Block) (src : Src) (p : Packet) : Block :=
  b.onRange src p (fun b =>
    let lo := rangeFirst p
    let hi := lo + rangeCount p
    let b := { b with preloads := b.preloads.filter (fun e => !(e.2.first < hi && lo < e.2.first + e.2.count)) }
    b.beginOp src p (fun o => { o with blks := b.linesIn lo (rangeCount p) (· == 1) false }))

/-- CACHE_UNLOCK. -/
def execCacheUnlock (src : Src) (p : Packet) (s : State) : Host.Outcome State Fault Refusal := s.packet 0x42 src p Block.unlockRange

/-- CACHE_UNLOCK_DONE. -/
def execCacheUnlockDone (s : State) : Host.Outcome State Fault Refusal := s.does (fun b => b.rangeDone 0x42 (fun o => o.n))

/-! ### CACHE_RANGE (R377) -/

/-- A dirty line is written back as it stands now: a writeback of older data is taken back. -/
def Block.flushLine (b : Block) (at_ : Loc) (l : Line) : Block :=
  match l.wb with
  | none => b.issueWb at_ l
  | some id =>
    if l.newer then
      let w := b.withdraw id
      if w.2 then w.1.issueWb at_ { l with wb := none } else b
    else b

/-- The action reaches one block: the answer counts lines written back and locked slots emptied, and says whether it must wait. -/
def Block.rangeOne (action : Nat) (a : Block × Nat × Nat × List Nat) (blk : Nat) : Block × Nat × Nat × List Nat :=
  let b := a.1
  match b.cache.lookup blk with
  | none => a
  | some (at_, l) =>
    if !(action == 1) && l.dirty then (b.flushLine at_ l, a.2.1 + 1, a.2.2.1, a.2.2.2 ++ [blk])
    else if action == 0 then a
    else
      let x := b.dropCounted at_
      (x.1, a.2.1, a.2.2.1 + x.2, a.2.2.2)

/-- CACHE_RANGE. -/
def Block.cacheRange (b : Block) (src : Src) (p : Packet) : Block :=
  let count := rangeCount p
  if count = 0 then b.answer src p stOk 0 0 [] else
  let action := pBody p 7 1
  let lo := rangeFirst p
  let b := if action == 0 then b
    else b.onCache (fun k => { k with fills := k.fills.map (fun (f : LineFill) =>
      if lo ≤ f.blk && f.blk < lo + count then { f with dropAfter := true, slot := none } else f) })
  let r := (b.linesIn lo count (fun _ => true) true).foldl (Block.rangeOne action) (b, 0, 0, [])
  r.1.beginOp src p (fun o => { o with n := r.2.1, m := r.2.2.1, detail := action, blks := r.2.2.2 })

/-- CACHE_RANGE. -/
def execCacheRange (src : Src) (p : Packet) (s : State) : Host.Outcome State Fault Refusal := s.packet 0x43 src p Block.cacheRange

/-- CACHE_RANGE ends once it waits for no writeback. -/
def Block.cacheRangeDone (b : Block) : Block :=
  match b.op? 0x43 with
  | none => b
  | some o => if o.blks.isEmpty then b.endOps (fun x => x == o) stOk 0 (fun o => o.n + o.m * 2 ^ 38) (fun _ => []) else b

/-- CACHE_RANGE_DONE. -/
def execCacheRangeDone (s : State) : Host.Outcome State Fault Refusal := s.does Block.cacheRangeDone

/-! ### CACHE_ENABLE and CACHE_DISABLE (R376, R378) -/

/-- The way modes as the word of record 0x0E00. -/
def Block.wayModes (b : Block) : Nat := ((List.range 16).map (fun w => b.wayMode w * 4 ^ w)).sum

/-- CACHE_STATE_CHANGED. -/
def Block.cacheEv (b : Block) (opcode lines : Nat) : Ev :=
  (0x62, [(1, opcode), (1, b.f 0x0E00 0 0), (4, b.wayModes), (4, sat32 lines)])

/-- Relocking begins: cause 0 DORMANT exit, 1 CACHE_ENABLE. -/
def Block.startRelock (b : Block) (cause : Nat) : Block :=
  b.onCache (fun k => { k with
    relock := some 0, relockCause := cause, relockLoaded := 0, relockMoved := 0, relockRuns := 0, relockStart := b.clk.ns })

/-- CACHE_ENABLE. -/
def Block.cacheEnable (b : Block) (src : Src) (p : Packet) : Block :=
  if b.cacheOn then (b.startRelock 1).echo src p stOk 2
  else if (List.range 16).all (fun w => !(b.wayMode w == 0)) then b.echo src p stOk 1
  else
    let b := b.setF 0x0E00 0 0 1
    ((b.startRelock 1).events [b.cacheEv 0x44 0]).echo src p stOk 0

/-- CACHE_ENABLE. -/
def execCacheEnable (src : Src) (p : Packet) (s : State) : Host.Outcome State Fault Refusal := s.packet 0x44 src p Block.cacheEnable

/-- Relocking ends once every range has been run and its fills have returned. -/
def Block.relocked (b : Block) : Block :=
  match b.cache.relock with
  | none => b
  | some k =>
    if k / 2 ^ 38 < 64 || b.cache.fills.any (fun f => f.preload.any (16 ≤ ·)) then b else
    let c := b.cache
    (b.onCache (fun k => { k with relock := none })).event 0x65
      [(1, c.relockCause), (4, c.relockRuns), (8, c.relockLoaded), (8, c.relockMoved), (4, sat32 (b.usSince c.relockStart))]

/-- RELOCK_DONE. -/
def execRelockDone (s : State) : Host.Outcome State Fault Refusal := s.does Block.relocked

/-- The dirty lines of the ways that `sel` names are written back. -/
def Block.flushWays (b : Block) (sel : Nat → Bool) : Block :=
  (b.cache.lines.filter (fun e => sel (e.1 % 16) && e.2.dirty)).foldl (fun (b : Block) e => b.issueWb (.way e.1) e.2) b

/-- CACHE_DISABLE: allocation stops and dirty lines are written back. -/
def Block.cacheDisable (b : Block) (src : Src) (p : Packet) : Block :=
  if !b.cacheOn then b.answer src p stOk 0 0 []
  else ((b.onCache (fun k => { k with disabling := some 0 })).flushWays (fun _ => true)).beginOp src p id

/-- CACHE_DISABLE. -/
def execCacheDisable (src : Src) (p : Packet) (s : State) : Host.Outcome State Fault Refusal := s.packet 0x45 src p Block.cacheDisable

/-- The cache is off: every line is dropped. -/
def Block.cacheDisabled (b : Block) : Block :=
  match b.op? 0x45, b.cache.disabling with
  | some o, some n =>
    if b.cache.lines.any (fun e => e.2.dirty) || b.cache.shallows.any (·.dirty) then b else
    let b := (b.setF 0x0E00 0 0 0).onCache (fun k => { k with lines := [], shallows := [], disabling := none })
    (b.events [b.cacheEv 0x45 n]).endOps (fun x => x == o) stOk 0 (fun _ => sat32 n) (fun _ => [])
  | _, _ => b

/-- CACHE_DISABLE_DONE. -/
def execCacheDisableDone (s : State) : Host.Outcome State Fault Refusal := s.does Block.cacheDisabled

/-! ### CACHE_WAY_MODE (R371, R372) -/

/-- The check of a CACHE_WAY_MODE as a carried record 0x0E00. -/
def Block.wayCheck (b : Block) (mask mode : Nat) : Chk :=
  let t := (List.range 16).foldl (fun t w => if mask.testBit w then cfgSet t 0x0E00 0 (64 + 2 * w) mode else t) b.cfg
  runChecks b { live := b.cfg, real := b.cfg, new := t, carried := [(0x0E00, 0)] } false

/-- CACHE_WAY_MODE: the ways whose mode changes are converted. -/
def Block.cacheWayMode (b : Block) (src : Src) (p : Packet) : Block :=
  let mode := pP0 p 16 2
  let k := b.wayCheck (pP0 p 0 16) mode
  let ways := (List.range 16).filter (fun w => !(cfgGet k.new 0x0E00 0 (64 + 2 * w) == b.wayMode w))
  if ways.isEmpty then b.replyReport src p (b.objects src p) k.rep [] else
  let b := b.onCache (fun c => { c with conv := some { mask := (ways.map (2 ^ ·)).sum, mode := mode } })
  (b.flushWays (fun w => ways.contains w)).beginOp src p (fun o => { o with report := k.rep })

/-- CACHE_WAY_MODE. -/
def execCacheWayMode (src : Src) (p : Packet) (s : State) : Host.Outcome State Fault Refusal := s.packet 0x46 src p Block.cacheWayMode

/-- The contents of a scratch way are zeroed. -/
def Cache.zeroWay (k : Cache) (w : Nat) : Cache :=
  { k with
    scratch := tclear k.scratch (w * 2 ^ 20) ((w + 1) * 2 ^ 20)
    scratchPoison := k.scratchPoison.filter (fun n => !(n / 2 ^ 14 == w)) }

/-- A locked way is frozen: the line in set `s` appears at scratch offset 64 x `s`. -/
def Cache.freezeWay (k : Cache) (w : Nat) : Cache :=
  (k.lines.filter (fun e => e.1 % 16 == w)).foldl (fun (k : Cache) e =>
    k.writeScratch (w * 2 ^ 14 + e.1 / 16) e.2.data (BitVec.allOnes 64) e.2.poison) (k.zeroWay w)

/-- One way takes its new mode. -/
def Block.convertWay (mode : Nat) (b : Block) (w : Nat) : Block :=
  let old := b.wayMode w
  let drop := fun (k : Cache) => { k with lines := k.lines.filter (fun e => !(e.1 % 16 == w)) }
  let b := b.onCache (fun k =>
    if old == 2 then drop (k.zeroWay w)
    else if old == 1 && mode == 0 then k
    else if old == 1 && mode == 2 then drop (k.freezeWay w)
    else if mode == 2 then drop (k.zeroWay w) else drop k)
  let b := if old == 1 then { b with preloads := b.preloads.filter (fun e => !(e.2.way == w)) } else b
  b.setF 0x0E00 0 (64 + 2 * w) mode

/-- The new modes take effect once every line of the converted ways is clean. -/
def Block.converted (b : Block) : Block :=
  match b.op? 0x46, b.cache.conv with
  | some o, some v =>
    if b.cache.lines.any (fun e => v.mask.testBit (e.1 % 16) && e.2.dirty) then b else
    let ways := (List.range 16).filter (fun w => v.mask.testBit w)
    let b := b.onCache (fun k => { k with
      conv := none
      fills := k.fills.map (fun (f : LineFill) =>
        if f.slot.any (fun key => v.mask.testBit (key % 16)) then { f with dropAfter := true, slot := none } else f) })
    let b := ways.foldl (Block.convertWay v.mode) b
    let b := { b with pkts := { b.pkts with ops := b.pkts.ops.filter (fun x => !(x == o)) } }
    b.replyReport o.src o.pkt o.objs o.report [b.cacheEv 0x46 v.written]
  | _, _ => b

/-- WAY_CONVERSION_DONE. -/
def execWayConversionDone (s : State) : Host.Outcome State Fault Refusal := s.does Block.converted

/-! ### Dirty age and the shallows (R365, R367, R380, R381) -/

/-- A dirty line reaches its DIRTY_AGE. -/
def Block.ageWriteback (b : Block) (key : Nat) (f : SramFault) : Block :=
  match aget b.cache.lines key with
  | none => b
  | some l =>
    let age := l.age.getD (b.f 0x0E00 0 32)
    if !l.dirty || l.wb.isSome || age == 0 || b.drain || decide (b.blockTime < l.dirtyAt + ((1000 * age : Nat) : Int)) then b
    else if f == .line then b.poisonLine (.way key) l 0xF2
    else
      let b := b.tagFault (key / 16) 0xF2 0 f
      match aget b.cache.lines key with
      | some l => b.issueWb (.way key) l
      | none => b

/-- DIRTY_AGE_WRITEBACK: of the line in slot 16 x set + way. -/
def execDirtyAgeWriteback (loc : Nat) (f : SramFault) (s : State) : Host.Outcome State Fault Refusal :=
  s.does (fun b => b.ageWriteback loc f)

/-- An allocation has waited 1 us for the shallows head. -/
def Block.shallowsStall (b : Block) : Block :=
  let k := b.cache
  match k.shallows.head? with
  | none => b
  | some h =>
    if k.waitVictim.isEmpty || k.stallTold || (b.clk.cclk - k.victimSince) * 10 ^ 6 < b.clk.hz then b else
    let p := b.pondAt h.blk
    let cls := match h.wb.bind (fun id => b.findDReq (fun d => d.id == id)) with
      | some (_, d, _) => d.cls
      | none => b.wbClass
    (b.onCache (fun k => { k with stallTold := true })).event 0x64
      [(8, h.blk), (1, (b.coord p h.blk).chan), (1, cls), (4, k.waitVictim.length)]

/-- SHALLOWS_STALL. -/
def execShallowsStall (s : State) : Host.Outcome State Fault Refusal := s.does Block.shallowsStall

end Sys2Proof.Machine
end

