-- ==== Sys2Proof/Machine/Apply.lean ====
section
/-! DEFINITION. What a change of live configuration does in the cclk of application (R136), and the values that read-only fields
report. -/

namespace Sys2Proof.Machine

/-! ### Effects of carried records

`t` is the configuration before; the block holds the one after. -/

/-- Instances of a record among carried ones. -/
def instsOf (recs : List (Nat × Nat)) (id : Nat) : List Nat := (recs.filter (fun e => e.1 == id)).map (·.2)

/-- A field differs from the configuration `t`. -/
def Block.moved (b : Block) (t : Tab Nat) (id inst bit : Nat) : Bool := !(b.f id inst bit == cfgGet t id inst bit)

/-- A field rises from zero. -/
def Block.rises (b : Block) (t : Tab Nat) (id inst bit : Nat) : Bool := cfgGet t id inst bit == 0 && !(b.f id inst bit == 0)

/-- A field falls to zero. -/
def Block.falls (b : Block) (t : Tab Nat) (id inst bit : Nat) : Bool := !(cfgGet t id inst bit == 0) && b.f id inst bit == 0

/-- A policer: a change of MODE empties both buckets; rates change from now on, and depths clip (R177). -/
def Block.applyPolicer (t : Tab Nat) (b : Block) (s : Nat) : Block :=
  let p := polOf b.cfg s
  let now := b.clk.cclk
  if polOf t s = p then b
  else b.modSlot s (fun k =>
    if b.moved t 0x0500 s 0 then { k with polC := { tok := 0, last := now }, polP := { tok := 0, last := now } }
    else
      let k := k.refill (polOf t s) b.clk.hz now
      { k with polC := k.polC.clip p.cbs, polP := k.polP.clip p.pbs })

/-- A shaper: a change of ENABLE empties it; RATE changes from now on, and BURST clips (R181, R182). -/
def Block.applyShaper (t : Tab Nat) (b : Block) (i : Nat) : Block :=
  let c := i / 8
  let k := i % 8
  let put := fun (b : Block) (n : Bucket) => b.modChan c (fun ch => { ch with shapers := tput {} ch.shapers k n })
  let b :=
    if b.moved t 0x0600 i 0 then put b { tok := 0, last := b.clk.cclk }
    else if b.moved t 0x0600 i 32 || b.moved t 0x0600 i 64 then
      put b (({ b with cfg := t }.shBucket c k).clip (b.f 0x0600 i 64))
    else b
  if b.shFrozen c k then b
  else b.modChan c (fun ch => { ch with frozenTold := if ch.frozenTold.testBit k then ch.frozenTold - 2 ^ k else ch.frozenTold })

/-- A pond is disabled (R152, R334, R379). -/
def Block.disablePond (t : Tab Nat) (b : Block) (p : Nat) : Block :=
  let b := b.modPond p (fun r => { r with draining := r.draining ++ [(placeOf t p, b.clk.ns)] })
  let b := (((b.discardPond p).dropRanges p).clearTiles p).stopTiles p stAddressInvalid
  { b with jobs := b.jobs.map (fun (j : FillJob) => if j.pond == p then { j with stopped := true } else j) }

/-- A pond: disabled, or enabled with its tiles unwritten and its walk at block 0 (R168, R346). -/
def Block.applyPond (t : Tab Nat) (b : Block) (p : Nat) : Block :=
  if p == 63 then b
  else if b.falls t 0x0300 p 16 then b.disablePond t p
  else if b.rises t 0x0300 p 16 then (b.clearTiles p).restartWalk p
  else b

/-- An arbiter: RESERVE_INTERVAL set from 0 starts at 0, and a debug seed is loaded (R200, R210); the answer says that it was. -/
def Block.applyArbiter (t : Tab Nat) (a : Block × List Nat) (c : Nat) : Block × List Nat :=
  let b := a.1
  let b := if b.rises t 0x0800 c 0 then b.modChan c (fun ch => { ch with resCount := 0 }) else b
  if b.flag 0x0800 c 16 && (b.moved t 0x0800 c 16 || b.moved t 0x0800 c 32) then
    (b.modChan c (fun ch => { ch with lfsr := nonzeroSeed (BitVec.ofNat 32 (b.f 0x0800 c 32)) }), a.2 ++ [c])
  else (b, a.2)

/-- DEBUG_SEED_IN_USE for the arbiters loaded, outside FACTORY (R213). -/
def Block.seedEvent (b : Block) (cs : List Nat) : Block :=
  if cs.isEmpty || b.lc == .factory then b else b.event 0x48 [(1, (cs.map (2 ^ ·)).sum), (1, b.lc.code)]

/-- A governor: GOVERN set starts the level at 0 (R268), and GOVERN cleared ends a shortage (R267). -/
def Block.applyGovernor (t : Tab Nat) (b : Block) (c : Nat) : Block :=
  if b.rises t 0x0B00 c 0 then b.modChan c (fun ch => { ch with gov := { ch.gov with level := 0 } }) else b.endShort c

/-- RFM_ENABLE set starts every count at 0 (R260). -/
def Block.applyRfm (t : Tab Nat) (b : Block) (c : Nat) : Block :=
  if b.rises t 0x0A00 c 1 then b.modChan c (fun ch => { ch with queues := ch.queues.map (fun (k : Queue) =>
    { k with banks := k.banks.map (fun e => (e.1, { e.2 with raa := 0 })) }) })
  else b

/-- A channel record: a channel that is no longer in use reads state 0 (R58). -/
def Block.applyChannel (t : Tab Nat) (b : Block) (c : Nat) : Block :=
  if b.falls t 0x0100 c 0 then b.modChan c (fun ch => { ch with state := 0 }) else b

/-- Retirement that ends sets every count of the unit to zero (R292). -/
def Block.applyUnretired (t : Tab Nat) (b : Block) (c : Nat) : Block :=
  (List.range 8).foldl (fun (b : Block) u =>
    if b.falls t 0x0C01 c (8 * u) then
      b.modChan c (fun ch => { ch with rebuilds := tclear ch.rebuilds (16 * u) (16 * u + 16) })
    else b) b

/-- Devices retired by a write, with their event (R289, R292). -/
def Block.applyRetired (t : Tab Nat) (b : Block) (c : Nat) : Block :=
  (List.range 8).foldl (fun (b : Block) u =>
    if b.rises t 0x0C01 c (8 * u) then
      let dev := b.f 0x0C01 c (8 * u) - 1
      b.retireEvent c u dev (tget {} (b.chan c).rebuilds (16 * u + dev)).start true
    else b) b

/-- Select words: a change clears the counter (R438). -/
def Block.applySelect (id set : Nat) (t : Tab Nat) (b : Block) (inst : Nat) : Block :=
  (List.range 8).foldl (fun (b : Block) i =>
    if [0, 8, 16, 24, 25].any (fun k => b.moved t id inst (32 * i + k)) then b.clearCounter (set + inst) i else b) b

/-- Soundings: ENABLE set, or a change of SAMPLE_EXP, reloads the countdown (R445, R446). -/
def Block.applySoundings (t : Tab Nat) (b : Block) (_ : Nat) : Block :=
  if b.rises t 0x1010 0 0 || b.moved t 0x1010 0 2 then b.reloadSampling else b

/-- DIRTY_AGE applies to lines that become dirty later (R369). -/
def Block.applyAge (t : Tab Nat) (b : Block) (_ : Nat) : Block :=
  if b.moved t 0x0E00 0 32 then b.onCache (fun k => { k with lines := k.lines.map (fun e =>
    if e.2.dirty && e.2.age.isNone then (e.1, { e.2 with age := some (cfgGet t 0x0E00 0 32) }) else e) })
  else b

/-- WF_READY is kept with the walk of its pond (R346). -/
def Block.applyReady (b : Block) (p : Nat) : Block :=
  { b.modDredge p (fun w => { w with wfReady := b.flag 0x0C03 p 0 }) with cfg := cfgReset b.cfg 0x0C03 p }

/-- Effects that record no event. -/
def Block.applyQuiet (b : Block) (t : Tab Nat) (recs : List (Nat × Nat)) : Block :=
  let overAll := fun (b : Block) (id : Nat) (g : Block → Nat → Block) => (instsOf recs id).foldl g b
  let b := overAll b 0x0500 (Block.applyPolicer t)
  let b := overAll b 0x0600 (Block.applyShaper t)
  let b := overAll b 0x0300 (Block.applyPond t)
  let b := overAll b 0x0B00 (Block.applyGovernor t)
  let b := overAll b 0x0A00 (Block.applyRfm t)
  let b := overAll b 0x0100 (Block.applyChannel t)
  let b := overAll b 0x0C01 (Block.applyUnretired t)
  let b := overAll b 0x1000 (Block.applySelect 0x1000 0 t)
  let b := overAll b 0x1001 (Block.applySelect 0x1001 1 t)
  let b := overAll b 0x1010 (Block.applySoundings t)
  let b := overAll b 0x0E00 (Block.applyAge t)
  overAll b 0x0C03 Block.applyReady

/-- Channels whose alignment is judged again (R262). -/
def realignMask (recs : List (Nat × Nat)) : Nat :=
  if recs.contains (0x0A01, 0) then 255
  else (List.range 8).foldl (fun m c => if recs.contains (0x0A00, c) || recs.contains (0x0100, c) then m + 2 ^ c else m) 0

/-- New ponds over a channel that is fenced or has failed are lost from the start (R169). -/
def Block.loseNew (t : Tab Nat) (b : Block) (p : Nat) : Block :=
  let bad := (maskList (b.members p)).filter (fun c => [1, 5, 7].contains (b.chan c).state)
  if b.serving && p < 63 && b.rises t 0x0300 p 16 && !bad.isEmpty then b.losePond p 0 ((bad.map (2 ^ ·)).sum) else b

/-- Effects that record events, in ascending order of code (R419). `arm` says that a transaction carries the pending list (R188). -/
def Block.applyLoud (b : Block) (t : Tab Nat) (recs : List (Nat × Nat)) (arm : Bool) : Block :=
  let overAll := fun (b : Block) (id : Nat) (g : Block → Nat → Block) => (instsOf recs id).foldl g b
  let b := overAll b 0x0600 (fun b i => b.tellFrozen (i / 8) (i % 8))
  let b := if arm && b.flag 0x0700 0 16 then b.armList b.blockTime false else b
  let a := (instsOf recs 0x0800).foldl (Block.applyArbiter t) (b, [])
  let b := (a.1.seedEvent a.2).realignChans (realignMask recs)
  let b := (overAll b 0x0300 (Block.loseNew t)).endDrains
  let b := overAll b 0x0C01 (Block.applyRetired t)
  overAll b 0x0B01 (fun b _ =>
    let b := match b.pins.dieTemp with
      | some x => b.dieTemp x
      | none => b
    ((List.range 8).filter b.chanServes).foldl (fun (b : Block) c => b.thermal c) b)

/-- The results of a check take effect together: `evs` are the events of the reply. -/
def Block.applyConfig (b : Block) (k : Chk) (arm : Bool) (evs : List Ev) : Block :=
  let t := b.cfg
  let b := { b with cfg := k.new }
  ((b.applyQuiet t k.carried).events evs).applyLoud t k.carried arm

/-! ### Values of read-only fields -/

/-- A map record's field (R351). -/
def SpareRec.field (r : SpareRec) (bit : Nat) : Nat :=
  match bit with
  | 0 => r.identity
  | 64 => if r.repaired then 1 else 0
  | 65 => r.sc | 66 => r.dimmRank | 68 => r.cid | 71 => r.bg | 74 => r.ba | 76 => r.row | 94 => r.spare
  | _ => 0

/-- A field of record 0x0101 (R310). -/
def Phy.field (h : Phy) (bit : Nat) : Nat :=
  match bit with
  | 0 => h.vddqMv
  | 16 => if h.present.getD 0 false then 1 else 0
  | 17 => if h.present.getD 1 false then 1 else 0
  | 18 => h.sbMode
  | 24 => h.devType.getD 0 0 | 32 => h.devType.getD 1 0
  | 64 => h.identity.getD 0 0 | 128 => h.identity.getD 1 0
  | _ => h.temps.getD ((bit - 192) / 16) 0x8000

/-- A field of record 0x0C03 (R346). -/
def Dredge.field (w : Dredge) (bit : Nat) : Nat :=
  match bit with
  | 0 => if w.wfReady then 1 else 0
  | 32 => w.passes | 64 => w.cursor | _ => twos 8 w.passStart

/-- A field of record 0x0F04 (R428). -/
def Log.field (l : Log) (bit : Nat) : Nat :=
  match bit with
  | 0 => l.recs.length | 16 => l.nextSeq | 32 => recsSize l.recs | 64 => l.oldest
  | _ => if bit < 256 then l.evicted.getD ((bit - 128) / 32) 0 else l.discarded.getD ((bit - 256) / 32) 0

/-- A field of record 0x1011 (R451). -/
def Snd.field (s : Snd) (bit : Nat) : Nat :=
  match bit with
  | 0 => s.writeIndex
  | 12 => if s.stopped then 1 else 0
  | 13 => if s.wrapped then 1 else 0
  | 16 => s.records | 32 => s.lost | _ => s.sampled

/-- A field of record 0x0E01 (R375). -/
def preloadField (r : Option Preload) (bit : Nat) : Nat :=
  match r, bit with
  | none, _ => 0
  | some r, 0 => r.first
  | some r, 38 => r.way
  | some _, 42 => 1
  | some r, _ => r.count

/-- The arbiter counter that a field of record 0x1003 reads (R444). -/
def arbField (bit : Nat) : Nat :=
  match bit with | 0 => 0 | 48 => 1 | 96 => 2 | 144 => 3 | 176 => 4 | _ => 5

/-- The value that a field reads (R15). -/
def Block.fieldVal (b : Block) (id inst bit : Nat) : Nat :=
  match id with
  | 0x0101 => (b.chan inst).phy.field bit
  | 0x0102 => ((((b.chan (inst / 2)).phy.spd.getD (inst % 2) []).getD (bit / 8) 0)).toNat
  | 0x0300 => if bit == 56 then (if (b.pondRt inst).draining.isEmpty then 0 else 1) else b.f id inst bit
  | 0x0A00 =>
    let ch := b.chan inst
    if bit == 8 then (if ch.turn.aligned then 1 else 0)
    else if bit == 9 then (if ch.turn.doubled then 1 else 0)
    else if bit == 120 then ch.pdDisabled else b.f id inst bit
  | 0x0C03 => (tget {} b.dredge inst).field bit
  | 0x0D01 => b.spares.length
  | 0x0D02 => ((b.spares[inst]?).map (fun r => r.field bit)).getD 0
  | 0x0E01 => preloadField (aget b.preloads inst) bit
  | 0x0F00 => if bit == 32 then tget 0 b.log.occ inst else b.f id inst bit
  | 0x0F04 => b.log.field bit
  | 0x1003 => tget 0 b.ctr.arb (8 * inst + arbField bit)
  | 0x1011 => b.snd.field bit
  | 0x1101 => tget 0 (b.chan (inst / 8)).phy.margins (2048 * (inst % 8) + bit)
  | _ => b.f id inst bit

/-- A record as a little-endian number. -/
def Block.recordNat (b : Block) (id inst : Nat) : Nat :=
  (recFields id inst).foldl (fun n f => n + b.fieldVal id inst f.bit * 2 ^ f.bit) 0

/-- A record as bytes, as CONFIG_READ returns it. -/
def Block.recordBytes (b : Block) (id inst : Nat) : List Byte :=
  leBytes (((recShape id).map (·.1)).getD 0) (b.recordNat id inst)

end Sys2Proof.Machine
end

