-- ==== Sys2Proof/Machine/Settings.lean ====
section
/-! DEFINITION. Packets that write, read, stage and commit configuration (R136 to R139). -/

namespace Sys2Proof.Machine

/-- The DETAIL for which records are refused: 1 unknown record, 2 an instance that the record does not have. -/
def recordRefused (id inst count : Nat) : Option Nat :=
  match recShape id with
  | none => some 1
  | some s => if count = 0 || inst + count ≤ s.2 then none else some 2

/-- A reply that refuses, or the packet's own work. -/
def Block.orRefuse (b : Block) (src : Src) (p : Packet) (d : Option Nat) (go : Block → Block) : Block :=
  match d with
  | some n => b.echo src p stRejected n
  | none => go b

/-- A change that IMAGE_SAVE has not saved (R386, DETAIL 3). -/
def Block.unsaved (b : Block) : Block := { b with stat := { b.stat with savedSince := false } }

/-- CONFIG_WRITE: every record is checked, and all the results take effect together (R136). -/
def Block.configWrite (b : Block) (src : Src) (p : Packet) : Block :=
  let id := pP0 p 0 16
  let inst := pP0 p 16 16
  let count := pP0 p 32 8
  b.orRefuse src p (recordRefused id inst count) (fun b =>
    if count = 0 then b.echo src p stOk 0 else
    let size := ((recShape id).map (·.1)).getD 0
    let k := checkPacket b ((List.range count).map (fun j => (id, inst + j, pBody p (size * j) size)))
    let body := b.repBody k.rep
    (b.unsaved.applyConfig k false (repEvents src p k.rep)).reply src p (repStatus k.rep) 0 p.param0.toNat body)

/-- CONFIG_WRITE. -/
def execConfigWrite (src : Src) (p : Packet) (s : State) : Host.Outcome State Fault Refusal := s.packet 0x10 src p Block.configWrite

/-- The bytes that CONFIG_READ returns: from OFFSET to the end of the last instance, at most 496. -/
def Block.configBytes (b : Block) (id inst count off : Nat) : List Byte :=
  let size := ((recShape id).map (·.1)).getD 8
  (((List.range (min count (off * 8 / size + 496 / size + 2))).flatMap (fun j => b.recordBytes id (inst + j))).drop (8 * off)).take 496

/-- CONFIG_READ. -/
def Block.configRead (b : Block) (src : Src) (p : Packet) : Block :=
  let id := pP0 p 0 16
  let inst := pP0 p 16 16
  let count := pP0 p 32 8
  b.orRefuse src p (recordRefused id inst count) (fun b =>
    b.reply src p stOk 0 p.param0.toNat (b.configBytes id inst count (pP0 p 40 16)))

/-- CONFIG_READ. -/
def execConfigRead (src : Src) (p : Packet) (s : State) : Host.Outcome State Fault Refusal := s.packet 0x11 src p Block.configRead

/-! ### Transactions (R137 to R139) -/

/-- The open transactions less one. -/
def Block.dropTxn (b : Block) (src : Src) (id : Nat) : Block :=
  { b with pkts := { b.pkts with txns := b.pkts.txns.filter (fun t => !(t.src == src && t.id == id)) } }

/-- Bytes staged in all. -/
def Block.stagedBytes (b : Block) : Nat := (b.pkts.txns.map (·.bytes)).sum

/-- Staged bytes of a record with more from byte `off` on; the answer counts the bytes that are new. -/
def stageBytes (t : Tab Nat) (off : Nat) (bs : List Byte) : Tab Nat × Nat :=
  (bs.zipIdx).foldl (fun a e =>
    (aput a.1 (off + e.2) e.1.toNat, if (aget a.1 (off + e.2)).isSome then a.2 else a.2 + 1)) (t, 0)

/-- The staged bytes of one record in a list kept in ascending order of record and instance. -/
def putStaged (id inst : Nat) (x : Tab Nat) : List (Nat × Nat × Tab Nat) → List (Nat × Nat × Tab Nat)
  | [] => [(id, inst, x)]
  | e :: t =>
    if e.1 = id ∧ e.2.1 = inst then (id, inst, x) :: t
    else if id < e.1 ∨ (id = e.1 ∧ inst < e.2.1) then (id, inst, x) :: e :: t
    else e :: putStaged id inst x t

/-- CONFIG_STAGE: nothing is staged where it would open a fifth transaction or exceed 32 KiB. -/
def Block.configStage (b : Block) (src : Src) (p : Packet) : Block :=
  let txn := pP0 p 0 16
  let id := pP0 p 16 16
  let inst := pP0 p 32 16
  let off := 8 * pP0 p 48 16
  b.orRefuse src p (recordRefused id inst 1) (fun b =>
    let size := ((recShape id).map (·.1)).getD 0
    let x : Txn := (b.txn? src txn).getD { src := src, id := txn }
    let old := ((x.staged.find? (fun e => e.1 == id && e.2.1 == inst)).map (·.2.2)).getD []
    let n := stageBytes old off (p.body.take (size - off))
    if ((b.txn? src txn).isNone && 4 ≤ b.pkts.txns.length) || 32768 < b.stagedBytes + n.2 then b.reply src p stNotReady 0 0 []
    else
      let x := { x with staged := putStaged id inst n.1 x.staged, bytes := x.bytes + n.2, last := b.clk.ns }
      let b := b.dropTxn src txn
      { b with pkts := { b.pkts with txns := b.pkts.txns ++ [x] } }.echo src p stOk 0)

/-- CONFIG_STAGE. -/
def execConfigStage (src : Src) (p : Packet) (s : State) : Host.Outcome State Fault Refusal := s.packet 0x12 src p Block.configStage

/-- A staged record as a number: live bytes where none was staged (R139). -/
def Block.stagedNat (b : Block) (e : Nat × Nat × Tab Nat) : Nat :=
  leNat (((b.recordBytes e.1 e.2.1).zipIdx).map (fun x => ((aget e.2.2 x.2).map (BitVec.ofNat 8 ·)).getD x.1))

/-- CONFIG_COMMIT: the whole transaction is checked and, unless CHECK_ONLY is set, applied and closed. -/
def Block.configCommit (b : Block) (src : Src) (p : Packet) : Block :=
  let txn := pP0 p 0 16
  match b.txn? src txn with
  | none => b.answer src p stRejected 3 p.param0.toNat []
  | some x =>
    let objs := b.objects src p
    let k := checkPacket b (x.staged.map (fun e => (e.1, e.2.1, b.stagedNat e)))
    let evs := repEvents src p k.rep
    if pP0 p 16 1 == 1 then
      (b.events evs).replyHold src p objs (repStatus k.rep) 0 p.param0.toNat (reportBody k.rep 30 0)
    else
      let body := b.repBody k.rep
      ((b.dropTxn src txn).unsaved.applyConfig k (k.carried.contains (0x0700, 0)) evs).replyHold src p objs (repStatus k.rep) 0 p.param0.toNat body

/-- CONFIG_COMMIT. -/
def execConfigCommit (src : Src) (p : Packet) (s : State) : Host.Outcome State Fault Refusal := s.packet 0x13 src p Block.configCommit

/-- CONFIG_ABORT. -/
def Block.configAbort (b : Block) (src : Src) (p : Packet) : Block :=
  let txn := pP0 p 0 16
  (b.dropTxn src txn).echo src p stOk (if (b.txn? src txn).isSome then 0 else 1)

/-- CONFIG_ABORT. -/
def execConfigAbort (src : Src) (p : Packet) (s : State) : Host.Outcome State Fault Refusal := s.packet 0x14 src p Block.configAbort

/-- A transaction that has received no CONFIG_STAGE for 1 s is discarded (R138). -/
def Block.expire (b : Block) (src : Src) (txn : Nat) : Block :=
  match b.txn? src txn with
  | none => b
  | some x =>
    if b.clk.ns < x.last + 10 ^ 9 then b
    else (b.dropTxn src txn).event 0x27 [(1, srcNum src), (2, txn), (4, x.bytes)]

/-- STAGE_EXPIRED. -/
def execStageExpired (src : Src) (txn : BitVec 16) (s : State) : Host.Outcome State Fault Refusal :=
  s.does (fun b => b.expire src txn.toNat)

end Sys2Proof.Machine
end

