-- ==== Sys2Proof/Machine/Reports.lean ====
section
/-! DEFINITION. Packets of the silt log, the counters and the soundings, and the events that close their intervals (R421 to R428,
R435 to R452). -/

namespace Sys2Proof.Machine

/-! ### EVENTS_READ (R425, R427) -/

/-- Records from the first at or after `first`, counted forward from OLDEST_SEQ. -/
def Log.fromSeq (l : Log) (first : Nat) : List LogRec :=
  let fwd := fun s => (s + 2 ^ 16 - l.oldest) % 2 ^ 16
  l.recs.dropWhile (fun r => fwd r.seq < fwd first)

/-- The whole records that fit in `room` bytes, at most `n` of them. -/
def fitRecs : Nat → Nat → List LogRec → List LogRec
  | 0, _, _ => []
  | _, _, [] => []
  | n + 1, room, r :: t => if r.size ≤ room then r :: fitRecs n (room - r.size) t else []

/-- The records that EVENTS_READ returns, and those that follow. -/
def Log.page (l : Log) (first limit : Nat) : List LogRec × List LogRec :=
  let rs := l.fromSeq first
  let out := fitRecs (if limit = 0 then 62 else limit) 496 rs
  (out, rs.drop out.length)

/-- PARAM0 of the reply: MORE, the count and the SEQ at which to continue. -/
def Log.pageP0 (l : Log) (pg : List LogRec × List LogRec) : Nat :=
  (if pg.2.isEmpty then 0 else 1) + pg.1.length * 2 ^ 8 + ((pg.2.head?.map (·.seq)).getD l.nextSeq) * 2 ^ 16

/-- EVENTS_READ. A record that fails parity is removed, and a parity error in the index clears the log. -/
def Block.eventsRead (f : SramFault) (b : Block) (src : Src) (p : Packet) : Block :=
  let first := pP0 p 0 16
  let limit := pP0 p 16 8
  let send := fun (b : Block) (fault : Option Nat) =>
    let pg := b.log.page first limit
    let body := pg.1.flatMap (fun r => r.bytes false)
    let p0 := b.log.pageP0 pg
    let b := match fault with
      | some _ => b.parity 4 p.requester.toNat 0 7
      | none => b
    b.reply src p stOk 0 p0 body
  match f with
  | .entry k =>
    let bad := ((b.log.page first limit).1.find? (fun r => (b.log.recs[k]?).any (fun x => x.seq == r.seq))).map (·.seq)
    match bad with
    | some s => send { b with log := { b.log with recs := b.log.recs.filter (fun r => !(r.seq == s)) } } bad
    | none => send b none
  | .index =>
    let b := (b.eventsClear p.requester.toNat).1.parity 4 p.requester.toNat 0 7
    b.reply src p stOk 0 (b.log.oldest * 2 ^ 16) []
  | _ => send b none

/-- EVENTS_READ. -/
def execEventsRead (src : Src) (p : Packet) (f : SramFault) (s : State) : Host.Outcome State Fault Refusal :=
  s.packet 0x60 src p (Block.eventsRead f)

/-! ### EVENTS_SUBSCRIBE (R135, R428) -/

/-- The bit of code `e` in a 32-byte body. -/
def subBit (p : Packet) (e : Nat) : Bool := ((p.body.getD (e / 8) 0)).getLsbD (e % 8)

/-- Why a subscription bit is cleared: 3 a reserved code, 6 a code that a tenant may not see. -/
def subReason (owner : Bool) (e : Nat) : Option Nat :=
  if evReserved e then some 3 else if owner || evTenantVisible e then none else some 6

/-- EVENTS_SUBSCRIBE: the sender's whole record is replaced. -/
def Block.eventsSubscribe (b : Block) (src : Src) (p : Packet) : Block :=
  let id := match src with | .mgmt => 0x0F03 | .inlet _ => 0x0F02
  let inst := match src with | .mgmt => 0 | .inlet _ => p.requester.toNat
  let owner := b.sendsAsOwner src p.requester.toNat
  let set := (List.range 256).filter (subBit p)
  let rep := set.filterMap (fun e => (subReason owner e).map (fun r => (⟨id, inst, e, r, 1, 0⟩ : RepEnt)))
  let cfg := (set.filter (fun e => (subReason owner e).isNone)).foldl (fun t e => cfgSet t id inst e 1) (cfgReset b.cfg id inst)
  { b with cfg := cfg }.replyReport src p [] rep []

/-- EVENTS_SUBSCRIBE. -/
def execEventsSubscribe (src : Src) (p : Packet) (s : State) : Host.Outcome State Fault Refusal :=
  s.packet 0x61 src p Block.eventsSubscribe

/-- EVENTS_CLEAR (R426). -/
def execEventsClear (src : Src) (p : Packet) (s : State) : Host.Outcome State Fault Refusal :=
  s.packet 0x62 src p (fun b src p =>
    let r := b.eventsClear p.requester.toNat
    r.1.reply src p stOk 0 r.2 [])

/-! ### Counters (R435 to R443) -/

/-- The body of COUNTERS_READ. -/
def Block.counterBody (b : Block) (set : Nat) : List Byte := if set < 0x10 then b.setBody set else b.visBody (set - 0x10)

/-- COUNTERS_READ. -/
def execCountersRead (src : Src) (p : Packet) (s : State) : Host.Outcome State Fault Refusal :=
  s.packet 0x70 src p (fun b src p => b.reply src p stOk 0 p.param0.toNat (b.counterBody (pP0 p 0 8)))

/-- COUNTERS_CLEAR: what happens in its cclk is not counted (R437). -/
def execCountersClear (src : Src) (p : Packet) (s : State) : Host.Outcome State Fault Refusal :=
  s.packet 0x71 src p (fun b src p => (b.echo src p stOk 0).clearSet (pP0 p 0 8))

/-! ### Soundings (R445 to R452) -/

/-- SOUNDINGS_READ; a slot whose parity fails is returned with TYPE 3. -/
def Block.soundingsRead (f : SramFault) (b : Block) (src : Src) (p : Packet) : Block :=
  let first := pP0 p 0 12
  let n := pP0 p 12 3
  let bad := match f with
    | .entry k => if (List.range n).any (fun j => (first + j) % sndSlots == k) then some k else none
    | _ => none
  let body := b.snd.read first n bad
  let b := if bad.isSome then b.parity 4 p.requester.toNat 0 7 else b
  b.reply src p stOk 0 p.param0.toNat body

/-- SOUNDINGS_READ. -/
def execSoundingsRead (src : Src) (p : Packet) (f : SramFault) (s : State) : Host.Outcome State Fault Refusal :=
  s.packet 0x72 src p (Block.soundingsRead f)

/-- SOUNDINGS_CONTROL: PARAM0 is checked and applied as a carried record 0x1010; CLEAR takes effect at the end of the cclk. -/
def Block.soundingsControl (b : Block) (src : Src) (p : Packet) : Block :=
  let k := checkPacket b [(0x1010, 0, p.param0.toNat)]
  let body := b.repBody k.rep
  let b := (b.applyConfig k false (repEvents src p k.rep)).reply src p (repStatus k.rep) 0 p.param0.toNat body
  if p.param0.getLsbD 63 then { b with snd := b.snd.clear } else b

/-- SOUNDINGS_CONTROL. -/
def execSoundingsControl (src : Src) (p : Packet) (s : State) : Host.Outcome State Fault Refusal :=
  s.packet 0x73 src p Block.soundingsControl

/-- Age in cclk of the oldest waiting request of a class. -/
def Chan.waitAge (ch : Chan) (now k : Nat) : Nat :=
  match ch.wait.filter (fun d => d.cls == k) with
  | [] => 0
  | d :: t => min (now - t.foldl (fun m x => min m x.born) d.born) 4194303

/-- The record of one channel (R449). -/
def Block.queueRecord (b : Block) (c : Nat) : Block512 :=
  let ch := b.chan c
  let n := fun q => min ((ch.queue q).ents.length) 511
  let w := fun q => min (((ch.queue q).ents.filter (·.whole)).length) 127
  let ddr4 := b.ddr4 c
  let w0 := 2 + c * 2 ^ 2 + bitAt ch.gov.short 5 + bitAt ch.turn.stalled 6 + bitAt ((ch.queue 0).dirWrite && !ddr4) 7 +
    bitAt ((ch.queue (if ddr4 then 0 else 1)).dirWrite) 8 + b.gates * 2 ^ 9 + n 0 * 2 ^ 17 + (if ddr4 then 0 else n 1) * 2 ^ 26 +
    w 0 * 2 ^ 35 + (if ddr4 then 0 else w 1) * 2 ^ 42
  let waits := ((List.range 8).map (fun k => (min (ch.waiting k) 1023 + ch.waitAge b.clk.cclk k * 2 ^ 10) * 2 ^ (128 + 32 * k))).sum
  BitVec.ofNat 512 (w0 + twos 8 b.blockTime * 2 ^ 64 + waits)

/-- A QUEUE_INTERVAL ends: one record of each selected serving channel, ascending. -/
def Block.queueSound (b : Block) : Block :=
  if !(b.flag 0x1010 0 0) || b.f 0x1010 0 16 == 0 || !b.clk.pll then b else
  ((List.range 8).filter (fun c => (b.f 0x1010 0 32).testBit c && b.chanServes c)).foldl
    (fun (b : Block) c => b.holdSnd (b.queueRecord c)) b

/-- QUEUE_SOUNDING. -/
def execQueueSounding (dt : Nat) (s : State) : Host.Outcome State Fault Refusal :=
  s.does (fun b => (b.advance dt).queueSound)

/-! ### Rate-limit windows (R421, R422) -/

/-- A rate-limit window closes and the next begins, with BUDGET and WINDOW as configured (R428). -/
def Block.windowEnds (b : Block) : Block := if b.mode == .off then b else b.closeWindow.newLimits

/-- RATE_WINDOW_BOUNDARY. -/
def execRateWindowBoundary (dt : Nat) (s : State) : Host.Outcome State Fault Refusal :=
  s.does (fun b => (b.advance dt).windowEnds)

end Sys2Proof.Machine
end

