-- ==== Sys2Proof/Machine/Train.lean ====
section
/-! DEFINITION. TRAIN and VERIFY (R313, R320 to R323). -/

namespace Sys2Proof.Machine

/-- Channels that a TRAIN or VERIFY names and that are in use. -/
def Block.named (b : Block) (p : Packet) : List Nat := (maskList (pP0 p 0 8)).filter b.inUse

/-- A list of channels as a mask. -/
def maskOf (cs : List Nat) : Nat := (cs.map (2 ^ ·)).sum

/-- Serving channels are fenced, "taken offline". -/
def Block.takeOffline (b : Block) (cs : List Nat) : Block := cs.foldl (fun (b : Block) c => b.fence c 3 id) b

/-- TRAIN: with OFFLINE_ONLY it takes serving channels offline; otherwise training of every named channel begins, in DEGRADED
after serving ones have been taken offline (R323). -/
def Block.train (b : Block) (src : Src) (p : Packet) : Block :=
  let cs := b.named p
  let off := pP0 p 8 1 == 1
  let up := cs.filter b.chanServes
  let ext := if b.mode == .commission then 1 else 0
  let b := if off || b.mode == .degraded then b.takeOffline up else b
  let b := { b with stat := { b.stat with savedSince := false } }
  if off then b.answer src p stOk 0 (maskOf up) []
  else if cs.isEmpty then b.answer src p stOk 0 0 []
  else
    let b := cs.foldl (fun (b : Block) c => b.modChan c (fun ch => ch.stop 2)) b
    b.beginOp src p (fun o => { o with n := maskOf cs, m := ext })

/-- TRAIN. -/
def execTrain (src : Src) (p : Packet) (s : State) : Host.Outcome State Fault Refusal := s.packet 0x23 src p Block.train

/-- The value that a list gives for a channel. -/
def chanVal {α : Type} (l : List (Fin 8 × α)) (c : Nat) : Option α := (l.find? (fun e => e.1.val == c)).map (·.2)

/-- One channel of a TRAIN ends: full read, SPD check and training; the last component says that it passed. A channel that VDDQ
stopped keeps state 1 (R322), and one that is no longer in use stays so. -/
def Block.trainOne (b : Block) (ext : Nat) (found : List SlotInfo) (spd : List SpdInfo) (res : TrainRes) (c : Nat) :
    Block × List Ev × Bool :=
  let fail := fun (b : Block) (evs : List Ev) => (b.modChan c (fun ch => { ch with state := 7 }), evs, false)
  if (b.chan c).state == 1 || !(b.inUse c) then (b, [], false) else
  let k := ((b.fullRead c found).saveIds c).spdCheck c spd
  if !k.2.2 then fail k.1 k.2.1 else
  let b := k.1.trainChan c (1 + ext) res
  match res.fail with
  | some f => fail b (k.2.1 ++ [verifyEv f c])
  | none =>
    let r := b.becomeReady c
    (r.1, k.2.1 ++ r.2, true)

/-- TRAIN ends: each channel is ready or reads state 7; the reply and TRAINING_DONE say which. -/
def Block.trained (b : Block) (found : List SlotInfo) (spd : List (Fin 8 × SpdInfo)) (res : List (Fin 8 × TrainRes)) (us : Nat) : Block :=
  match b.op? 0x23 with
  | none => b
  | some o =>
    let cs := maskList o.n
    if !(cs.all (fun c => (b.chan c).state == 1 || !(b.inUse c) || (chanVal res c).isSome)) then b else
    let a := cs.foldl (fun (a : Block × List Ev × Nat) c =>
      let one := a.1.trainOne o.m found ((spd.filter (fun e => e.1.val == c)).map (·.2))
        ((chanVal res c).getD { units := [], fail := none }) c
      (one.1, a.2.1 ++ one.2.1, a.2.2 + (if one.2.2 then 2 ^ c else 0))) (b, [], 0)
    let passed := a.2.2
    let failed := o.n - passed
    let b := { a.1 with stat := { a.1.stat with savedSince := false } }.events (a.2.1 ++ [(0x35, [(1, passed), (1, failed), (1, o.m), (4, sat32 us)])])
    b.endOps (fun x => x.pkt.opcode == 0x23) stOk 0 (fun _ => passed + failed * 2 ^ 8) (fun _ => [])

/-- TRAINING_DONE. -/
def execTrainingDone (found : List SlotInfo) (spd : List (Fin 8 × SpdInfo)) (res : List (Fin 8 × TrainRes)) (us : Nat) (s : State) :
    Host.Outcome State Fault Refusal := s.does (fun b => b.trained found spd res us)

/-- VERIFY: the quick verify begins on every named channel that does not serve (R323). -/
def Block.verify (b : Block) (src : Src) (p : Packet) : Block :=
  let cs := (b.named p).filter (fun c => !(b.chanServes c))
  if cs.isEmpty then b.answer src p stOk 0 0 [] else b.beginOp src p (fun o => { o with n := maskOf cs })

/-- VERIFY. -/
def execVerify (src : Src) (p : Packet) (s : State) : Host.Outcome State Fault Refusal := s.packet 0x24 src p Block.verify

/-- VERIFY ends; it changes no channel. -/
def Block.verified (b : Block) (res : List (Fin 8 × Option VerifyFail)) : Block :=
  match b.op? 0x24 with
  | none => b
  | some o =>
    let cs := maskList o.n
    if !(cs.all (fun c => (chanVal res c).isSome)) then b else
    let bad := cs.filterMap (fun c => ((chanVal res c).getD none).map (fun f => (c, verifyEv f c)))
    let failed := maskOf (bad.map (·.1))
    (b.events (bad.map (·.2))).endOps (fun x => x.pkt.opcode == 0x24) stOk 0
      (fun _ => (o.n - failed) + failed * 2 ^ 8) (fun _ => [])

/-- VERIFY_DONE. -/
def execVerifyDone (res : List (Fin 8 × Option VerifyFail)) (s : State) : Host.Outcome State Fault Refusal :=
  s.does (fun b => b.verified res)

end Sys2Proof.Machine
end

