-- ==== Sys2Proof/Machine/Sparing.lean ====
section
/-! DEFINITION. Row sparing and post-package repair (R348 to R353). -/

namespace Sys2Proof.Machine

/-! ### SPARE_ADD (R349) -/

/-- The place of an entry as coordinates. -/
def CamEnt.coord (c : Nat) (e : CamEnt) : Coord := { chan := c, sc := e.sc, rank := e.rank, cid := e.cid, bg := e.bg, ba := e.ba, row := e.row }

/-- The row lies in the spare area of its bank. -/
def Block.spareArea (b : Block) (x : Coord) : Bool := (geoOf b.cfg x.chan).rows ≤ x.row + b.f 0x0D00 x.chan 0

/-- The lowest free spare index of a bank; index 0 of bank group 0, bank 0 is the verify row (R348). -/
def Block.freeSpare (b : Block) (x : Coord) : Option Nat :=
  (List.range (b.f 0x0D00 x.chan 0)).find? (fun k =>
    !(k == 0 && x.bg == 0 && x.ba == 0) && !((b.chan x.chan).cam.any (fun e => e.inBank x && e.spare == k)))

/-- Slot and rank within the DIMM of a physical rank (R352). -/
def Block.dimmOf (b : Block) (c rank : Nat) : Nat × Nat := (rank / 2 ^ b.f 0x0100 c 6, rank % 2 ^ b.f 0x0100 c 6)

/-- Identity of the DIMM of a rank. -/
def Block.dimmIdentity (b : Block) (c rank : Nat) : Nat := (b.chan c).phy.identity.getD (b.dimmOf c rank).1 0

/-- The DETAIL for which a SPARE_ADD is refused. -/
def Block.spareRefused (b : Block) (x : Coord) : Option Nat :=
  if !(b.chanServes x.chan) then some 2
  else if !(b.inGeometry x) || b.spareArea x then some 3
  else if b.f 0x0D00 x.chan 0 == 0 then some 4
  else if (b.freeSpare x).isNone then some 5
  else if (freeCam (b.chan x.chan).cam).isNone then some 6
  else if 2048 ≤ b.spares.length then some 7
  else if b.dimmIdentity x.chan x.rank == 0 then some 8
  else none

/-- SPARE_ADD: refused, answered with the entry that the row has, or begun. -/
def Block.spareAdd (b : Block) (src : Src) (p : Packet) : Block :=
  let x := coordOfParam p.param0.toNat
  let ch := b.chan x.chan
  let have_ := if b.chanServes x.chan && b.inGeometry x && !(b.spareArea x) then ch.cam.find? (fun e => e.active && e.maps x) else none
  match have_, b.spareRefused x with
  | some e, _ => b.answer src p stOk 1 e.idx []
  | none, some d =>
    let b := if d = 6 then b.event (chanCode x.chan 0xC) [(8, x.param), (2, ch.cam.length)] else b
    b.answer src p stRejected d p.param0.toNat []
  | none, none =>
    let idx := (freeCam ch.cam).getD 0
    let e : CamEnt := { idx := idx, active := false, sc := x.sc, rank := x.rank, cid := x.cid, bg := x.bg, ba := x.ba, row := x.row,
                        spare := (b.freeSpare x).getD 0 }
    (b.modChan x.chan (fun ch => { ch with cam := insCam e ch.cam, copy := some { idx := idx, col := 0, mask := 0, copied := 0, poisoned := 0 } })).beginOp
      src p (fun o => { o with n := x.chan })

/-- SPARE_ADD. -/
def execSpareAdd (src : Src) (p : Packet) (s : State) : Host.Outcome State Fault Refusal := s.packet 0x80 src p Block.spareAdd

/-- A record of the sparing map for a place (R351). -/
def Block.spareRec (b : Block) (x : Coord) (repaired : Bool) (spare : Nat) : SpareRec :=
  { identity := b.dimmIdentity x.chan x.rank, repaired := repaired, sc := x.sc, dimmRank := (b.dimmOf x.chan x.rank).2, cid := x.cid,
    bg := x.bg, ba := x.ba, row := x.row, spare := spare }

/-- A record is appended to the map, and to the image in retention SRAM. -/
def Block.appendSpare (b : Block) (r : SpareRec) : Block :=
  if 2048 ≤ b.spares.length then b
  else { b with spares := b.spares ++ [r], ret := b.ret.map (fun i => { i with spares := i.spares ++ [r] }) }

/-- The copy of a row ends: its entry is active, and the map holds it. -/
def Block.spareAdded (b : Block) (c : Nat) : Block :=
  let ch := b.chan c
  match ch.copy, b.pkts.ops.find? (fun o => o.pkt.opcode == 0x80 && o.n == c) with
  | some k, some o =>
    if k.busy || k.col < 2 ^ (geoOf b.cfg c).colb then b else
    match ch.cam.find? (fun e => e.idx == k.idx) with
    | none => b
    | some e =>
      let x := e.coord c
      let b := b.modChan c (fun ch => { ch with
        copy := none, cam := ch.cam.map (fun x => if x.idx == k.idx then { x with active := true } else x) })
      let b := b.appendSpare (b.spareRec x false e.spare)
      let b := b.event 0x78 [(1, c), (8, x.param), (1, e.spare), (1, e.idx), (8, k.copied), (8, k.poisoned)]
      b.endOps (fun y => y == o) stOk 0 (fun _ => e.idx) (fun _ => [])
  | _, _ => b

/-- SPARE_ADDED. -/
def execSpareAdded (c : Fin 8) (s : State) : Host.Outcome State Fault Refusal := s.does (fun b => b.spareAdded c.val)

/-! ### SPARE_LIST (R348) -/

/-- The 8-byte form of a CAM entry. -/
def CamEnt.word (e : CamEnt) : Nat :=
  1 + (if e.active then 2 else 1) * 2 + e.sc * 2 ^ 3 + e.rank * 2 ^ 4 + e.cid * 2 ^ 6 + e.bg * 2 ^ 9 + e.ba * 2 ^ 12 + e.row * 2 ^ 14 +
    e.spare * 2 ^ 32

/-- SPARE_LIST: the entries from the first one named, those that hold nothing as zero. -/
def Block.spareList (b : Block) (src : Src) (p : Packet) : Block :=
  let cam := (b.chan (pP0 p 0 3)).cam
  let first := pP0 p 8 8
  let n := min 62 (256 - first)
  let body := (List.range n).flatMap (fun k =>
    leBytes 8 (((cam.find? (fun e => e.idx == first + k)).map (fun e => e.word)).getD 0))
  b.reply src p stOk 0 (n + cam.length * 2 ^ 8) body

/-- SPARE_LIST. -/
def execSpareList (src : Src) (p : Packet) (s : State) : Host.Outcome State Fault Refusal := s.packet 0x81 src p Block.spareList

/-! ### PPR_RUN (R353) -/

/-- The rows that a PPR_RUN names. -/
def Block.pprRows (b : Block) (p : Packet) : List Coord :=
  let x := coordOfParam p.param0.toNat
  if pP0 p 32 1 == 1 then ((b.chan x.chan).cam.filter (·.active)).map (fun e => e.coord x.chan) else [x]

/-- PPR_RUN: refused, or begun, in DEGRADED after the channel has been taken offline. -/
def Block.pprRun (b : Block) (src : Src) (p : Packet) : Block :=
  let x := coordOfParam p.param0.toNat
  let no := fun (d : Nat) => b.answer src p stRejected d p.param0.toNat []
  if !(b.inUse x.chan) then no 2
  else if !(pP0 p 32 1 == 1) && (!(b.inGeometry x) || b.spareArea x) then no 3
  else if 2048 ≤ b.spares.length then no 7
  else
    let b := if b.mode == .degraded && b.chanServes x.chan then b.takeOffline [x.chan] else b
    (b.modChan x.chan (fun ch => ch.stop 2)).beginOp src p (fun o => { o with n := x.chan })

/-- PPR_RUN. -/
def execPprRun (src : Src) (p : Packet) (s : State) : Host.Outcome State Fault Refusal := s.packet 0x82 src p Block.pprRun

/-- One row has run: a repaired row frees its entry and is recorded. The cause that PPR_RESULT gives for it is not stated. -/
def Block.pprRow (a : Block × List Ev) (e : Coord × PprRow) : Block × List Ev :=
  let b := a.1
  let x := e.1
  let ev := fun (res cause : Nat) => a.2 ++ [((0x79, [(1, x.chan), (8, x.param), (1, res), (1, cause)]) : Ev)]
  match e.2 with
  | .repaired =>
    let b' := b.modChan x.chan (fun ch => { ch with cam := ch.cam.filter (fun y => !(y.maps x)) })
    ({ b'.appendSpare (b.spareRec x true 0) with free := b.free + 1 }, ev 0 ((Config.unstated b.free).toNat % 256))
  | .noResource => (b, ev 1 0)
  | .compare => (b, ev 1 1)

/-- PPR_RUN ends with the quick verify of the channel. -/
def Block.pprDone (b : Block) (c : Nat) (rows : List PprRow) (verify : Option VerifyFail) : Block :=
  match b.pkts.ops.find? (fun o => o.pkt.opcode == 0x82 && o.n == c) with
  | none => b
  | some o =>
    let xs := b.pprRows o.pkt
    if !(xs.length == rows.length) then b else
    let a := (xs.zip rows).foldl Block.pprRow (b, [])
    let good := (rows.filter (fun r => r == .repaired)).length
    let r := match verify with
      | none => if (a.1.chan c).state == 1 then (a.1, []) else a.1.becomeReady c
      | some f => (a.1.modChan c (fun ch => { ch with state := 7 }), [verifyEv f c])
    (r.1.events (a.2 ++ r.2)).endOps (fun y => y == o) stOk 0 (fun _ => good + (rows.length - good) * 2 ^ 16) (fun _ => [])

/-- PPR_DONE. -/
def execPprDone (c : Fin 8) (rows : List PprRow) (verify : Option VerifyFail) (s : State) : Host.Outcome State Fault Refusal :=
  s.does (fun b => b.pprDone c.val rows verify)

end Sys2Proof.Machine
end

