-- ==== Sys2Proof/Machine/Image.lean ====
section
/-! DEFINITION. The retained image (R407 to R413): its bytes, its checks, IMAGE_SAVE, IMAGE_RESTORE, the image in RESTORE (R389, R390), the
reduced image (R341) and STATUS_READ (R414). -/

namespace Sys2Proof.Machine

/-! ### Bytes of an image (R408 to R410) -/

/-- Records that have sections of their own (R410). -/
def apart : List Nat := [0x0700, 0x0701, 0x1100]

/-- Records and instances of section 2, ascending (R410). -/
def section2 : List (Nat × Nat) := imageRecords.filter (fun e => !(apart.contains e.1))

/-- The size of a record. -/
def recSize (id : Nat) : Nat := ((recShape id).map (·.1)).getD 0

/-- The field carries the letter I (R17). -/
def FieldSpec.saved (f : FieldSpec) : Bool := decide (8 ≤ f.kept)

/-- The entries of a configuration table whose fields carry a letter: 8 is I, 4 is W and 2 is S (R17). -/
def lettered (letter : Nat) (t : Tab Nat) : Tab Nat :=
  t.filter (fun e => (recFields (e.1 / 2 ^ 28) (e.1 / 2 ^ 16 % 2 ^ 12)).any (fun f =>
    f.bit == e.1 % 2 ^ 16 && f.kept / letter % 2 == 1))

/-- The entries of a configuration table whose fields carry I. -/
def savedPart (t : Tab Nat) : Tab Nat := lettered 8 t

/-- A record as an image holds it: a field that lacks I is zero. -/
def imageRecord (t : Tab Nat) (e : Nat × Nat) : List Byte :=
  leBytes (recSize e.1) ((recFields e.1 e.2).foldl (fun n f => if f.saved then n + cfgGet t e.1 e.2 f.bit * 2 ^ f.bit else n) 0)

/-- An entry of section 2. -/
def imageEntry (t : Tab Nat) (e : Nat × Nat) : List Byte :=
  leBytes 2 e.1 ++ leBytes 2 e.2 ++ leBytes 2 (recSize e.1) ++ [0, 0] ++ padTo 8 (imageRecord t e)

/-- An entry of section 1. -/
def DimmId.bytes (d : DimmId) : List Byte :=
  leBytes 8 d.identity ++ [if d.present then 1 else 0, BitVec.ofNat 8 d.devType] ++ List.replicate 6 0

/-- A map record in the form of record 0x0D02 (R351). -/
def SpareRec.bytes (r : SpareRec) : List Byte :=
  leBytes 8 r.identity ++ leBytes 8 ((if r.repaired then 1 else 0) + r.sc * 2 + r.dimmRank * 2 ^ 2 + r.cid * 2 ^ 4 + r.bg * 2 ^ 7 +
    r.ba * 2 ^ 10 + r.row * 2 ^ 12 + r.spare * 2 ^ 30)

/-- The sections of an image, each with its COUNT (R409). -/
def Image.sections (i : Image) : List (List Byte × Nat) :=
  [((List.range 16).flatMap (fun k => (i.dimms.getD k {}).bytes), 16),
   (section2.flatMap (imageEntry i.cfg), section2.length),
   ((List.range 64).flatMap (fun k => imageRecord i.cfg (0x1100, k)), 64),
   (i.spares.flatMap SpareRec.bytes, i.spares.length),
   (imageRecord i.cfg (0x0700, 0) ++ imageRecord i.cfg (0x0701, 0), 2)]

/-- IMAGE_BYTES. -/
def Image.size (i : Image) : Nat :=
  128 + 256 + (section2.map (fun e => 8 + ceilDiv (recSize e.1) 8 * 8)).sum + 28160 + 16 * i.spares.length + 4160

/-- The directory of sections that start at `off` (R408). -/
def directory : Nat → List (List Byte × Nat) → List Byte
  | _, [] => []
  | off, s :: t => leBytes 4 off ++ leBytes 4 s.1.length ++ leBytes 4 s.2 ++ leBytes 4 (crc32 s.1).toNat ++ directory (off + s.1.length) t

/-- The header of an image (R408). -/
def Image.header (i : Image) : List Byte :=
  let head := leBytes 2 1 ++ [8, BitVec.ofNat 8 i.rev] ++ leBytes 4 i.size ++ leBytes 4 i.saveSeq ++ leBytes 4 0 ++
    leBytes 8 i.saveTime.toNat ++ leBytes 8 i.serial ++ directory 128 i.sections ++ List.replicate 12 0
  head ++ leBytes 4 (crc32 head).toNat

/-- The bytes of an image, as the mirror holds them (R408, R409). -/
def Image.bytes (i : Image) : List Byte := i.header ++ i.sections.flatMap (·.1)

/-! ### The checks (R411) -/

/-- The number in `n` bytes from `off` on. -/
def natAt (bs : List Byte) (off n : Nat) : Nat := leNat ((bs.drop off).take n)

/-- OFFSET, LENGTH, COUNT and CRC of section `s`. -/
def dirAt (bs : List Byte) (s : Nat) : Nat × Nat × Nat × Nat :=
  let o := 0x20 + 16 * (s - 1)
  (natAt bs o 4, natAt bs (o + 4) 4, natAt bs (o + 8) 4, natAt bs (o + 12) 4)

/-- The bytes of section `s`. -/
def sectionAt (bs : List Byte) (s : Nat) : List Byte := (bs.drop (dirAt bs s).1).take (dirAt bs s).2.1

/-- Cause 1 and the section, 0 for the header. -/
def crcFault (bs : List Byte) : Option Nat :=
  if bs.length < 128 || !((crc32 (bs.take 0x7C)).toNat == natAt bs 0x7C 4) then some 0
  else [1, 2, 3, 4, 5].find? (fun s =>
    let d := dirAt bs s
    bs.length < d.1 + d.2.1 || !((crc32 (sectionAt bs s)).toNat == d.2.2.2))

/-- LENGTH agrees with COUNT. Section 2 is judged by its entries. -/
def lengthAgrees (s len count : Nat) : Bool :=
  match s with
  | 1 => count == 16 && len == 256
  | 3 => count == 64 && len == 28160
  | 4 => count ≤ 2048 && len == 16 * count
  | 5 => count == 2 && len == 4160
  | _ => true

/-- The entries of section 2 as record, instance, BYTES and number; none where the section does not end with the last. -/
def entriesOf : Nat → List Byte → Option (List (Nat × Nat × Nat × Nat))
  | 0, bs => if bs.isEmpty then some [] else none
  | n + 1, bs =>
    let size := natAt bs 4 2
    let room := ceilDiv size 8 * 8
    if bs.length < 8 + room then none
    else (entriesOf n (bs.drop (8 + room))).map ((natAt bs 0 2, natAt bs 2 2, size, natAt bs 8 size) :: ·)

/-- Cause 4 and the section: IMAGE_BYTES, the order of the sections, and their lengths. -/
def lengthFault (bs : List Byte) : Option Nat :=
  let total := natAt bs 4 4
  let ends := fun s => (dirAt bs s).1 + (dirAt bs s).2.1
  if !(total % 8 == 0) || total < 128 || 98304 < total || bs.length < total then some 0
  else [1, 2, 3, 4, 5].find? (fun s =>
    let d := dirAt bs s
    !(d.1 == if s == 1 then 128 else ends (s - 1)) || !(d.1 % 8 == 0) || total < ends s || !(lengthAgrees s d.2.1 d.2.2.1) ||
      (s == 2 && (entriesOf d.2.2.1 (sectionAt bs 2)).isNone))

/-- An entry of section 2 names a known record with its size and an instance in range. -/
def entryOk (e : Nat × Nat × Nat × Nat) : Bool :=
  match recShape e.1 with
  | none => false
  | some s => e.2.1 < s.2 && e.2.2.1 == s.1

/-- The entries of section 2. -/
def imageEntries (bs : List Byte) : List (Nat × Nat × Nat × Nat) := (entriesOf (dirAt bs 2).2.2.1 (sectionAt bs 2)).getD []

/-- The first check of R411 that bytes fail, as cause and section; section 0 where none is at fault. -/
def imageFault (bs : List Byte) : Option (Nat × Nat) :=
  match crcFault bs with
  | some s => some (1, s)
  | none =>
    if !(natAt bs 0 2 == 1) || !(natAt bs 2 1 == 8) then some (2, 0)
    else if !(natAt bs 0x18 8 == Config.serial.toNat) then some (3, 0)
    else match lengthFault bs with
      | some s => some (4, s)
      | none => if (imageEntries bs).all entryOk then none else some (5, 2)

/-- A map record of 16 bytes. -/
def spareOf (bs : List Byte) : SpareRec :=
  let x := natAt bs 8 8
  { identity := natAt bs 0 8, repaired := bitsOf x 0 1 == 1, sc := bitsOf x 1 1, dimmRank := bitsOf x 2 2, cid := bitsOf x 4 3,
    bg := bitsOf x 7 3, ba := bitsOf x 10 2, row := bitsOf x 12 18, spare := bitsOf x 30 6 }

/-- The image that valid bytes hold. -/
def imageOf (bs : List Byte) : Image :=
  let sec := sectionAt bs
  let put := fun (t : Tab Nat) (id inst x : Nat) => stageRecord true t id inst x
  let t := (imageEntries bs).foldl (fun t e => put t e.1 e.2.1 e.2.2.2) []
  let t := (List.range 64).foldl (fun t k => put t 0x1100 k (natAt (sec 3) (440 * k) 440)) t
  let t := put (put t 0x0700 0 (natAt (sec 5) 0 2080)) 0x0701 0 (natAt (sec 5) 2080 2080)
  { rev := natAt bs 3 1, serial := natAt bs 0x18 8, saveSeq := natAt bs 8 4, saveTime := BitVec.ofNat 64 (natAt bs 0x10 8)
    dimms := (List.range 16).map (fun k =>
      { identity := natAt (sec 1) (16 * k) 8, present := natAt (sec 1) (16 * k + 8) 1 % 2 == 1, devType := natAt (sec 1) (16 * k + 9) 1 })
    cfg := t
    spares := (List.range (dirAt bs 4).2.2.1).map (fun k => spareOf ((sec 4).drop (16 * k))) }

/-- What a read of the mirror comes to: the cause and section of an invalid image, or the image. -/
def mirrorImage : PortRead → (Nat × Nat) ⊕ Image
  | .failed => .inl (6, 0)
  | .bytes bs => match imageFault bs with
    | some e => .inl e
    | none => .inr (imageOf bs)

/-- What retention SRAM holds; an absent image fails cause 1 (R133). -/
def Block.sramImage (b : Block) : (Nat × Nat) ⊕ Image :=
  match b.ret with
  | some i => .inr i
  | none => .inl (1, 0)

/-- IMAGE_INVALID of source 0 retention SRAM or 1 the port. -/
def invalidEv (source : Nat) (e : Nat × Nat) : Ev := (0x02, [(1, source), (1, e.1), (1, e.2)])

/-! ### IMAGE_SAVE (R407) -/

/-- The image that a save captures now. -/
def Block.capture (b : Block) : Image :=
  { rev := Config.siliconRev.toNat, serial := Config.serial.toNat, saveSeq := ((b.ret.map (·.saveSeq)).getD 0 + 1) % 2 ^ 32
    saveTime := b.stamp64, dimms := (List.range 16).map (fun k => b.ids.getD k {}), cfg := savedPart b.cfg, spares := b.spares }

/-- IMAGE_SAVE: retention SRAM holds the image, and its mirror is being written. -/
def Block.imageSave (b : Block) (src : Src) (p : Packet) : Block :=
  let i := b.capture
  { b with ret := some i }.beginOp src p (fun o => { o with n := i.saveSeq, m := i.size })

/-- IMAGE_SAVE. -/
def execImageSave (src : Src) (p : Packet) (s : State) : Host.Outcome State Fault Refusal := s.packet 0x21 src p Block.imageSave

/-- The mirror has been written, a burst has failed, or a warning in COMMISSION has stopped the write after `written` bytes (R62, R123). -/
def Block.imageSaved (b : Block) (ok : Bool) (written : Nat) : Block :=
  match b.op? 0x21 with
  | none => b
  | some o =>
    let fin := fun (b : Block) (st d p0 : Nat) => b.endOps (fun x => x.pkt.opcode == 0x21) st d (fun _ => p0) (fun _ => [])
    if b.mode == .commission && b.pins.pfail then fin b stNotReady 2 (written % 2 ^ 32)
    else
      let b := b.events [(0x07, [(4, o.n), (4, o.m), (1, if ok then 0 else 1)])]
      if ok then fin { b with stat := { b.stat with savedSince := true } } stOk 0 o.m else fin b stRejected 6 (written % 2 ^ 32)

/-- IMAGE_SAVED. -/
def execImageSaved (ok : Bool) (written : Nat) (s : State) : Host.Outcome State Fault Refusal :=
  s.does (fun b => b.imageSaved ok written)

/-! ### IMAGE_RESTORE (R412) -/

/-- A table with the fields of `keep` that carry no I. -/
def withUnsaved (t keep : Tab Nat) : Tab Nat :=
  (keep.filter (fun e => !((savedPart keep).any (fun x => x.1 == e.1)))).foldl (fun t e => aput t e.1 e.2) t

/-- An image takes effect, or is refused with its cause. -/
def Block.restoreFrom (b : Block) (src : Src) (p : Packet) (objs : List Nat) (source : Nat) (x : (Nat × Nat) ⊕ Image) : Block :=
  match x with
  | .inl e => (b.events [invalidEv source e]).replyHold src p objs stRejected e.1 p.param0.toNat []
  | .inr i =>
    let k := checkImage b i.cfg
    let body := b.repBody k.rep
    let b := { b.unsaved with ids := i.dimms }
    (b.applyConfig { k with new := withUnsaved k.new b.cfg } false (repEvents src p k.rep)).replyHold src p objs
      (repStatus k.rep) 0 p.param0.toNat body

/-- IMAGE_RESTORE: from retention SRAM at once, or with a read of the mirror. -/
def Block.imageRestore (b : Block) (src : Src) (p : Packet) : Block :=
  if pP0 p 0 1 == 1 then b.beginOp src p id else b.restoreFrom src p (b.objects src p) 0 b.sramImage

/-- IMAGE_RESTORE. -/
def execImageRestore (src : Src) (p : Packet) (s : State) : Host.Outcome State Fault Refusal := s.packet 0x22 src p Block.imageRestore

/-- The mirror has been read for IMAGE_RESTORE. -/
def Block.imageRestored (b : Block) (port : PortRead) : Block :=
  match b.op? 0x22 with
  | none => b
  | some o =>
    let b := { b with pkts := { b.pkts with ops := b.pkts.ops.filter (fun x => !(x == o)) } }
    b.restoreFrom o.src o.pkt o.objs 1 (mirrorImage port)

/-- IMAGE_RESTORE_DONE. -/
def execImageRestoreDone (port : PortRead) (s : State) : Host.Outcome State Fault Refusal := s.does (fun b => b.imageRestored port)

/-! ### The lottery seeds (R71, R200) -/

/-- A countdown for soundings that the configuration enables (R446). -/
def Block.startSampling (b : Block) : Block := if b.flag 0x1010 0 0 then b.reloadSampling else b

/-- The seed of channel `c`'s LFSR. -/
def lotterySeed (seed : BitVec 128) (c : Nat) : BitVec 32 :=
  nonzeroSeed ((seed.extractLsb' (32 * (c % 4)) 32).rotateLeft (8 * (c / 4)))

/-! ### The image in RESTORE (R389, R390) -/

/-- Image and seed are both there: DEBUG_SEED replaces the seed of each arbiter that enables it, with one event (R213), and sampling
starts. -/
def Block.debugSeeds (b : Block) : Block :=
  let cs := (List.range 8).filter (fun c => b.flag 0x0800 c 16)
  let b := cs.foldl (fun (b : Block) c => b.modChan c (fun ch => { ch with lfsr := nonzeroSeed (BitVec.ofNat 32 (b.f 0x0800 c 32)) })) b
  (b.seedEvent cs).startSampling

/-- The check of the image, or its absence, is over: the report is new, and a seed taken earlier meets DEBUG_SEED. -/
def Block.imageTaken (b : Block) (rep : List RepEnt) : Block :=
  let b := { b with report := rep, stat := { b.stat with reportAt := b.stamp64 } }.modRestore (fun r => { r with imageDone := true })
  let b := b.events (rep.map RepEnt.ev)
  (if b.restore.seedDone then b.debugSeeds else b).tryBringUp

/-- A valid image is applied: the whole of it after power-on reset, and only what a reset did not keep otherwise. After a life-cycle wipe
nothing is (R340). -/
def Block.applyImage (b : Block) (i : Image) (fromPort : Bool) : Block :=
  let b := { b with ret := some i, spares := i.spares, ids := i.dimms, boot := { b.boot with imageValid := true, fromPort := fromPort } }
  let k := if b.stat.lastReset == .powerOn then checkImage b i.cfg else checkKept b
  { b with cfg := k.new }.imageTaken k.rep

/-- Steps 3 and its reads: retention SRAM, and then the mirror where that holds no valid image. -/
def Block.imageLoad (b : Block) (port : PortRead) : Block :=
  if !(b.mode == .restore) || b.restore.imageDone || !b.clk.pll || b.wipe.isSome then b else
  let b := b.phase 2
  match b.sramImage with
  | .inr i => b.applyImage i false
  | .inl e =>
    let b := b.events [invalidEv 0 e]
    match mirrorImage port with
    | .inr i => b.applyImage i true
    | .inl e => (b.events [invalidEv 1 e]).imageTaken []

/-- IMAGE_LOAD. -/
def execImageLoad (port : PortRead) (s : State) : Host.Outcome State Fault Refusal := s.does (fun b => b.imageLoad port)

/-- IMAGE_READ_TIMEOUT: the first beat of the mirror does not return within 10 ms (R62). -/
def execImageReadTimeout (dt : Nat) (s : State) : Host.Outcome State Fault Refusal :=
  s.does (fun b => (b.advance dt).imageLoad .failed)

/-! ### The reduced image (R341) -/

/-- The configuration that a life-cycle wipe keeps: the delays, but on a change to RETIRED. -/
def reducedCfg (t : Tab Nat) (to_ : Lc) : Tab Nat := if to_ == .retired then [] else t.filter (fun e => e.1 / 2 ^ 28 == 0x1100)

/-! ### STATUS_READ (R414) -/

/-- Channels in one of these states of MW_CHANNEL_STATUS, as a mask. -/
def Block.inStates (b : Block) (l : List Nat) : Nat := maskOf ((List.range 8).filter (fun c => l.contains (b.chan c).state))

/-- LOST_PONDS. -/
def Block.lostPonds (b : Block) : Nat :=
  maskOf ((List.range 64).filter (fun p => (b.pondRt p).lost || (b.pondRt p).marked))

/-- LAST_RESET (R414). -/
def ResetKind.code : ResetKind → Nat
  | .powerOn => 0 | .warm => 1 | .soft => 2 | .lifeCycle => 3

/-- PARAM0 of the reply. -/
def Block.statusP0 (b : Block) : Nat :=
  b.mwMode % 2 ^ 7 + (if b.stat.force then 2 ^ 7 else 0) + b.inStates [3, 4] * 2 ^ 8 + b.inStates [1, 5, 7] * 2 ^ 16 +
    b.attached * 2 ^ 24 + (b.ret.map (·.saveSeq)).getD 0 * 2 ^ 32

/-- MW_CHANNEL_STATUS (R58). -/
def Block.chanStatus (b : Block) : Nat := ((List.range 8).map (fun c => (b.chan c).state * 2 ^ (4 * c))).sum

/-- The 64 bytes of every reply. -/
def Block.statusBody (b : Block) : List Byte :=
  leBytes 4 b.restore.bootAtEnd ++ leBytes 4 b.chanStatus ++ leBytes 8 b.lostPonds ++ leBytes 8 b.stat.modeAt.toNat ++
    leBytes 8 (((b.ret.map Image.saveTime).getD 0).toNat) ++ leBytes 4 (sat32 b.restore.durationUs) ++
    [BitVec.ofNat 8 b.stat.lastReset.code, BitVec.ofNat 8 b.restore.ended.code, 0, 0] ++ leBytes 4 ((b.ret.map Image.size).getD 0) ++
    (List.range 4).flatMap (fun i => leBytes 4 (b.inlet i).dropped) ++ List.replicate 4 0

/-- STATUS_READ: an owner's reply carries the restore report too. -/
def execStatusRead (src : Src) (p : Packet) (s : State) : Host.Outcome State Fault Refusal :=
  s.packet 0x90 src p (fun b src p =>
    b.reply src p stOk 0 b.statusP0 (b.statusBody ++ (if b.sendsAsOwner src p.requester.toNat then reportBody b.report 26 b.stat.reportAt else [])))

end Sys2Proof.Machine
end

