-- ==== Sys2Proof/Machine/Mgmt.lean ====
section
/-! DEFINITION. The management port, the interrupt outputs, the debug access bus and the debug opcodes (R57 to R59, R72, R73,
R133). An access to the management port ends within its step; its read data and MGMT_ERR stay until the next. -/

namespace Sys2Proof.Machine

/-! ### Accesses of the management port (R57, R58) -/

/-- An access with every byte enabled: MGMT_ERR is low. In OFF a read returns zero and a write is ignored. -/
def Block.mgmtAccess (b : Block) (g : Block → Block) : Block :=
  if b.mode == .off then { b with mgmt := { b.mgmt with rdata := 0, err := false } }
  else g { b with mgmt := { b.mgmt with err := false } }

/-- Free words of the transmit FIFO, SPACE. -/
def Mgmt.space (m : Mgmt) : Nat := 128 - m.tx.length

/-- A word is appended to the transmit FIFO, or dropped with OVERFLOW. -/
def Block.txWord (b : Block) (w : BitVec 32) : Block :=
  { b with mgmt := if b.mgmt.tx.length < 128 then { b.mgmt with tx := b.mgmt.tx ++ [w] } else { b.mgmt with overflow := true } }

/-- The words of the transmit FIFO become one packet (R59). -/
def Block.submit (b : Block) : Block :=
  if b.mgmt.tx.isEmpty then b else
  let bytes := b.mgmt.tx.flatMap wordBytes
  { b with mgmt := { b.mgmt with tx := [] } }.arrive .mgmt (packetOf bytes) bytes.length false

/-- The transmit FIFO is emptied. -/
def Block.txAbort (b : Block) : Block := { b with mgmt := { b.mgmt with tx := [] } }

/-- The first word of the receive FIFO leaves it. -/
def Mgmt.pop (m : Mgmt) : Mgmt :=
  match m.rx with
  | (w :: ws) :: t => { m with rdata := w, rx := if ws.isEmpty then t else ws :: t }
  | _ => { m with rdata := 0, underflow := true }

/-- MW_PKT_RX_STATUS.PKT_READY. -/
def Mgmt.ready (m : Mgmt) : Bool := !m.rx.isEmpty

/-- The interrupt outputs (R72). -/
def Block.intOut (b : Block) : BitVec 4 := if b.mode == .off then 0 else b.mgmt.intStatus &&& ~~~ b.mgmt.intMask

/-- Bits of MW_INT_STATUS cleared, of MW_INT_MASK written, of PENDING set. -/
def Block.intClear (b : Block) (w : BitVec 4) : Block := { b with mgmt := { b.mgmt with intStatus := b.mgmt.intStatus &&& ~~~ w } }
def Block.intMask (b : Block) (w : BitVec 4) : Block := { b with mgmt := { b.mgmt with intMask := w } }
def Block.intRaise (b : Block) (w : BitVec 4) : Block := { b with mgmt := { b.mgmt with intStatus := b.mgmt.intStatus ||| w } }

/-- A write of MW_PKT_TX_CTRL: ABORT prevails over SUBMIT. -/
def Block.txCtrl (b : Block) (d : BitVec 32) : Block :=
  let b := if d.getLsbD 24 then { b with mgmt := { b.mgmt with overflow := false } } else b
  if d.getLsbD 1 then b.txAbort else if d.getLsbD 0 then b.submit else b

/-- A write of any management offset, given as MGMT_ADDR[11:2]: unlisted offsets and read-only fields ignore it. -/
def Block.mgmtWrite (b : Block) (off : Nat) (d : BitVec 32) : Block :=
  let low := d.extractLsb' 0 4
  match 4 * off with
  | 0x010 => b.intClear low
  | 0x014 => b.intMask low
  | 0x018 => b.intRaise low
  | 0x040 => b.txWord d
  | 0x044 => b.txCtrl d
  | 0x04C => if d.getLsbD 17 then { b with mgmt := { b.mgmt with underflow := false } } else b
  | _ => b

/-- PKT_TX_WORD. -/
def execPktTxWord (w : BitVec 32) (s : State) : Host.Outcome State Fault Refusal := s.does (fun b => b.mgmtAccess (·.txWord w))

/-- SUBMIT. -/
def execSubmit (s : State) : Host.Outcome State Fault Refusal := s.does (fun b => b.mgmtAccess Block.submit)

/-- ABORT, with or without SUBMIT in the same write. -/
def execAbort (alsoSubmit : Bool) (s : State) : Host.Outcome State Fault Refusal :=
  s.does (fun b => b.mgmtAccess (·.txCtrl (if alsoSubmit then 3 else 2)))

/-- PKT_RX_READ. -/
def execPktRxRead (s : State) : Host.Outcome State Fault Refusal :=
  s.run (fun b => b.mgmtAccess (fun b => { b with mgmt := b.mgmt.pop }))

/-- OVERFLOW_CLEAR. -/
def execOverflowClear (s : State) : Host.Outcome State Fault Refusal :=
  s.run (fun b => b.mgmtAccess (·.mgmtWrite 0x11 0x1000000))

/-- UNDERFLOW_CLEAR. -/
def execUnderflowClear (s : State) : Host.Outcome State Fault Refusal :=
  s.run (fun b => b.mgmtAccess (·.mgmtWrite 0x13 0x20000))

/-- INT_STATUS_CLEAR. -/
def execIntStatusClear (bits : BitVec 4) (s : State) : Host.Outcome State Fault Refusal :=
  s.run (fun b => b.mgmtAccess (·.intClear bits))

/-- INT_MASK_WRITE. -/
def execIntMaskWrite (bits : BitVec 4) (s : State) : Host.Outcome State Fault Refusal :=
  s.run (fun b => b.mgmtAccess (·.intMask bits))

/-- INT_SET. -/
def execIntSet (bits : BitVec 4) (s : State) : Host.Outcome State Fault Refusal :=
  s.run (fun b => b.mgmtAccess (·.intRaise bits))

/-- TIME_LO_READ: the low word is returned and the high word captured. -/
def execTimeLoRead (s : State) : Host.Outcome State Fault Refusal :=
  s.run (fun b => b.mgmtAccess (fun b =>
    { b with mgmt := { b.mgmt with rdata := b.stamp64.extractLsb' 0 32, timeHi := b.stamp64.extractLsb' 32 32 } }))

/-- MGMT_REGISTER_WRITE: a write of a word of the register space; one without every byte enabled sets MGMT_ERR alone. -/
def execMgmtRegisterWrite (off : BitVec 10) (data : BitVec 32) (be : BitVec 4) (s : State) : Host.Outcome State Fault Refusal :=
  s.does (fun b =>
    if b.mode == .off then b.mgmtAccess id
    else if !(be == 15) then { b with mgmt := { b.mgmt with err := true } }
    else b.mgmtAccess (·.mgmtWrite off.toNat data))

/-! ### The debug access bus (R73) -/

/-- A debug access completes at once. -/
def Block.dbgDone (b : Block) (st : Nat) : Block := { b with dbg := { b.dbg with busy := false, status := st, rdata := 0 } }

/-- DEBUG_DENIED; the field of the other path is not stated, and free. -/
def Block.debugDenied (b : Block) (path opcode addr : Nat) : Block :=
  let other := (Config.unstated b.free).toNat
  { b with free := b.free + 1 }.event 0x2D
    [(1, path), (1, b.lc.code), (1, if path = 0 then other % 256 else opcode), (8, if path = 0 then addr else other)]

/-- The request that a debug access becomes: requester 0xF5, DEBUG_CLASS, stage 2 (R26, R73). -/
def Block.dbgReq (b : Block) (op : Op) (addr : Nat) (data : BitVec 64) (be : BitVec 8) : Block :=
  let k := addr % 8
  let cls := b.f 0x0802 0 48
  let r : Req := { id := b.nextId, inlet := none, op := op, requester := 0xF5, tag := 0, cls := cls, served := cls,
                   blk := addr / 8, data := BitVec.ofNat 512 (data.toNat * 2 ^ (64 * k)),
                   mask := BitVec.ofNat 64 (be.toNat * 2 ^ (8 * k)), stage := .fenceHeld, takenAt := b.clk.cclk }
  { b with nextId := b.nextId + 1, reqs := b.reqs ++ [r], dbg := { b.dbg with busy := true, lane := k } }.stage2 r .clean

/-- An access on the debug bus: the bus takes none while HCLK_OUT is stopped or an access is outstanding. -/
def Block.dbgAccess (b : Block) (op : Op) (addr : Nat) (data : BitVec 64) (be : BitVec 8) : Block :=
  if b.mode == .off || !b.clk.pll || b.dbg.busy then b
  else if b.lc == .deployed then (b.debugDenied 0 0 (8 * addr)).dbgDone stAccessDenied
  else if !b.serving then b.dbgDone stNotReady
  else b.dbgReq op addr data be

/-- DEBUG_READ. -/
def execDebugRead (addr : BitVec 41) (s : State) : Host.Outcome State Fault Refusal :=
  s.does (fun b => b.dbgAccess .read addr.toNat 0 0)

/-- DEBUG_WRITE. -/
def execDebugWrite (addr : BitVec 41) (data : BitVec 64) (be : BitVec 8) (s : State) : Host.Outcome State Fault Refusal :=
  s.does (fun b => b.dbgAccess .writePartial addr.toNat data be)

/-! ### The debug opcodes (R133) -/

/-- The key of a word of an internal memory. -/
def sramKey (p : Packet) (k : Nat) : Nat := pP0 p 0 8 * 2 ^ 24 + pP0 p 8 24 + k

/-- A word of an internal memory: as last written through this port, and otherwise free. -/
def Block.sramWord (b : Block) (p : Packet) (k : Nat) : BitVec 64 :=
  (aget b.dbg.sram (sramKey p k)).getD (Config.sramWord (pP0 p 0 8) (pP0 p 8 24 + k) b.free)

/-- A debug opcode runs in the FACTORY state alone. -/
def Block.inFactory (b : Block) (src : Src) (p : Packet) (g : Block → Block) : Block :=
  if b.lc == .factory then g b
  else (b.debugDenied 1 p.opcode.toNat 0).echo src p stAccessDenied 0

/-- DEBUG_SRAM_READ. -/
def execDebugSramRead (src : Src) (p : Packet) (s : State) : Host.Outcome State Fault Refusal :=
  s.packet 0xF0 src p (fun b src p => b.inFactory src p (fun b =>
    let body := (List.range (pP0 p 32 9)).flatMap (fun k => leBytes 8 (b.sramWord p k).toNat)
    { b with free := b.free + 1 }.reply src p stOk 0 p.param0.toNat body))

/-- DEBUG_SRAM_WRITE: the words are stored; what they do to the structure that the memory serves is not stated. -/
def execDebugSramWrite (src : Src) (p : Packet) (s : State) : Host.Outcome State Fault Refusal :=
  s.packet 0xF1 src p (fun b src p => b.inFactory src p (fun b =>
    let sram := (List.range (pP0 p 32 9)).foldl (fun t k => aput t (sramKey p k) (BitVec.ofNat 64 (pBody p (8 * k) 8))) b.dbg.sram
    { b with dbg := { b.dbg with sram := sram } }.echo src p stOk 0))

end Sys2Proof.Machine
end

