-- ==== Sys2Proof/Machine/Resets.lean ====
section
/-! DEFINITION. OFF, resets, seeds, the life-cycle wipe and the end of RESTORE (R33, R40 to R43, R70, R71, R340, R341, R385, R388 to R392,
R404 to R406). -/

namespace Sys2Proof.Machine

/-! ### The management registers (R58) -/

/-- MW_BOOT_STATUS. -/
def Block.bootStatus (b : Block) : Nat :=
  let s := b.boot
  let n := b.report.length + (if b.mode == .restore then b.restore.late.length else 0)
  s.phase + bitAt s.imageValid 4 + bitAt s.fromPort 5 + bitAt s.seedFallback 6 + s.trained * 2 ^ 8 + s.failed * 2 ^ 16 + min n 255 * 2 ^ 24

/-- What a read of a register without side effects returns; zero in OFF, and at offsets that the table does not list (R57). -/
def Block.mgmtRead (b : Block) (off : Nat) : Nat :=
  if b.mode == .off then 0 else
  match off with
  | 0x000 => 8 + Config.siliconRev.toNat * 2 ^ 8 + 3 * 2 ^ 16 + 1 * 2 ^ 20
  | 0x004 => b.mwMode
  | 0x008 => b.bootStatus
  | 0x00C => b.chanStatus
  | 0x010 => b.mgmt.intStatus.toNat
  | 0x014 => b.mgmt.intMask.toNat
  | 0x044 => b.mgmt.space * 2 ^ 16 + bitAt b.mgmt.overflow 24
  | 0x04C => b.mgmt.rxWords + bitAt b.mgmt.ready 16 + bitAt b.mgmt.underflow 17
  | 0x054 => b.mgmt.timeHi.toNat
  | _ => if 0x020 ≤ off && off < 0x040 then bitsOf Config.fuses.toNat (8 * (off - 0x020)) 32 else 0

/-! ### What a reset leaves (R404, R406) -/

/-- A channel after a reset; margins carry W and S (R317). -/
def Chan.afterReset (keep : Bool) (ch : Chan) : Chan := if keep then { phy := { margins := ch.phy.margins } } else {}

/-- The letter of a reset in Kept through (R17); no field carries one of the others. -/
def ResetKind.letter : ResetKind → Nat
  | .warm => 4 | .soft | .lifeCycle => 2 | .powerOn => 16

/-- The block after a warm or soft reset, or at the start of a life-cycle wipe, before RESTORE begins. -/
def Block.afterReset (b : Block) (k : ResetKind) : Block :=
  let inlet : Inlet := { reqVoidAt := b.clk.cclk, cmdVoidAt := b.clk.cclk }
  { clk := b.clk
    pins := { b.pins with pfail := false, warmHeld := false, dieTemp := none, lastDie := 0, capMw := 65535, capValid := false }
    net := { b.net with ever := b.net.valid, timeValid := false, realign := none }
    mode := b.mode
    lc := b.lc
    mgmt := { intStatus := b.mgmt.intStatus, intMask := b.mgmt.intMask, rdata := b.mgmt.rdata, err := b.mgmt.err, timeHi := b.mgmt.timeHi }
    inlets := List.replicate 4 inlet
    chans := b.chans.map (Chan.afterReset (!(k == .lifeCycle)))
    keys := b.keys
    cfg := lettered k.letter b.cfg
    restore := { since := b.clk.ns, durationUs := b.restore.durationUs, ended := b.restore.ended, bootAtEnd := b.restore.bootAtEnd }
    ids := b.ids
    spares := b.spares
    ret := b.ret
    log := { b.log with occ := [] }
    tail := b.tail
    ctr := { cycle0 := b.clk.cclk }
    stat := { b.stat with lastReset := k, resetMode := b.mode, dieHold := false, dieWarned := false, reportAt := 0 }
    free := b.free }

/-- RESTORE begins: MODE_CHANGED, and RESET_SEEN (R388 step 1). -/
def Block.enterRestore (b : Block) : Block :=
  (b.changeMode .restore 4 0).event 0x05
    [(1, b.stat.lastReset.code), (1, b.stat.resetMode.code), (1, if b.stat.force then 1 else 0)]

/-- A warm or soft reset: the rate-limit window closes first (R421). -/
def Block.resetBy (b : Block) (k : ResetKind) : Block := ((b.closeWindow.afterReset k).newLimits).enterRestore

/-- The block in OFF, with everything reset but retention SRAM and the levels on its pins. The local counter starts at 0 (R418). -/
def Block.toOff (b : Block) : Block :=
  { clk := { b.clk with pll := false }
    pins := { pfailHigh := b.pins.pfailHigh, wake := b.pins.wake }
    net := { valid := b.net.valid, ever := b.net.valid, off := if b.net.valid then b.net.off else -(b.clk.ns : Int)
             lastValid := if b.net.valid then b.net.lastValid else 0, blkOff := -(b.clk.ns : Int) }
    lc := b.lc
    keys := b.keys
    ret := b.ret
    stat := { lastReset := .powerOn, resetMode := if b.mode == .off then b.stat.resetMode else b.mode }
    free := b.free }

/-- PWR_GOOD_LOW. -/
def execPwrGoodLow (s : State) : Host.Outcome State Fault Refusal := s.run Block.toOff

/-- A pulse on PORST_n of at least 1 µs; whether a shorter one is taken is free (R42). -/
def Block.powerOnReset (b : Block) (lowNs : Nat) : Block :=
  if 1000 ≤ lowNs then b.toOff
  else
    let b' := { b with free := b.free + 1 }
    if Config.shortPulse b.free then b'.toOff else b'

/-- POWER_ON_RESET. -/
def execPowerOnReset (lowNs : Nat) (s : State) : Host.Outcome State Fault Refusal := s.run (fun b => b.powerOnReset lowNs)

/-- The root frequency in MHz (R40). -/
def rootOf (sel : BitVec 2) : Nat := if sel = 0 then 14400 else if sel = 1 then 12800 else 11200

/-- PWR_GOOD, PORST_n and WRST_n are all high: OFF to RESTORE. -/
def Block.release (b : Block) (rootSel lcState : BitVec 2) : Block :=
  if !(b.mode == .off) then b else
  { b with
    clk := { b.clk with rootMhz := rootOf rootSel }
    lc := Lc.ofBits lcState
    restore := { since := b.clk.ns } }.newLimits.enterRestore

/-- RESET_RELEASE. -/
def execResetRelease (rootSel lcState : BitVec 2) (s : State) : Host.Outcome State Fault Refusal :=
  s.does (fun b => b.release rootSel lcState)

/-- WRST_n is taken: a warm reset, after the tail where one is being written (R43). -/
def Block.warm (b : Block) : Block :=
  if b.tail.isSome then { b with pins := { b.pins with warmHeld := true } } else b.resetBy .warm

/-- A pulse on WRST_n of at least 160 ns; whether a shorter one is taken is free (R42). -/
def Block.warmReset (b : Block) (lowNs : Nat) : Block :=
  if b.mode == .off then b
  else if 160 ≤ lowNs then b.warm
  else
    let b' := { b with free := b.free + 1 }
    if Config.shortPulse b.free then b'.warm else b'

/-- WARM_RESET. -/
def execWarmReset (lowNs : Nat) (s : State) : Host.Outcome State Fault Refusal := s.does (fun b => b.warmReset lowNs)

/-- RESET: the reply, the force flag, and a soft reset to come (R134, R391). -/
def execReset (src : Src) (p : Packet) (s : State) : Host.Outcome State Fault Refusal :=
  s.packet 0x26 src p (fun b src p =>
    { b with
      stat := { b.stat with force := b.stat.force || p.param0.getLsbD 0 }
      pkts := { b.pkts with resetDue := true } }.echo src p stOk 0)

/-- SOFT_RESET_START. -/
def execSoftResetStart (dt : Nat) (s : State) : Host.Outcome State Fault Refusal :=
  s.does (fun b =>
    let b := b.advance dt
    if b.pkts.resetDue && !(b.mode == .off) then b.resetBy .soft else b)

/-- The last burst of the tail has been written: TAIL_EMITTED, and a warm reset that waited for it (R43, R431). -/
def Block.tailEmitted (b : Block) (failed : Nat) : Block :=
  match b.tail with
  | none => b
  | some t =>
    let b := { b with tail := none }.event 0x12 [(4, t.records), (4, t.size), (1, min failed 8), (1, t.modeBits)]
    if b.pins.warmHeld then b.resetBy .warm else b

/-- TAIL_EMITTED. -/
def execTailEmitted (failed : Nat) (s : State) : Host.Outcome State Fault Refusal := s.does (fun b => b.tailEmitted failed)

/-! ### RESTORE (R388) -/

/-- ROOT_PLL_LOCK: the clocks run, and the command VOIDs fall. -/
def Block.pllLock (b : Block) : Block :=
  if b.mode == .restore then ({ b with clk := { b.clk with pll := true } }.lowerCmd).phase 1 else b

/-- ROOT_PLL_LOCK. -/
def execRootPllLock (s : State) : Host.Outcome State Fault Refusal := s.does Block.pllLock

/-- The block takes a seed: keys, valid-tile map and LFSRs (R33, R71, R446). -/
def Block.takeSeed (b : Block) (seed : BitVec 128) : Block :=
  let b := { b with
    keys := (List.range 16).map (Config.keyOf seed)
    tiles := []
    chans := (b.chans.zipIdx).map (fun (e : Chan × Nat) => { e.1 with lfsr := lotterySeed seed e.2 })
    snd := { b.snd with lfsr := nonzeroSeed (~~~ (seed.extractLsb' 96 32)) } }
  let b := (b.modRestore (fun r => { r with seedDone := true })).phase 3
  (if b.restore.imageDone then b.debugSeeds else b).tryBringUp

/-- The seed has still to come: RESTORE, with hclk running. -/
def Block.wantsSeed (b : Block) : Bool := b.mode == .restore && b.clk.pll && !b.restore.seedDone

/-- SEED_VALID. -/
def execSeedValid (seed : BitVec 128) (s : State) : Host.Outcome State Fault Refusal :=
  s.does (fun b => if b.wantsSeed then b.takeSeed seed else b)

/-- The fallback seed: network time over the serial number, 10 ms after RESTORE entry. -/
def Block.seedLate (b : Block) : Block :=
  if b.wantsSeed && b.restore.since + 10 ^ 7 ≤ b.clk.ns then
    let b := { b with boot := { b.boot with seedFallback := true } }.event 0x0A [(4, 10)]
    b.takeSeed (BitVec.ofInt 64 b.netTime ++ Config.serial)
  else b

/-- SEED_FALLBACK. -/
def execSeedFallback (dt : Nat) (s : State) : Host.Outcome State Fault Refusal := s.does (fun b => (b.advance dt).seedLate)

/-! ### The end of RESTORE (R391, R392, R413) -/

/-- Entries of R293, R313 and R352 in that order, channels ascending. -/
def lateEntries (l : List (Nat × Nat × RepEnt)) : List RepEnt :=
  (List.range 3).flatMap (fun r => (List.range 8).flatMap (fun c =>
    (l.filter (fun e => e.1 == r && e.2.1 == c)).map (fun e => e.2.2)))

/-- What every end of RESTORE sets: the report, PHASE, the record of R414 and the force flag. -/
def Block.closeRestore (b : Block) (m : Mode) : Block :=
  let b := { b.phase (if m == .commission then 8 else 7) with report := b.report ++ lateEntries b.restore.late }
  let b := b.modRestore (fun r => { r with late := [], discovered := !(m == .commission) && r.discovered })
  { b with
    restore := { b.restore with durationUs := b.usSince b.restore.since, ended := m, bootAtEnd := b.bootStatus }
    stat := { b.stat with force := false } }

/-- Channels in use that do not serve. -/
def Block.notReady (b : Block) : List Nat := (List.range 8).filter (fun c => b.inUse c && !(b.chanServes c))

/-- Every channel in use has been brought up. -/
def Block.allUp (b : Block) : Bool :=
  b.restore.up && (List.range 8).all (fun c => !(b.inUse c) || b.restore.upDone.testBit c)

/-- RESTORE has run its steps, and no warning holds it (R387). -/
def Block.restoreOver (b : Block) : Bool :=
  b.mode == .restore && b.restore.imageDone && b.restore.seedDone && b.restore.discovered && b.wipe.isNone && !b.pins.pfail &&
    (b.toCommission || b.allUp)

/-- RESTORE ends in COMMISSION, SERVE or DEGRADED. -/
def Block.endRestore (b : Block) : Block :=
  if !b.restoreOver then b
  else
    let us := b.usSince b.restore.since
    if b.toCommission then (b.closeRestore .commission).changeMode .commission 0 us
    else
      let bad := b.notReady
      let m := if bad.isEmpty then Mode.serve else Mode.degraded
      let b := (b.closeRestore m).serveFrom m 0 us
      let b := bad.foldl (fun (b : Block) c => b.losePonds c 1) b
      (List.range 8).foldl (fun (b : Block) c => b.saveIds c) b

/-- RESTORE_END. -/
def execRestoreEnd (s : State) : Host.Outcome State Fault Refusal := s.does Block.endRestore

/-! ### The life cycle (R70, R340, R341) -/

/-- A change of LC_STATE starts the wipe: a reset with the log emptied too. -/
def Block.startWipe (b : Block) (to_ : Lc) : Block :=
  let x := b.afterReset .lifeCycle
  let x := { x with
    lc := to_, mode := .restore, wipe := some { old := b.lc, since := b.clk.ns }, log := {}, tail := none
    mgmt := { x.mgmt with intStatus := 0 } }
  ({ x with stat := { x.stat with modeAt := x.stamp64 } }.newLimits).phase 3

/-- A strobe is taken (R70): ignored in OFF and in drain. -/
def Block.strobe (b : Block) (seen : Lc) : Block :=
  if b.mode == .off || b.drain then b else
  let b := b.wakeClocks
  if seen == b.lc then b.event 0x0D [(1, b.lc.code)] else b.startWipe seen

/-- LIFECYCLE_STROBE. -/
def execLifecycleStrobe (lcState : BitVec 2) (s : State) : Host.Outcome State Fault Refusal :=
  s.does (fun b => b.strobe (Lc.ofBits lcState))

/-- LIFECYCLE_UNAUTHORISED: LC_STATE has changed without a strobe. -/
def execLifecycleUnauthorised (seen : BitVec 2) (s : State) : Host.Outcome State Fault Refusal :=
  s.does (fun b => if b.mode == .off || Lc.ofBits seen == b.lc then b else b.event 0x0C [(1, b.lc.code), (1, (Lc.ofBits seen).code)])

/-- Blocks of a channel, spare rows included. -/
def Block.capacity (b : Block) (c : Nat) : Nat :=
  let g := geoOf b.cfg c
  2 ^ g.sc * g.ranks * 2 ^ g.cid * 2 ^ g.bg * 2 ^ g.ba * g.rows * 2 ^ g.colb

/-- The image that a wipe leaves. -/
def Block.reducedImage (b : Block) : Image :=
  let old := b.ret
  { rev := Config.siliconRev.toNat, serial := Config.serial.toNat, saveSeq := (old.map (·.saveSeq)).getD 0,
    saveTime := (old.map Image.saveTime).getD 0, dimms := (List.range 16).map (fun k => b.ids.getD k {}),
    cfg := reducedCfg b.cfg b.lc, spares := b.spares }

/-- VERIFY_FAILED of a channel that the wipe could not fill; where and why is not stated, and free. -/
def Block.wipeFailed (b : Block) (c : Nat) : Block :=
  let draw := fun k => (Config.unstated (b.free + k)).toNat
  { b with free := b.free + 5 }.event (chanCode c 6)
    [(1, draw 0 % 8), (1, draw 1 % 8), (1, draw 2 % 6), (8, draw 3), (8, draw 4 % 256)]

/-- Steps 6 and 7 of R340: LIFECYCLE_CHANGED, and RESTORE goes on as with no valid image. -/
def Block.wipeEnds (b : Block) (failed : BitVec 8) : Block :=
  match b.wipe with
  | none => b
  | some w =>
    if !b.restore.seedDone then b else
    let cs := (List.range 8).filter b.inUse
    let good := cs.filter (fun c => !(failed.getLsbD c))
    let blocks := (good.map b.capacity).sum
    let b := { b with wipe := none, ret := some b.reducedImage, cfg := reducedCfg b.cfg b.lc }.modRestore (fun r => { r with imageDone := true })
    let b := b.event 0x0E [(1, w.old.code), (1, b.lc.code), (1, good.length), (8, blocks), (4, sat32 ((b.clk.ns - w.since) / 10 ^ 6))]
    (cs.filter (fun c => failed.getLsbD c)).foldl Block.wipeFailed b

/-- LIFECYCLE_FILL_END. -/
def execLifecycleFillEnd (failed : BitVec 8) (dt : Nat) (s : State) : Host.Outcome State Fault Refusal :=
  s.does (fun b => (b.advance dt).wipeEnds failed)

/-- LIFECYCLE: the state and, while a wipe runs, its progress, which is free. -/
def execLifecycle (src : Src) (p : Packet) (s : State) : Host.Outcome State Fault Refusal :=
  s.packet 0x25 src p (fun b src p =>
    let run := b.wipe.isSome
    let mille := if run then (Config.unstated b.free).toNat % 1001 else 0
    { b with free := b.free + 1 }.reply src p stOk 0 (b.lc.code + bitAt run 2 + mille * 2 ^ 8) [])

end Sys2Proof.Machine
end

