-- ==== Sys2Proof/Machine/Drain.lean ====
section
/-! DEFINITION. The power-fail warning and drain (R68, R109, R123, R396). -/

namespace Sys2Proof.Machine

/-! ### Shedding (R109, R211) -/

/-- A DRAM-bound request that waits before admission. -/
def Block.waits (b : Block) (sel : DReq → Bool) : Option DReq :=
  match b.findDReq sel with
  | some (_, d, .outside) | some (_, d, .wait) => some d
  | _ => none

/-- A request of class 2 to 7 that waits before admission completes SHED. -/
def Block.shedReq (b : Block) (r : Req) : Block :=
  let shed := fun (b : Block) => b.finish r.id stShed none
  match r.stage with
  | .ready | .fencing => b
  | .chan => match b.waits (fun d => d.owner == some r.id) with
    | some d => shed (b.withdraw d.id).1
    | none => b
  | .joined => match b.cache.fills.find? (fun f => f.waiters.contains r.id) with
    | some f => if (b.waits (fun d => d.id == f.id)).isSome then
        shed (b.onCache (fun k => { k with fills := k.fills.map (fun (g : LineFill) =>
          if g.id == f.id then { g with waiters := g.waiters.filter (fun x => !(x == r.id)) } else g) }))
      else b
    | none => b
  | _ => shed (b.unwait r.id)

/-- The class that drain work of a fill takes from the requests that still wait for it; a class of 2 to 7 stays. -/
def Block.neededClass (b : Block) (d : DReq) : Nat :=
  match d.kind with
  | .lineFill | .prefetch => match b.cache.fills.find? (fun f => f.id == d.id) with
    | some f => (b.reqs.filter (fun r => f.waiters.contains r.id)).foldl (fun m r => min m r.served) d.cls
    | none => d.cls
  | .fillWrite => if d.ref % 2 == 1 then ((b.tileFills.find? (fun f => f.tile == d.ref / 2)).map (fun f => min f.cls d.cls)).getD d.cls else d.cls
  | _ => d.cls

/-- What the engines had waiting in classes 2 to 7 is taken back; lines whose writeback is taken back stay dirty. -/
def Block.shedEngines (b : Block) : Block :=
  let fit := fun (l : List DReq) => (l.map (fun (d : DReq) => { d with cls := b.neededClass d })).filter (fun d => d.cls ≤ 1)
  let gone := (b.chans.flatMap (fun ch => ch.outside ++ ch.wait)).filter (fun d => 2 ≤ b.neededClass d)
  let lost := fun (id : Nat) => gone.any (fun d => d.id == id)
  let mend := fun (l : Line) => if l.wb.any lost then { l with wb := none, newer := false } else l
  let copies := fun (d : DReq) => d.kind == .copyRead || d.kind == .copyWrite
  let b : Block := { b with
    chans := b.chans.map (fun ch =>
      { ch with
        outside := fit ch.outside, wait := fit ch.wait
        copy := if (ch.outside ++ ch.wait).any (fun d => copies d && lost d.id) then ch.copy.map (fun (k : Copy) => { k with busy := false })
          else ch.copy }.pump b.clk.cclk)
    poisonPending := b.poisonPending.filter (fun x => !(gone.any (fun d => d.kind == .poisonWrite && d.blk == x)))
    cache := { b.cache with
      lines := b.cache.lines.map (fun e => (e.1, mend e.2)), shallows := b.cache.shallows.map mend
      fills := b.cache.fills.filter (fun f => !(lost f.id)) } }
  b.recountJobs

/-- Every request of classes 2 to 7 that waits before admission completes SHED, and tile fills of those classes stop (R334). -/
def Block.shedSweep (b : Block) : Block :=
  let rs := b.reqs.filter (fun r => 2 ≤ r.served && (r.op == .read || r.isWrite))
  (rs.foldl Block.shedReq b.drainTiles).shedEngines

/-! ### Long packets (R123) -/

/-- What a stopped packet is answered: status, DETAIL and PARAM0; none where it runs on. -/
def Block.stopReply (b : Block) (o : LongOp) : Option (Nat × Nat × Nat) :=
  let wb := b.wbClass ≤ 1
  match o.pkt.opcode.toNat with
  | 0x23 | 0x24 | 0x82 => some (stNotReady, 2, 0)
  | 0x30 | 0x32 | 0x80 => some (stNotReady, 2, o.pkt.param0.toNat)
  | 0x40 | 0x41 | 0x42 => some (stOk, 2, o.n)
  | 0x43 => if wb then none else some (stNotReady, 2, o.n - o.blks.length + o.m * 2 ^ 38)
  | 0x45 => if wb then none else some (stNotReady, 2, (b.cache.disabling).getD 0)
  | 0x46 => if wb then none else some (stNotReady, 2, (b.cache.conv.map (·.written)).getD 0)
  | _ => none

/-- The work behind a stopped packet. -/
def Block.stopWork (b : Block) (o : LongOp) : Block :=
  match o.pkt.opcode.toNat with
  | 0x30 | 0x32 => { b with jobs := b.jobs.filter (fun j => !(j.key == o.pkt.opcode.toNat * 64 + o.n)) }
  | 0x45 => b.onCache (fun k => { k with disabling := none })
  | 0x46 => b.onCache (fun k => { k with conv := none })
  | _ => b

/-- Every long packet that a warning stops; a FILL stops at its next block and answers when that is done. -/
def Block.stopOps (b : Block) : Block :=
  let b := { b with jobs := b.jobs.map (fun (j : FillJob) => if j.opcode == 0x50 then { j with stopped := true } else j) }
  b.pkts.ops.foldl (fun (b : Block) o =>
    match b.stopReply o with
    | none => b
    | some (st, d, p0) => (b.stopWork o).endOps (fun x => x == o) st d (fun _ => p0) (fun _ => [])) b

/-! ### The warning (R68, R69, R387, R396) -/

/-- Requests held in transaction queues. -/
def Block.queued (b : Block) : Nat := (b.chans.map (fun ch => (ch.queues.map (fun (k : Queue) => k.ents.length)).sum)).sum

/-- Drain is entered: DRAIN_ENTERED, and DORMANT entry is abandoned. -/
def Block.enterDrain (b : Block) : Block :=
  let b := { b with drain := true }.event 0x03 [(1, b.mode.code), (8, twos 8 b.blockTime), (4, b.queued)]
  (((b.abandon 0).shedSweep).stopOps).drainHold

/-- A warning in DORMANT, or once the reply of DORMANT entry waits to be sent: the clocks start for the tail, and an exit ends. What a
MODE_SET that it stops is answered besides WRONG_MODE is free. -/
def Block.warnDormant (b : Block) : Block :=
  let b := b.wakeClocks
  match b.dorm with
  | .leaving _ _ =>
    { b with dorm := .clocked, free := b.free + 1 }.endOps (fun o => o.pkt.opcode == 0x20) stWrongMode
      ((Config.unstated b.free).toNat % 256) (fun _ => b.modeBits) (fun _ => [])
  | _ => b

/-- A power-fail warning is acted on. While the level stays high nothing is new; a later rise writes a new tail (R431). -/
def Block.pfailWarn (b : Block) : Block :=
  if b.mode == .off || (b.pins.pfailHigh && b.pins.pfail) then { b with pins := { b.pins with pfailHigh := true } }
  else
    let first := !b.pins.pfail
    let b := { b with pins := { b.pins with pfail := true, pfailHigh := true } }
    let asleep := match b.dorm with | .none | .entering _ => false | _ => true
    let b := if !first then b
      else if asleep then b.warnDormant
      else if b.serving then b.enterDrain
      else b.stopOps
    b.beginTail

/-- PFAIL_WARN. -/
def execPfailWarn (s : State) : Host.Outcome State Fault Refusal := s.does Block.pfailWarn

/-- PFAIL_CLEARED: a low level after a warning, with the duration in µs. -/
def Block.pfailCleared (b : Block) (us : Nat) : Block :=
  let high := b.pins.pfailHigh
  let b := { b with pins := { b.pins with pfailHigh := false } }
  if b.mode == .off || !high || !b.pins.pfail then b else b.event 0x04 [(4, sat32 us)]

/-- PFAIL_CLEARED. -/
def execPfailCleared (us : Nat) (s : State) : Host.Outcome State Fault Refusal := s.does (fun b => b.pfailCleared us)

end Sys2Proof.Machine
end

