-- ==== Sys2Proof/Machine/Modes.lean ====
section
/-! DEFINITION. MODE_SET and DORMANT (R69, R385, R386, R400 to R403), and the replies that modes wait for (R55, R134). -/

namespace Sys2Proof.Machine

/-! ### MODE_SET (R386) -/

/-- The DETAIL for which a change of mode is refused, the lowest first; none where it is carried out. -/
def Block.modeRefused (b : Block) (to_ : Nat) : Option Nat :=
  let unready := !(b.notReady).isEmpty
  match b.mode, to_ with
  | .commission, 3 =>
    if unready then some 2 else if !b.stat.savedSince then some 3
    else if b.lc == .retired then some 5 else if b.pins.pfail then some 7 else none
  | .degraded, 3 =>
    if unready then some 2
    else if b.ponds.any (fun e => e.2.lost || e.2.marked) then some 4 else none
  | .serve, 4 | .serve, 5 | .dormant, 3 => none
  | _, _ => some 1

/-- DORMANT exit begins; the clocks start. -/
def Block.leave (b : Block) (op : Bool) : Block :=
  { b with clk := { b.clk with pll := true }, dorm := .leaving op b.clk.ns }

/-- MODE_SET 3 in DORMANT: an exit begins, or the one that WAKE began answers this packet too. After a warning the block stays (R69),
and the DETAIL is free. -/
def Block.modeWake (b : Block) (src : Src) (p : Packet) : Block :=
  if b.pins.pfail then
    { b with free := b.free + 1 }.answer src p stWrongMode ((Config.unstated b.free).toNat % 256) b.modeBits []
  else
    let b := b.beginOp src p id
    match b.dorm with
    | .leaving _ _ => b
    | _ => b.leave true

/-- Step 1 of R400: every VOID rises, and the dredge's time stands still. -/
def Block.beginEntry (b : Block) (src : Src) : Block :=
  { (b.raiseReq).raiseCmd with dorm := .entering src, stat := { b.stat with dredgeAt := b.clk.ns } }

/-- MODE_SET. -/
def Block.modeSet (b : Block) (src : Src) (p : Packet) : Block :=
  let to_ := pP0 p 0 3
  let ok := fun (b : Block) => b.answer src p stOk 0 b.mode.code []
  if to_ == b.mode.code then ok b
  else match b.modeRefused to_ with
    | some d => b.answer src p stWrongMode d b.modeBits []
    | none =>
      match b.mode, to_ with
      | .commission, _ => ok (b.serveFrom .serve 1 0)
      | .degraded, _ => ok (b.changeMode .serve 1 0)
      | .dormant, _ => b.modeWake src p
      | _, 4 => ok (b.changeMode .degraded 1 0)
      | _, _ => (b.beginEntry src).beginOp src p id

/-- MODE_SET. -/
def execModeSet (src : Src) (p : Packet) (s : State) : Host.Outcome State Fault Refusal := s.packet 0x20 src p Block.modeSet

/-! ### DORMANT entry (R383, R400) -/

/-- Steps 2 and 3 are done: nothing is in flight, no line is dirty, and nothing waits on a channel. -/
def Block.stilled (b : Block) : Bool :=
  b.reqs.isEmpty && b.pkts.queue.all (fun q => q.src == .mgmt) && b.pkts.replies.all (fun r => r.src == .mgmt) &&
    b.pkts.ops.all (fun o => o.pkt.opcode == 0x20) && b.pkts.detachers.isEmpty &&
    !(b.cache.lines.any (fun e => e.2.dirty)) && b.cache.shallows.isEmpty && b.cache.fills.isEmpty &&
    b.chans.all (fun ch => (ch.find (fun _ => true)).isNone && ch.queues.all (fun k => k.flight.isEmpty && k.sending.isEmpty) &&
      decide (ch.alert = .none))

/-- The bytes of the scratch ways, and the poison marks, that SCRATCH_KEEP keeps. -/
def Cache.sleep (k : Cache) (keep : Nat) : Cache :=
  { (List.range 16).foldl (fun (k : Cache) w => if keep.testBit w then k else k.zeroWay w) k with lines := [], shallows := [] }

/-- Channels that serve enter self-refresh. -/
def Chan.sleep (ch : Chan) : Chan := if ch.state == 3 || ch.state == 4 then ch.stop 6 else ch

/-- Step 4 on a channel that serves: it is claimed as for turnover, and every unit gets a last REFab before self-refresh. -/
def Block.lastRefresh (b : Block) (c : Nat) : Block :=
  if !(b.chanServes c) then b else
  let b := b.claim c
  let at_ := 2 * (b.chan c).ck2 + b.lead c
  (List.range (b.units c)).foldl (fun b u =>
    ((b.turnCmd c u .refab at_).countC c 0x05 none none (some (b.unitPlace c u).2) 1).raaFall c u) b

/-- Steps 3 to 5, and the reply of step 6. -/
def Block.fallAsleep (b : Block) (src : Src) : Block :=
  let b := (List.range 8).foldl Block.lastRefresh b
  let since := ((b.pkts.ops.map (·.started)).head?).getD b.clk.ns
  let b := { b with
    cache := b.cache.sleep (b.f 0x0E00 0 16), chans := b.chans.map Chan.sleep, pkts := { b.pkts with txns := [] }
    dorm := .replying since }.stopSluice
  b.endOps (fun o => o.pkt.opcode == 0x20 && o.src == src) stOk 0 (fun _ => 5) (fun _ => [])

/-- DORMANT_ENTRY_COMPLETE. -/
def execDormantEntryComplete (s : State) : Host.Outcome State Fault Refusal :=
  s.does (fun b => match b.dorm with
    | .entering src => if b.stilled then b.fallAsleep src else b
    | _ => b)

/-- The mode becomes DORMANT and the clocks stop; WAKE that is high begins an exit at once (R69). -/
def Block.enterDormant (b : Block) (since : Nat) : Block :=
  let b := { b with clk := { b.clk with pll := false }, dorm := .asleep }.changeMode .dormant 1 (b.usSince since)
  if b.pins.wake && !b.pins.pfail then b.leave false else b

/-- DORMANT_REPLY_TIMEOUT: the reply that no credit came for is discarded. -/
def Block.replyLate (b : Block) : Block :=
  match b.dorm with
  | .replying since =>
    { b with pkts := { b.pkts with replies := b.pkts.replies.filter (fun r => !(r.pkt.opcode == 0x20)) } }.enterDormant since
  | _ => b

/-- DORMANT_REPLY_TIMEOUT. -/
def execDormantReplyTimeout (s : State) : Host.Outcome State Fault Refusal := s.does Block.replyLate

/-- The first reply of a source leaves; with the reply of MODE_SET 5 the block enters DORMANT. -/
def Block.replyOut (b : Block) (src : Src) : Block :=
  let mine := fun (x : Reply) => x.src == src
  let asleep := (b.pkts.replies.find? mine).any (fun r => r.pkt.opcode == 0x20 && b.canSend src r.pkt)
  let b := b.sendReply src
  match b.dorm with
  | .replying since => if asleep then b.enterDormant since else b
  | _ => b

/-- REPLY_SEND. -/
def execReplySend (src : Src) (s : State) : Host.Outcome State Fault Refusal := s.does (fun b => b.replyOut src)

/-- DORMANT_CLOCK_STOP: the clocks stop once nothing keeps them (R401). -/
def execDormantClockStop (s : State) : Host.Outcome State Fault Refusal :=
  s.does (fun b =>
    if b.dorm == .clocked && b.pkts.queue.isEmpty && b.pkts.replies.isEmpty && b.pkts.ops.isEmpty && b.tail.isNone then
      { b with clk := { b.clk with pll := false }, dorm := .asleep }
    else b)

/-! ### DORMANT exit (R69, R402) -/

/-- The level of WAKE is taken: high in DORMANT begins an exit, unless a warning has been acted on. -/
def Block.wakeLevel (b : Block) (level : Bool) : Block :=
  let b := { b with pins := { b.pins with wake := level } }
  if level && b.mode == .dormant && !b.pins.pfail && (b.dorm == .asleep || b.dorm == .clocked) then b.leave false else b

/-- WAKE. -/
def execWake (level : Bool) (s : State) : Host.Outcome State Fault Refusal := s.does (fun b => b.wakeLevel level)

/-- Channels in self-refresh leave it, their RFM counts at zero (R259, R402). -/
def Block.wakeChans (b : Block) (cs : List Nat) : Block :=
  cs.foldl (fun (b : Block) c => (b.makeReady c).modChan c (fun ch => { ch with queues := ch.queues.map (fun (k : Queue) =>
    { k with banks := k.banks.map (fun e => (e.1, { e.2 with raa := 0 })) }) })) b

/-- The readings of a channel's six sensors. -/
def readingsOf (temps : List (Fin 8 × Fin 6 × BitVec 16)) (c : Nat) : List (Option (BitVec 16)) :=
  (List.range 6).map (fun k => (temps.find? (fun e => e.1.val == c && e.2.1.val == k)).map (·.2.2))

/-- DORMANT exit completes: SERVE, and faulted channels are fenced in its first cclk. -/
def Block.exitDone (b : Block) (faulted : BitVec 8) (temps : List (Fin 8 × Fin 6 × BitVec 16)) (drift : List (Fin 8 × DriftRead)) : Block :=
  match b.dorm with
  | .leaving op since =>
    let cs := (List.range 8).filter (fun c => (b.chan c).state == 6)
    let b := b.wakeChans cs
    let b := drift.foldl (fun (b : Block) e => if cs.contains e.1.val then b.driftSample e.1.val e.2 else b) b
    let b := cs.foldl (fun (b : Block) c => b.pollSensors c (readingsOf temps c)) b
    let b := ({ b with dorm := .none }.serveFrom .serve (if op then 1 else 3) (b.usSince since)).startRelock 0
    let b := b.endOps (fun o => o.pkt.opcode == 0x20) stOk 0 (fun _ => 3) (fun _ => [])
    (cs.filter (fun c => faulted.getLsbD c)).foldl (fun (b : Block) c => b.fence c 3 id) b
  | _ => b

/-- DORMANT_EXIT_COMPLETE. -/
def execDormantExitComplete (faulted : BitVec 8) (temps : List (Fin 8 × Fin 6 × BitVec 16)) (drift : List (Fin 8 × DriftRead))
    (s : State) : Host.Outcome State Fault Refusal := s.does (fun b => b.exitDone faulted temps drift)

end Sys2Proof.Machine
end

