-- ==== Sys2Proof/Machine/Dispatch.lean ====
section
/-! DEFINITION. One arm per command: a direct call of its meaning. -/

namespace Sys2Proof.Machine

/-- The effect of a command on everything but the queue of commands. -/
def exec (i : Instr) (s : State) : Host.Outcome State Fault Refusal :=
  match i with
  | .pwrGoodLow => Sys2Proof.Machine.execPwrGoodLow s
  | .resetRelease rootSel lcState => Sys2Proof.Machine.execResetRelease rootSel lcState s
  | .powerOnReset lowNs => Sys2Proof.Machine.execPowerOnReset lowNs s
  | .warmReset lowNs => Sys2Proof.Machine.execWarmReset lowNs s
  | .softResetStart dt => Sys2Proof.Machine.execSoftResetStart dt s
  | .pfailWarn => Sys2Proof.Machine.execPfailWarn s
  | .pfailCleared us => Sys2Proof.Machine.execPfailCleared us s
  | .tailEmitted failed => Sys2Proof.Machine.execTailEmitted failed s
  | .wake level => Sys2Proof.Machine.execWake level s
  | .dormantExitComplete faulted temps drift => Sys2Proof.Machine.execDormantExitComplete faulted temps drift s
  | .lifecycleStrobe lcState => Sys2Proof.Machine.execLifecycleStrobe lcState s
  | .lifecycleFillEnd failed dt => Sys2Proof.Machine.execLifecycleFillEnd failed dt s
  | .lifecycleUnauthorised seen => Sys2Proof.Machine.execLifecycleUnauthorised seen s
  | .seedValid seed => Sys2Proof.Machine.execSeedValid seed s
  | .seedFallback dt => Sys2Proof.Machine.execSeedFallback dt s
  | .timeStep kind nt => Sys2Proof.Machine.execTimeStep kind nt s
  | .sluiceFreeRun => Sys2Proof.Machine.execSluiceFreeRun s
  | .timeValidReturn nt => Sys2Proof.Machine.execTimeValidReturn nt s
  | .sluiceRealigned dt => Sys2Proof.Machine.execSluiceRealigned dt s
  | .pcapTaken mw valid => Sys2Proof.Machine.execPcapTaken mw valid s
  | .dieTempTaken t => Sys2Proof.Machine.execDieTempTaken t s
  | .tempInputLost => Sys2Proof.Machine.execTempInputLost s
  | .vddqCheck c mv => Sys2Proof.Machine.execVddqCheck c mv s
  | .thermalPoll c readings => Sys2Proof.Machine.execThermalPoll c readings s
  | .alert c => Sys2Proof.Machine.execAlert c s
  | .missingBurst c => Sys2Proof.Machine.execMissingBurst c s
  | .alertReleased c => Sys2Proof.Machine.execAlertReleased c s
  | .stuckAlertFence c => Sys2Proof.Machine.execStuckAlertFence c s
  | .alertReplayed c => Sys2Proof.Machine.execAlertReplayed c s
  | .read inl h f => Sys2Proof.Machine.execRead inl h f s
  | .writeFull inl h data f => Sys2Proof.Machine.execWriteFull inl h data f s
  | .writePartial inl h data mask f => Sys2Proof.Machine.execWritePartial inl h data mask f s
  | .cancel inl h => Sys2Proof.Machine.execCancel inl h s
  | .fence inl h => Sys2Proof.Machine.execFence inl h s
  | .fenceComplete requester tag => Sys2Proof.Machine.execFenceComplete requester tag s
  | .requestFraming inl hdr data mask => Sys2Proof.Machine.execRequestFraming inl hdr data mask s
  | .inletCreditViolation inl hdr => Sys2Proof.Machine.execInletCreditViolation inl hdr s
  | .arbiterGrant c => Sys2Proof.Machine.execArbiterGrant c s
  | .tenureFollowOn c => Sys2Proof.Machine.execTenureFollowOn c s
  | .enqueue c => Sys2Proof.Machine.execEnqueue c s
  | .commandSelect c q => Sys2Proof.Machine.execCommandSelect c q s
  | .governorCycle c dt => Sys2Proof.Machine.execGovernorCycle c dt s
  | .energyStall c => Sys2Proof.Machine.execEnergyStall c s
  | .keepOpenTimeout c q bank => Sys2Proof.Machine.execKeepOpenTimeout c q bank s
  | .powerDownEntry c u => Sys2Proof.Machine.execPowerDownEntry c u s
  | .readDataDecode c q raw f => Sys2Proof.Machine.execReadDataDecode c q raw f s
  | .lineFillReturn c q raw => Sys2Proof.Machine.execLineFillReturn c q raw s
  | .rmwMerge c q raw => Sys2Proof.Machine.execRmwMerge c q raw s
  | .writeDataSent c q => Sys2Proof.Machine.execWriteDataSent c q s
  | .responsePresent inl k f => Sys2Proof.Machine.execResponsePresent inl k f s
  | .responseCreditGrant inl => Sys2Proof.Machine.execResponseCreditGrant inl s
  | .replyCreditGrant inl => Sys2Proof.Machine.execReplyCreditGrant inl s
  | .commandFlit inl flit last f => Sys2Proof.Machine.execCommandFlit inl flit last f s
  | .commandFlitNoCredit inl flit last => Sys2Proof.Machine.execCommandFlitNoCredit inl flit last s
  | .packetFraming src p => Sys2Proof.Machine.execPacketFraming src p s
  | .replySend src => Sys2Proof.Machine.execReplySend src s
  | .eventPacketSend src => Sys2Proof.Machine.execEventPacketSend src s
  | .pktTxWord w => Sys2Proof.Machine.execPktTxWord w s
  | .submit => Sys2Proof.Machine.execSubmit s
  | .abort alsoSubmit => Sys2Proof.Machine.execAbort alsoSubmit s
  | .pktRxRead => Sys2Proof.Machine.execPktRxRead s
  | .overflowClear => Sys2Proof.Machine.execOverflowClear s
  | .underflowClear => Sys2Proof.Machine.execUnderflowClear s
  | .intStatusClear bits => Sys2Proof.Machine.execIntStatusClear bits s
  | .intMaskWrite bits => Sys2Proof.Machine.execIntMaskWrite bits s
  | .intSet bits => Sys2Proof.Machine.execIntSet bits s
  | .timeLoRead => Sys2Proof.Machine.execTimeLoRead s
  | .mgmtRegisterWrite off data be => Sys2Proof.Machine.execMgmtRegisterWrite off data be s
  | .debugRead addr => Sys2Proof.Machine.execDebugRead addr s
  | .debugWrite addr data be => Sys2Proof.Machine.execDebugWrite addr data be s
  | .attach src p => Sys2Proof.Machine.execAttach src p s
  | .detach src p => Sys2Proof.Machine.execDetach src p s
  | .detachDone slot => Sys2Proof.Machine.execDetachDone slot s
  | .queryCaps src p => Sys2Proof.Machine.execQueryCaps src p s
  | .ping src p => Sys2Proof.Machine.execPing src p s
  | .configWrite src p => Sys2Proof.Machine.execConfigWrite src p s
  | .configRead src p => Sys2Proof.Machine.execConfigRead src p s
  | .configStage src p => Sys2Proof.Machine.execConfigStage src p s
  | .configCommit src p => Sys2Proof.Machine.execConfigCommit src p s
  | .configAbort src p => Sys2Proof.Machine.execConfigAbort src p s
  | .stageExpired src txn => Sys2Proof.Machine.execStageExpired src txn s
  | .modeSet src p => Sys2Proof.Machine.execModeSet src p s
  | .dormantEntryComplete => Sys2Proof.Machine.execDormantEntryComplete s
  | .dormantReplyTimeout => Sys2Proof.Machine.execDormantReplyTimeout s
  | .dormantClockStop => Sys2Proof.Machine.execDormantClockStop s
  | .imageSave src p => Sys2Proof.Machine.execImageSave src p s
  | .imageSaved ok written => Sys2Proof.Machine.execImageSaved ok written s
  | .imageRestore src p => Sys2Proof.Machine.execImageRestore src p s
  | .train src p => Sys2Proof.Machine.execTrain src p s
  | .trainingDone found spd res us => Sys2Proof.Machine.execTrainingDone found spd res us s
  | .verify src p => Sys2Proof.Machine.execVerify src p s
  | .verifyDone res => Sys2Proof.Machine.execVerifyDone res s
  | .lifecycle src p => Sys2Proof.Machine.execLifecycle src p s
  | .reset src p => Sys2Proof.Machine.execReset src p s
  | .pondRebuild src p => Sys2Proof.Machine.execPondRebuild src p s
  | .pondRebuilt p => Sys2Proof.Machine.execPondRebuilt p s
  | .pondProtect src p => Sys2Proof.Machine.execPondProtect src p s
  | .pondWipe src p => Sys2Proof.Machine.execPondWipe src p s
  | .pondWipeDone p => Sys2Proof.Machine.execPondWipeDone p s
  | .cachePreload src p => Sys2Proof.Machine.execCachePreload src p s
  | .cachePreloadDone => Sys2Proof.Machine.execCachePreloadDone s
  | .cacheLock src p => Sys2Proof.Machine.execCacheLock src p s
  | .cacheLockDone => Sys2Proof.Machine.execCacheLockDone s
  | .cacheUnlock src p => Sys2Proof.Machine.execCacheUnlock src p s
  | .cacheUnlockDone => Sys2Proof.Machine.execCacheUnlockDone s
  | .cacheRange src p => Sys2Proof.Machine.execCacheRange src p s
  | .cacheRangeDone => Sys2Proof.Machine.execCacheRangeDone s
  | .cacheEnable src p => Sys2Proof.Machine.execCacheEnable src p s
  | .relockDone => Sys2Proof.Machine.execRelockDone s
  | .cacheDisable src p => Sys2Proof.Machine.execCacheDisable src p s
  | .cacheDisableDone => Sys2Proof.Machine.execCacheDisableDone s
  | .cacheWayMode src p => Sys2Proof.Machine.execCacheWayMode src p s
  | .wayConversionDone => Sys2Proof.Machine.execWayConversionDone s
  | .fill src p => Sys2Proof.Machine.execFill src p s
  | .fillDone => Sys2Proof.Machine.execFillDone s
  | .eventsRead src p f => Sys2Proof.Machine.execEventsRead src p f s
  | .eventsSubscribe src p => Sys2Proof.Machine.execEventsSubscribe src p s
  | .eventsClear src p => Sys2Proof.Machine.execEventsClear src p s
  | .countersRead src p => Sys2Proof.Machine.execCountersRead src p s
  | .countersClear src p => Sys2Proof.Machine.execCountersClear src p s
  | .soundingsRead src p f => Sys2Proof.Machine.execSoundingsRead src p f s
  | .soundingsControl src p => Sys2Proof.Machine.execSoundingsControl src p s
  | .spareAdd src p => Sys2Proof.Machine.execSpareAdd src p s
  | .spareAdded c => Sys2Proof.Machine.execSpareAdded c s
  | .spareList src p => Sys2Proof.Machine.execSpareList src p s
  | .pprRun src p => Sys2Proof.Machine.execPprRun src p s
  | .pprDone c rows verify => Sys2Proof.Machine.execPprDone c rows verify s
  | .statusRead src p => Sys2Proof.Machine.execStatusRead src p s
  | .debugSramRead src p => Sys2Proof.Machine.execDebugSramRead src p s
  | .debugSramWrite src p => Sys2Proof.Machine.execDebugSramWrite src p s
  | .imageLoad port => Sys2Proof.Machine.execImageLoad port s
  | .imageReadTimeout dt => Sys2Proof.Machine.execImageReadTimeout dt s
  | .discoveryDone slots => Sys2Proof.Machine.execDiscoveryDone slots s
  | .channelBringUpDone c r => Sys2Proof.Machine.execChannelBringUpDone c r s
  | .restoreEnd => Sys2Proof.Machine.execRestoreEnd s
  | .sluiceEntryStart dt => Sys2Proof.Machine.execSluiceEntryStart dt s
  | .sluiceActivated dt => Sys2Proof.Machine.execSluiceActivated dt s
  | .leadInEnd dt => Sys2Proof.Machine.execLeadInEnd dt s
  | .turnoverClaim c mr4 drift dt => Sys2Proof.Machine.execTurnoverClaim c mr4 drift dt s
  | .turnoverStallEnd c => Sys2Proof.Machine.execTurnoverStallEnd c s
  | .turnoverLate c dt => Sys2Proof.Machine.execTurnoverLate c dt s
  | .doubledExtraOccasion c mr4 drift dt => Sys2Proof.Machine.execDoubledExtraOccasion c mr4 drift dt s
  | .rfmEmergency c bank => Sys2Proof.Machine.execRfmEmergency c bank s
  | .driftForced c drift => Sys2Proof.Machine.execDriftForced c drift s
  | .dirtyAgeWriteback loc f => Sys2Proof.Machine.execDirtyAgeWriteback loc f s
  | .shallowsStall => Sys2Proof.Machine.execShallowsStall s
  | .admissionSaturated c => Sys2Proof.Machine.execAdmissionSaturated c s
  | .dredgeRead p => Sys2Proof.Machine.execDredgeRead p s
  | .dredgeDecode c q raw => Sys2Proof.Machine.execDredgeDecode c q raw s
  | .rateWindowBoundary dt => Sys2Proof.Machine.execRateWindowBoundary dt s
  | .queueSounding dt => Sys2Proof.Machine.execQueueSounding dt s
  | .rootPllLock => Sys2Proof.Machine.execRootPllLock s
  | .imageRestoreDone port => Sys2Proof.Machine.execImageRestoreDone port s

end Sys2Proof.Machine
end

