-- ==== Sys2Proof/WellFormed.lean ====
section
/-! DEFINITION. Well-formed commands: the shapes that the outside can present. The meanings are total and do not
rely on this predicate; it says which terms of `Instr` stand for something that the manual describes. -/

namespace Sys2Proof

/-- A packet of whole flits whose LENGTH agrees with its body, with opcode `op`, neither a reply nor an event
(R112, R113, R115). -/
def Packet.requests (p : Packet) (op : Nat) : Bool :=
  p.opcode.toNat == op && !p.reply && !p.event && p.rsvd == 0 && p.body.length % 16 == 0 &&
    decide (p.body.length ≤ 496) && 8 * p.length.toNat == 16 + p.body.length

/-- No index occurs twice. -/
def distinct (l : List Nat) : Bool := l.length == l.eraseDups.length

/-- A drift sample answers for nibbles or for lanes, not for both (R327, R328). -/
def DriftRead.wf (d : DriftRead) : Bool := d.counts.isEmpty || d.lanes.isEmpty

/-- The drift samples of one turnover: one for a unit at most. -/
def driftsWf (l : List DriftRead) : Bool := distinct (l.map (·.unit.val)) && l.all DriftRead.wf

/-- The MR4 readings of one turnover: one for a unit at most (R257). -/
def mr4Wf (l : List Mr4Read) : Bool := distinct (l.map (·.unit.val))

/-- SPD bytes are those of a whole SPD or none (R310). -/
def SlotInfo.wf (x : SlotInfo) : Bool := decide (x.spd.length ≤ 1024)

/-- What discovery found: a slot at most once (R310). -/
def slotsWf (l : List SlotInfo) : Bool := distinct (l.map (fun x => 2 * x.chan.val + x.slot.val)) && l.all SlotInfo.wf

/-- Training found values for a unit at most once (R323). -/
def TrainRes.wf (t : TrainRes) : Bool := distinct (t.units.map (·.unit.val))

/-- Bring-up read the two slots of one channel (R319). -/
def BringUp.wf (r : BringUp) (c : Fin 8) : Bool :=
  slotsWf r.found && r.found.all (fun x => x.chan == c) && decide (r.spd.length ≤ 2) && r.train.wf

/-- A read of the mirror returns at most the mirror's 64 KiB (R62). -/
def PortRead.wf : PortRead → Bool
  | .failed => true
  | .bytes b => decide (b.length ≤ 65536)

/-- The well-formed commands. -/
def Instr.wf : Instr → Bool
  | .tailEmitted failed => decide (failed ≤ 8)
  | .dormantExitComplete _ temps drift =>
    distinct (temps.map (fun t => 8 * t.1.val + t.2.1.val)) && drift.all (fun d => d.2.wf)
  | .thermalPoll _ readings => readings.length == 6
  | .keepOpenTimeout _ _ bank => decide (bank < 1024)
  | .rfmEmergency _ bank => decide (bank < 1024)
  | .driftForced _ drift => driftsWf drift
  | .turnoverClaim _ mr4 drift _ => mr4Wf mr4 && driftsWf drift
  | .doubledExtraOccasion _ mr4 drift _ => mr4Wf mr4 && driftsWf drift
  | .discoveryDone slots => slotsWf slots
  | .channelBringUpDone c r => r.wf c
  | .trainingDone found spd res _ =>
    slotsWf found && decide (spd.length ≤ 16) && distinct (res.map (·.1.val)) && res.all (fun r => r.2.wf)
  | .verifyDone res => distinct (res.map (·.1.val))
  | .imageLoad port => port.wf
  | .imageRestoreDone port => port.wf
  | .dirtyAgeWriteback loc _ => decide (loc < 262144)
  | .attach _ p => p.requests 0x01
  | .detach _ p => p.requests 0x02
  | .queryCaps _ p => p.requests 0x03
  | .ping _ p => p.requests 0x04
  | .configWrite _ p => p.requests 0x10
  | .configRead _ p => p.requests 0x11
  | .configStage _ p => p.requests 0x12
  | .configCommit _ p => p.requests 0x13
  | .configAbort _ p => p.requests 0x14
  | .modeSet _ p => p.requests 0x20
  | .imageSave _ p => p.requests 0x21
  | .imageRestore _ p => p.requests 0x22
  | .train _ p => p.requests 0x23
  | .verify _ p => p.requests 0x24
  | .lifecycle _ p => p.requests 0x25
  | .reset _ p => p.requests 0x26
  | .pondRebuild _ p => p.requests 0x30
  | .pondProtect _ p => p.requests 0x31
  | .pondWipe _ p => p.requests 0x32
  | .cachePreload _ p => p.requests 0x40
  | .cacheLock _ p => p.requests 0x41
  | .cacheUnlock _ p => p.requests 0x42
  | .cacheRange _ p => p.requests 0x43
  | .cacheEnable _ p => p.requests 0x44
  | .cacheDisable _ p => p.requests 0x45
  | .cacheWayMode _ p => p.requests 0x46
  | .fill _ p => p.requests 0x50
  | .eventsRead _ p _ => p.requests 0x60
  | .eventsSubscribe _ p => p.requests 0x61
  | .eventsClear _ p => p.requests 0x62
  | .countersRead _ p => p.requests 0x70
  | .countersClear _ p => p.requests 0x71
  | .soundingsRead _ p _ => p.requests 0x72
  | .soundingsControl _ p => p.requests 0x73
  | .spareAdd _ p => p.requests 0x80
  | .spareList _ p => p.requests 0x81
  | .pprRun _ p => p.requests 0x82
  | .statusRead _ p => p.requests 0x90
  | .debugSramRead _ p => p.requests 0xF0
  | .debugSramWrite _ p => p.requests 0xF1
  | .pprDone _ rows _ => decide (rows.length ≤ 256)
  | .pwrGoodLow => true
  | .resetRelease _ _ => true
  | .powerOnReset _ => true
  | .warmReset _ => true
  | .softResetStart _ => true
  | .pfailWarn => true
  | .pfailCleared _ => true
  | .wake _ => true
  | .lifecycleStrobe _ => true
  | .lifecycleFillEnd _ _ => true
  | .lifecycleUnauthorised _ => true
  | .seedValid _ => true
  | .seedFallback _ => true
  | .timeStep _ _ => true
  | .sluiceFreeRun => true
  | .timeValidReturn _ => true
  | .sluiceRealigned _ => true
  | .pcapTaken _ _ => true
  | .dieTempTaken _ => true
  | .tempInputLost => true
  | .vddqCheck _ _ => true
  | .alert _ => true
  | .missingBurst _ => true
  | .alertReleased _ => true
  | .stuckAlertFence _ => true
  | .alertReplayed _ => true
  | .read _ _ _ => true
  | .writeFull _ _ _ _ => true
  | .writePartial _ _ _ _ _ => true
  | .cancel _ _ => true
  | .fence _ _ => true
  | .fenceComplete _ _ => true
  | .requestFraming _ _ _ _ => true
  | .inletCreditViolation _ _ => true
  | .arbiterGrant _ => true
  | .tenureFollowOn _ => true
  | .enqueue _ => true
  | .commandSelect _ _ => true
  | .governorCycle _ _ => true
  | .energyStall _ => true
  | .powerDownEntry _ _ => true
  | .readDataDecode _ _ _ _ => true
  | .lineFillReturn _ _ _ => true
  | .rmwMerge _ _ _ => true
  | .writeDataSent _ _ => true
  | .responsePresent _ _ _ => true
  | .responseCreditGrant _ => true
  | .replyCreditGrant _ => true
  | .commandFlit _ _ _ _ => true
  | .commandFlitNoCredit _ _ _ => true
  | .packetFraming _ _ => true
  | .replySend _ => true
  | .eventPacketSend _ => true
  | .pktTxWord _ => true
  | .submit => true
  | .abort _ => true
  | .pktRxRead => true
  | .overflowClear => true
  | .underflowClear => true
  | .intStatusClear _ => true
  | .intMaskWrite _ => true
  | .intSet _ => true
  | .timeLoRead => true
  | .mgmtRegisterWrite _ _ _ => true
  | .debugRead _ => true
  | .debugWrite _ _ _ => true
  | .detachDone _ => true
  | .stageExpired _ _ => true
  | .dormantEntryComplete => true
  | .dormantReplyTimeout => true
  | .dormantClockStop => true
  | .imageSaved _ _ => true
  | .pondRebuilt _ => true
  | .pondWipeDone _ => true
  | .cachePreloadDone => true
  | .cacheLockDone => true
  | .cacheUnlockDone => true
  | .cacheRangeDone => true
  | .relockDone => true
  | .cacheDisableDone => true
  | .wayConversionDone => true
  | .fillDone => true
  | .spareAdded _ => true
  | .imageReadTimeout _ => true
  | .restoreEnd => true
  | .sluiceEntryStart _ => true
  | .sluiceActivated _ => true
  | .leadInEnd _ => true
  | .turnoverStallEnd _ => true
  | .turnoverLate _ _ => true
  | .shallowsStall => true
  | .admissionSaturated _ => true
  | .dredgeRead _ => true
  | .dredgeDecode _ _ _ => true
  | .rateWindowBoundary _ => true
  | .queueSounding _ => true
  | .rootPllLock => true

end Sys2Proof
end

