-- ==== Sys2Proof/Safety.lean ====
section
/-! DEFINITION. The terms in which claims are made: what events and counts alone change, what the traffic of requests
alone changes, a block in which nothing waits, and the shape of a block. -/

namespace Sys2Proof.Machine

/-! ### Frames -/

/-- An inlet less its DROPPED_EVENTS. -/
def Inlet.sansDropped (n : Inlet) : Inlet := { n with dropped := 0 }

/-- The block less what an event or a count may change: the log, the counters, the pending interrupt bits, the queued event
packets with their recipients' numbers, and DROPPED_EVENTS (R423). -/
def Block.sansLog (b : Block) : Block :=
  { b with
    log := {}, ctr := {}, recips := []
    mgmt := { b.mgmt with intStatus := 0 }
    pkts := { b.pkts with evq := [] }
    inlets := b.inlets.map Inlet.sansDropped }

/-- A request less what its way through the block changes. -/
def Req.fixed (r : Req) : Req :=
  { id := r.id, inlet := r.inlet, op := r.op, requester := r.requester, tag := r.tag, cls := r.cls, served := 0,
    blk := r.blk, data := r.data, mask := r.mask, noAlloc := r.noAlloc, stage := .ready, takenAt := r.takenAt,
    counted := r.counted, tracked := r.tracked, dup := r.dup }

/-- A request less its sounding. -/
def Req.sansSnd (r : Req) : Req := { r with snd := {} }

/-- The requests of the inlets in flight, each less what its way through the block changes. -/
def Block.ledger (b : Block) : List Req := (b.reqs.filter (fun r => r.inlet.isSome)).map Req.fixed

/-- A channel less its wait list, queues, shapers, tenure and copier. -/
def Chan.frame (ch : Chan) : Chan :=
  { ch with
    wait := [], outside := [], granted := [], tenure := none, deadAt := none, fullSince := none, shapers := []
    frozenTold := 0, queues := [], copy := none }

/-- An inlet less its request credits and DROPPED_EVENTS. -/
def Inlet.frame (n : Inlet) : Inlet := { n with reqVoid := false, reqCred := 0, dropped := 0 }

/-- What the traffic of requests leaves alone. -/
structure Frame where
  rest : Block
  ledger : List Req
  ops : List (Src × Packet)

/-- The block as the traffic of requests leaves it alone: modes, pins, clocks, keys, configuration, packets, the requests taken,
and everything else that no request, line, tile, event or count moves. -/
def Block.frame (b : Block) : Frame :=
  { rest := { b with
      reqs := [], nextId := 0, chans := b.chans.map Chan.frame, ponds := [], tiles := [], tileFills := [], tileWait := []
      jobs := [], dredge := [], poisonPending := [], cache := {}, preloads := [], recips := [], log := {}, ctr := {}
      snd := {}, free := 0, slots := []
      mgmt := { b.mgmt with intStatus := 0 }
      dbg := { b.dbg with busy := false, rdata := 0, status := 0 }
      pkts := { b.pkts with ops := [], evq := [] }
      inlets := b.inlets.map Inlet.frame }
    ledger := b.ledger
    ops := b.pkts.ops.map (fun o => (o.src, o.pkt)) }

/-- A frame less the configuration: what POND_REBUILD leaves alone beside the traffic. -/
def Frame.sansCfg (f : Frame) : Frame := { f with rest := { f.rest with cfg := [] } }

/-- No POND_REBUILD is in progress. -/
def Block.noRebuild (b : Block) : Bool := b.pkts.ops.all (fun o => !(o.pkt.opcode == 0x30))

/-! ### A block in which nothing waits -/

/-- Every request in flight has completed, is a FENCE, or is under a DRAM-bound request or a line fill. -/
def Req.waitsNot (r : Req) : Bool :=
  r.stage == .ready || r.stage == .fencing || r.stage == .chan || r.stage == .joined

/-- Opcodes of the long packets whose engines go on by themselves. -/
def selfRunning : List Nat := [0x30, 0x32, 0x40, 0x42, 0x43]

/-- DORMANT entry is in progress (R400). -/
def Dorm.enters : Dorm → Bool
  | .entering _ => true
  | _ => false

/-- Nothing waits that the block itself moves on: no engine has work, no request waits on another, and no VOID is to fall. -/
def Block.resting (b : Block) : Bool :=
  b.chans.all (fun ch => ch.copy.isNone && ch.queues.all (fun k => k.released.isNone)) &&
    b.pkts.ops.all (fun o => !(selfRunning.contains o.pkt.opcode.toNat)) && b.cache.relock.isNone && b.tileFills.isEmpty &&
    b.jobs.isEmpty && b.reqs.all Req.waitsNot && !b.dorm.enters && b.ponds.all (fun e => e.2.draining.isEmpty) &&
    b.snd.hold.isEmpty && (!b.serving || b.inlets.all (fun n => !n.reqVoid))

/-- `b` is `e` after what waited has moved on: of what the frame keeps, nothing differs but the configuration that a POND_REBUILD
writes, and where `e` rests nothing differs at all. -/
def Block.settlesTo (e b : Block) : Prop :=
  b.frame.sansCfg = e.frame.sansCfg ∧ (e.noRebuild = true → b.frame = e.frame) ∧ (e.resting = true → b = e)

/-! ### Packets that are to be executed (R118, R119, R124) -/

/-- The packet waits in the queue, where it can be brought. -/
def Block.offered (b : Block) (src : Src) (p : Packet) : Block :=
  if b.pkts.queue.any (fun q => q.src == src && q.pkt == p) then b else b.bring src p

/-- The packet is the one that the sequencer takes next (R119). -/
def Block.isNext (b : Block) (src : Src) (p : Packet) : Bool :=
  match (b.offered src p).nextPacket with
  | some q => q.src == src && q.pkt == p
  | none => false

/-- The block with the packet taken from the queue. -/
def Block.taken (b : Block) (src : Src) (p : Packet) : Block :=
  match (b.offered src p).nextPacket with
  | some q => (b.offered src p).dequeue q
  | none => b.offered src p

/-- The checks of R124, in order: parity, framing, level, privilege, mode and objects. -/
def Block.passes (b : Block) (q : QPkt) : Bool :=
  !q.parityBad && b.framing q == 0 &&
    (match opInfo q.pkt.opcode.toNat with
     | none => false
     | some k => (q.pkt.opcode == 0x01 || decide (k.level ≤ b.senderLevel q)) && b.privileged q k.priv &&
        k.modes.contains (if b.drain then 6 else b.mode.code) && !(b.blocked q.src q.pkt))

/-- The packet is next and passes every check, so that it is executed. -/
def Block.clears (b : Block) (src : Src) (p : Packet) : Bool :=
  !(b.mode == .off) &&
    (match (b.offered src p).nextPacket with
     | some q => q.src == src && q.pkt == p && (b.offered src p).passes q
     | none => false)

/-! ### The shape of a block -/

/-- Four inlets, eight channels of two queues each, sixteen key slots, and a canonical memory of the scratch ways. -/
def Block.shaped (b : Block) : Bool :=
  b.inlets.length == 4 && b.chans.length == 8 && b.chans.all (fun ch => ch.queues.length == 2) && b.keys.length == 16 &&
    Memory.wf b.cache.scratch

/-- The numbers of the requests in flight are distinct, and the next number is above them all. -/
def Block.numbered (b : Block) : Bool := decide ((b.reqs.map Req.id).Nodup) && b.reqs.all (fun r => decide (r.id < b.nextId))

/-- Keys rise in the configuration, in the image retained, in the lines of the cache and in the banks of every queue. -/
def Block.sorted (b : Block) : Bool :=
  risingKeys b.cfg && ((b.ret.map (fun i => risingKeys i.cfg)).getD true) && risingKeys b.cache.lines &&
    b.chans.all (fun ch => ch.queues.all (fun k => risingKeys k.banks))

/-- The limits of R50, R52, R54, R55, R59 and R118: at most 512 request and 32 command flit credits of the fabric on an inlet, 1,023
credits granted to the block, 128 words in the transmit FIFO and 64 packets in the queue. A channel has six sensors. -/
def Block.limited (b : Block) : Bool :=
  b.inlets.all (fun n => decide (n.reqCred ≤ 512) && decide (n.cmdCred + n.cmdOwed ≤ 32) && decide (n.rspCred ≤ 1023) &&
      decide (n.rplCred ≤ 1023)) &&
    decide (b.mgmt.tx.length ≤ 128) && decide (b.pkts.queue.length ≤ 64) &&
    b.chans.all (fun ch => ch.phy.temps.length == 6 && ch.phy.tempBad.length == 6 && ch.phy.tempGood.length == 6)

/-- What every command keeps. -/
def Block.sound (b : Block) : Bool := b.shaped && b.numbered && b.sorted && b.limited

end Sys2Proof.Machine
end

