-- ==== Sys2Proof/Certificates/Slice0/Obligations.lean ====
section
/-! DEFINITION. The statements for the provers, by chapter of the manual. Where a statement says that a block `e` settles to the
next one, `e` is the command's effect and `Block.settlesTo` says how little the work that waited may add to it. -/

open Sys2Proof Sys2Proof.Machine

/-! ### The step, the queue of commands and reset -/

/-- A step takes the command at the front of the queue and is its meaning on the state with the rest of the queue. -/
def Obligations.StepRunsFront : Prop :=
  ∀ (c : Instr) (rest : List Instr) (s : State), s.pending = c :: rest → step s = exec c { s with pending := rest }

/-- The model's choice of log entry 2: on an empty queue one clock passes, 1 cclk (R34) where the root PLL runs and 40 ns where
it does not; nothing but the clock and the counters that count time changes. -/
def Obligations.EmptyQueueTicks : Prop :=
  ∀ s : State, s.pending = [] → ∃ b : Block, step s = .next { s with blk := b } ∧
    b.sansLog = ({ s.blk with clk := s.blk.clk.advance 1 } : Block).sansLog ∧ b.log = s.blk.log ∧
    b.mgmt = s.blk.mgmt ∧ b.inlets = s.blk.inlets ∧ b.pkts = s.blk.pkts ∧
    (s.blk.clk.pll = true → b.clk.cclk = s.blk.clk.cclk + 1 ∧ s.blk.clk.ns ≤ b.clk.ns) ∧
    (s.blk.clk.pll = false → b.clk.cclk = s.blk.clk.cclk ∧ b.clk.ns = s.blk.clk.ns + 40)

/-- What the manual gives for power-on: OFF, interrupts masked and low, registers and FIFOs of the management port at zero, every
VOID high with no credit, every channel unused, no request, packet, slot, record, line or tile (R38, R58, R72, R48, R54); and what StepKeepsSound says every step
keeps. -/
def Obligations.ResetIsOff : Prop :=
  let b := State.reset.blk
  State.reset.pending = [] ∧ b.mode = .off ∧ b.drain = false ∧ b.intOut = 0 ∧ b.mgmt.intStatus = 0 ∧ b.mgmt.intMask = 15 ∧
    b.mgmt.tx = [] ∧ b.mgmt.rx = [] ∧ b.mgmt.overflow = false ∧ b.mgmt.underflow = false ∧ b.bootStatus = 0 ∧
    (∀ i : Fin 4, (b.inlet i).reqVoid = true ∧ (b.inlet i).cmdVoid = true ∧ (b.inlet i).reqCred = 0 ∧ (b.inlet i).cmdCred = 0 ∧
      (b.inlet i).rspCred = 0 ∧ (b.inlet i).rplCred = 0 ∧ (b.inlet i).dropped = 0) ∧
    (∀ c : Fin 8, (b.chan c).state = 0) ∧ (∀ k : Nat, (b.slot k).attach = .free) ∧ b.reqs = [] ∧ b.pkts.queue = [] ∧
    b.log.recs = [] ∧ b.log.nextSeq = 0 ∧ b.tiles = [] ∧ b.cache.lines = [] ∧ b.tail = none ∧ b.sound = true

/-! ### The management port (R57 to R59, R72) -/

/-- INT_STATUS_CLEAR, INT_MASK_WRITE and INT_SET, outside OFF: exactly PENDING or MASK changes, MGMT_ERR is low, and the four outputs are
the unmasked pending bits. PKT_RX_READ, OVERFLOW_CLEAR, UNDERFLOW_CLEAR and TIME_LO_READ, outside OFF: a read of MW_PKT_RX takes the first
word, or sets UNDERFLOW and returns zero on an empty FIFO; the flags clear; MW_TIME_LO returns the low word and captures the high one. -/
def Obligations.InterfaceRegisters : Prop :=
  (∀ (w : BitVec 4) (s : State), s.blk.mode ≠ .off →
    let m := { s.blk.mgmt with err := false }
    let cleared : Block := { s.blk with mgmt := { m with intStatus := m.intStatus &&& ~~~ w } }
    let masked : Block := { s.blk with mgmt := { m with intMask := w } }
    let raised : Block := { s.blk with mgmt := { m with intStatus := m.intStatus ||| w } }
    exec (.intStatusClear w) s = .next { s with blk := cleared } ∧ exec (.intMaskWrite w) s = .next { s with blk := masked } ∧
    exec (.intSet w) s = .next { s with blk := raised } ∧
    (∀ b ∈ [cleared, masked, raised], b.intOut = b.mgmt.intStatus &&& ~~~ b.mgmt.intMask)) ∧
  (∀ s : State, s.blk.mode ≠ .off →
    let m := { s.blk.mgmt with err := false }
    let put := fun (m : Mgmt) => Host.Outcome.next (φ := Fault) (ρ := Refusal) { s with blk := { s.blk with mgmt := m } }
    (∀ (w : BitVec 32) (ws : List (BitVec 32)) (t : List (List (BitVec 32))), m.rx = (w :: ws) :: t →
      exec .pktRxRead s = put { m with rdata := w, rx := if ws = [] then t else ws :: t }) ∧
    (m.rx = [] → exec .pktRxRead s = put { m with rdata := 0, underflow := true }) ∧
    exec .overflowClear s = put { m with overflow := false } ∧ exec .underflowClear s = put { m with underflow := false } ∧
    exec .timeLoRead s = put { m with rdata := s.blk.stamp64.extractLsb' 0 32, timeHi := s.blk.stamp64.extractLsb' 32 32 })

/-- PKT_TX_WORD and ABORT, outside OFF: a word is appended to a transmit FIFO of fewer than 128 words and dropped with OVERFLOW otherwise;
ABORT empties the FIFO, and with SUBMIT in the same write it submits nothing. SUBMIT, outside OFF: the words of the transmit FIFO become
one packet, which takes an entry of the sequencer's queue, or is answered BUSY with event 0x22 where all 64 are held (R59, R118); on an
empty FIFO it does nothing. -/
def Obligations.TransmitFifoAndSubmit : Prop :=
  (∀ s : State, s.blk.mode ≠ .off →
    let m := { s.blk.mgmt with err := false }
    (∀ w : BitVec 32, ∃ b : Block, exec (.pktTxWord w) s = .next { s with blk := b } ∧
      ({ s.blk with mgmt := if m.tx.length < 128 then { m with tx := m.tx ++ [w] } else { m with overflow := true } } : Block).settlesTo b) ∧
    (∀ both : Bool, ∃ b : Block, exec (.abort both) s = .next { s with blk := b } ∧
      ({ s.blk with mgmt := { m with tx := [] } } : Block).settlesTo b)) ∧
  (∀ s : State, s.blk.mode ≠ .off →
    let b := ({ s.blk with mgmt := { s.blk.mgmt with err := false, tx := [] } } : Block).wakeClocks
    let p := packetOf (s.blk.mgmt.tx.flatMap wordBytes)
    let all := s.blk.entries (fun _ => true)
    ∃ t : Block, exec .submit s = .next { s with blk := t } ∧
      (s.blk.mgmt.tx = [] → ({ s.blk with mgmt := { s.blk.mgmt with err := false } } : Block).settlesTo t) ∧
      (s.blk.mgmt.tx ≠ [] → all < 64 →
        ({ b with pkts := { b.pkts with queue := b.pkts.queue ++ [⟨.mgmt, p, 4 * s.blk.mgmt.tx.length, false, false⟩] } } : Block).settlesTo t) ∧
      (s.blk.mgmt.tx ≠ [] → 64 ≤ all →
        ((b.event 0x22 [(1, 0), (1, p.requester.toNat), (1, p.opcode.toNat), (1, all)]).pushReply .mgmt
          (mkReply 3 p stBusy 0 1000 []) true []).settlesTo t))

/-- MGMT_REGISTER_WRITE, outside OFF: without every byte enabled MGMT_ERR is set and nothing else; a read-only or unlisted offset
ignores the write; the writable registers take it (R57, R58). -/
def Obligations.RegisterWrites : Prop :=
  ∀ (off : BitVec 10) (d : BitVec 32) (be : BitVec 4) (s : State), s.blk.mode ≠ .off →
    let m := { s.blk.mgmt with err := false }
    ∃ b : Block, exec (.mgmtRegisterWrite off d be) s = .next { s with blk := b } ∧
      (be ≠ 15 → ({ s.blk with mgmt := { s.blk.mgmt with err := true } } : Block).settlesTo b) ∧
      (be = 15 → 4 * off.toNat ∉ [0x010, 0x014, 0x018, 0x040, 0x044, 0x04C] → ({ s.blk with mgmt := m } : Block).settlesTo b) ∧
      (be = 15 → 4 * off.toNat = 0x010 →
        ({ s.blk with mgmt := { m with intStatus := m.intStatus &&& ~~~ (d.extractLsb' 0 4) } } : Block).settlesTo b) ∧
      (be = 15 → 4 * off.toNat = 0x014 → ({ s.blk with mgmt := { m with intMask := d.extractLsb' 0 4 } } : Block).settlesTo b) ∧
      (be = 15 → 4 * off.toNat = 0x018 →
        ({ s.blk with mgmt := { m with intStatus := m.intStatus ||| d.extractLsb' 0 4 } } : Block).settlesTo b) ∧
      (be = 15 → 4 * off.toNat = 0x040 →
        ({ s.blk with mgmt := if m.tx.length < 128 then { m with tx := m.tx ++ [d] } else { m with overflow := true } } : Block).settlesTo b) ∧
      (be = 15 → 4 * off.toNat = 0x044 →
        let e : Block := { s.blk with mgmt := { m with overflow := m.overflow && !(d.getLsbD 24) } }
        (if d.getLsbD 1 then { e with mgmt := { e.mgmt with tx := [] } } else if d.getLsbD 0 then e.submit else e).settlesTo b) ∧
      (be = 15 → 4 * off.toNat = 0x04C →
        ({ s.blk with mgmt := { m with underflow := m.underflow && !(d.getLsbD 17) } } : Block).settlesTo b)

/-- In OFF every access of the management port reads zero, is ignored as a write, and leaves MGMT_ERR low (R58). -/
def Obligations.ManagementInOff : Prop :=
  ∀ (c : Instr) (s : State), s.blk.mode = .off →
    (c ∈ [.submit, .pktRxRead, .overflowClear, .underflowClear, .timeLoRead] ∨ (∃ w, c = .pktTxWord w) ∨ (∃ f, c = .abort f) ∨
      (∃ w, c = .intStatusClear w ∨ c = .intMaskWrite w ∨ c = .intSet w) ∨ (∃ o d be, c = .mgmtRegisterWrite o d be)) →
    ∃ b : Block, exec c s = .next { s with blk := b } ∧
      ({ s.blk with mgmt := { s.blk.mgmt with rdata := 0, err := false } } : Block).settlesTo b ∧ b.intOut = 0

/-! ### Credits, flits and packets on the inlets (R49 to R56, R118) -/

/-- A response or reply credit is counted up to 1,023; a grant above that is ignored and records event 0x2E (R52, R55). Command
flit credits that a waiting BUSY reply held back return once it no longer waits. -/
def Obligations.CreditGrants : Prop :=
  ∀ (i : Fin 4) (s : State),
    let n := s.blk.inlet i
    (n.rspCred < 1023 →
      exec (.responseCreditGrant i) s = .next { s with blk := s.blk.modInlet i (fun n => { n with rspCred := n.rspCred + 1 }) }) ∧
    (1023 ≤ n.rspCred → exec (.responseCreditGrant i) s = .next { s with blk := s.blk.event 0x2E [(1, i.val), (1, 1), (1, 0), (2, 0)] }) ∧
    (n.rplCred < 1023 → exec (.replyCreditGrant i) s =
      .next { s with blk := (s.blk.modInlet i (fun n => { n with rplCred := n.rplCred + 1 })).returnOwed i }) ∧
    (1023 ≤ n.rplCred → exec (.replyCreditGrant i) s = .next { s with blk := s.blk.event 0x2E [(1, i.val), (1, 2), (1, 0), (2, 0)] })

/-- R51: a request presented while the fabric holds no credit, or from the second cclk after VOID rises, is discarded without a
response, and event 0x2E records the inlet with the header's requester ID and tag. -/
def Obligations.CreditViolationDiscards : Prop :=
  ∀ (i : Fin 4) (hdr : BitVec 128) (h : ReqHdr) (data : Block512) (mask : BitVec 64) (f : SramFault) (s : State),
    let n := s.blk.inlet i
    let told := fun (rq tag : Nat) => s.blk.event 0x2E [(1, i.val), (1, 0), (1, rq), (2, tag)]
    s.blk.clk.pll = true →
    (n.reqVoid = false ∧ n.reqCred = 0 ∨ n.reqVoid = true ∧ n.reqVoidAt + 1 < s.blk.clk.cclk) →
      exec (.inletCreditViolation i hdr) s = .next { s with blk := told (bitsOf hdr.toNat 8 8) (bitsOf hdr.toNat 16 11) } ∧
      (∃ b : Block, exec (.requestFraming i hdr data mask) s = .next { s with blk := b } ∧
        (told (bitsOf hdr.toNat 8 8) (bitsOf hdr.toNat 16 11)).settlesTo b) ∧
      (∀ c ∈ [Instr.read i h f, .writeFull i h data f, .writePartial i h data mask f, .cancel i h, .fence i h],
        ∃ b : Block, exec c s = .next { s with blk := b } ∧ (told h.requester.toNat h.tag.toNat).settlesTo b)

/-- A command flit that the fabric may not present, because it holds no credit or VOID is high past its grace, is discarded, and event
0x2E of kind 3 records the inlet and the requester ID of a first flit (R54). COMMAND_FLIT under a credit: a flit before the last is kept
and its credit returns; the last, or flit 32, makes the packet, which takes a queue entry, or is answered BUSY where inlet packets hold 60
entries or all 64 are held (R53 to R55, R118). -/
def Obligations.CommandFlits : Prop :=
  (∀ (i : Fin 4) (flit : BitVec 128) (last : Bool) (f : SramFault) (s : State),
    let n := s.blk.inlet i
    s.blk.mode ≠ .off → (n.cmdVoid = false ∧ n.cmdCred = 0 ∨ n.cmdVoid = true ∧ n.cmdVoidAt + 1 < s.blk.clk.cclk) →
    ∀ c ∈ [Instr.commandFlit i flit last f, .commandFlitNoCredit i flit last],
      ∃ b : Block, exec c s = .next { s with blk := b } ∧
        (s.blk.event 0x2E [(1, i.val), (1, 3), (1, if n.flits = [] then (flit.extractLsb' 24 8).toNat else 0), (2, 0)]).settlesTo b) ∧
  (∀ (i : Fin 4) (flit : BitVec 128) (last : Bool) (f : SramFault) (s : State),
    let n := s.blk.inlet i
    let bad := n.flitBad || !(f == .clean)
    let flits := n.flits ++ [flit]
    let p := packetOf (flits.flatMap flitBytes)
    let got := fun (l : List (BitVec 128)) (bad : Bool) => s.blk.modInlet i (fun n => { n with
      cmdCred := n.cmdCred - 1, cmdOwed := n.cmdOwed + 1, flits := l, flitBad := bad })
    let inl := s.blk.entries (fun x => !(x == .mgmt))
    let all := s.blk.entries (fun _ => true)
    s.blk.mode ≠ .off → n.cmdVoid = false → 0 < n.cmdCred → i.val < s.blk.inlets.length → s.blk.mode ≠ .dormant →
    ∃ b : Block, exec (.commandFlit i flit last f) s = .next { s with blk := b } ∧
      (last = false → flits.length < 32 → ((got flits bad).returnOwed i).settlesTo b) ∧
      (last = true ∨ flits.length = 32 → all < 64 → inl < 60 →
        (({ got [] false with pkts := { s.blk.pkts with queue := s.blk.pkts.queue ++
            [⟨.inlet i, p, 16 * flits.length, bad, s.blk.isLate (.inlet i) p⟩] } } : Block).returnOwed i).settlesTo b) ∧
      (last = true ∨ flits.length = 32 → 64 ≤ all ∨ 60 ≤ inl →
        ((((got [] false).event 0x22 [(1, i.val + 1), (1, p.requester.toNat), (1, p.opcode.toNat), (1, all)]).pushReply (.inlet i)
          (mkReply (s.blk.replyLevel (.inlet i) p.requester.toNat) p stBusy 0 1000 []) true []).returnOwed i).settlesTo b))

/-- REPLY_SEND outside DORMANT entry: the first reply of a source leaves when reply credits cover its length, or when its words fit in the
receive FIFO of 256; otherwise it waits (R55, R59). EVENT_PACKET_SEND: the oldest event packet of an inlet leaves under reply credits when
no reply of the inlet waits, with the recipient's count of dropped packets, which starts again from zero; while a reply waits nothing
leaves (R56, R146). -/
def Obligations.PacketsSent : Prop :=
  (∀ (src : Src) (pre post : List Reply) (x : Reply) (s : State),
    s.blk.pkts.replies = pre ++ x :: post → x.src = src → (∀ r ∈ pre, r.src ≠ src) → (∀ t, s.blk.dorm ≠ .replying t) →
    let e : Block := { s.blk with pkts := { s.blk.pkts with replies := pre ++ post } }
    ∃ b : Block, exec (.replySend src) s = .next { s with blk := b } ∧
      (src = .mgmt → s.blk.mgmt.rxWords + 2 * x.pkt.length.toNat ≤ 256 →
        ({ e with mgmt := { s.blk.mgmt with rx := s.blk.mgmt.rx ++ [bytesWords (packetBytes x.pkt)] } } : Block).settlesTo b) ∧
      (∀ i : Fin 4, src = .inlet i → x.pkt.length.toNat / 2 ≤ (s.blk.inlet i).rplCred →
        ((e.modInlet i (fun n => { n with rplCred := n.rplCred - x.pkt.length.toNat / 2, lastPkt := some x.pkt })).returnOwed i).settlesTo b) ∧
      (src = .mgmt → 256 < s.blk.mgmt.rxWords + 2 * x.pkt.length.toNat → s.blk.settlesTo b) ∧
      (∀ i : Fin 4, src = .inlet i → (s.blk.inlet i).rplCred < x.pkt.length.toNat / 2 → s.blk.settlesTo b)) ∧
  (∀ (i : Fin 4) (pre post : List (Src × EvPkt)) (e : EvPkt) (s : State),
    s.blk.pkts.evq = pre ++ (.inlet i, e) :: post → (∀ x ∈ pre, x.1 ≠ .inlet i) →
    let p := s.blk.eventPacket e
    ∃ b : Block, exec (.eventPacketSend (.inlet i)) s = .next { s with blk := b } ∧
      ((∀ r ∈ s.blk.pkts.replies, r.src ≠ .inlet i) → p.length.toNat / 2 ≤ (s.blk.inlet i).rplCred →
        (({ s.blk with pkts := { s.blk.pkts with evq := pre ++ post },
                       recips := tmod {} s.blk.recips e.recipient (fun q => { q with dropped := 0 }) } : Block).modInlet i (fun n =>
          { n with rplCred := n.rplCred - p.length.toNat / 2, lastPkt := some p })).settlesTo b) ∧
      ((∃ r ∈ s.blk.pkts.replies, r.src = .inlet i) → s.blk.settlesTo b) ∧
      p.event = true ∧ p.reply = false ∧ p.opcode = 0x60 ∧ p.seq = BitVec.ofNat 16 e.seq ∧ p.requester = BitVec.ofNat 8 e.recipient)

/-! ### The packet service (R112 to R129) -/

/-- PACKET_FRAMING: a packet that is next and has a framing fault is answered BAD_REQUEST with the first fault's DETAIL, and event
0x20 records source, requester, opcode, DETAIL and SEQ (R115). -/
def Obligations.FramingAnswersBadRequest : Prop :=
  ∀ (src : Src) (p : Packet) (q : QPkt) (s : State),
    let d := s.blk.framing ⟨src, p, 16 + p.body.length, false, s.blk.isLate src p⟩
    s.blk.mode ≠ .off → d ≠ 0 → (s.blk.offered src p).nextPacket = some q → q.src = src → q.pkt = p → q.parityBad = false →
    s.blk.framing q = d → (s.blk.offered src p).framing q = d →
    ∃ b : Block, exec (.packetFraming src p) s = .next { s with blk := b } ∧
      let t := s.blk.taken src p
      (({ t with free := t.free + 1 }.event 0x20
        [(1, srcNum src), (1, p.requester.toNat), (1, p.opcode.toNat), (1, d), (2, p.seq.toNat)]).reply src p stBadRequest d
        (t.refusedP0 q) []).settlesTo b

/-- QUERY_CAPS and PING, executed: OK, with the body of R468, and with the packet's own PARAM0 and body (R133, R468). DEBUG_SRAM_READ and
DEBUG_SRAM_WRITE, executed in the FACTORY state: the words asked for are returned, and the words of the body are kept for later reads; in
another state both answer ACCESS_DENIED and record event 0x2D (R133). -/
def Obligations.QueryPingAndDebugSram : Prop :=
  (∀ (src : Src) (p : Packet) (s : State), s.blk.clears src p = true →
    let t := s.blk.taken src p
    (p.opcode = 0x03 → ∃ b : Block, exec (.queryCaps src p) s = .next { s with blk := b } ∧
      (t.reply src p stOk 0 p.param0.toNat (encFields [(1, 8), (1, Config.siliconRev.toNat), (1, t.blockMin), (1, 3),
        (1, t.servingMask), (1, t.attached), (2, 0)] ++ leBytes 8 Config.serial.toNat ++ List.replicate 16 0)).settlesTo b) ∧
    (p.opcode = 0x04 → ∃ b : Block, exec (.ping src p) s = .next { s with blk := b } ∧
      (t.reply src p stOk 0 p.param0.toNat p.body).settlesTo b)) ∧
  (∀ (src : Src) (p : Packet) (s : State), s.blk.clears src p = true →
    let t := s.blk.taken src p
    (p.opcode = 0xF0 → s.blk.lc = .factory → ∃ b : Block, exec (.debugSramRead src p) s = .next { s with blk := b } ∧
      ({ t with free := t.free + 1 }.reply src p stOk 0 p.param0.toNat
        ((List.range (pP0 p 32 9)).flatMap (fun k => leBytes 8 (t.sramWord p k).toNat))).settlesTo b) ∧
    (p.opcode = 0xF1 → s.blk.lc = .factory → ∃ b : Block, exec (.debugSramWrite src p) s = .next { s with blk := b } ∧
      let kept := (List.range (pP0 p 32 9)).foldl (fun m k => aput m (sramKey p k) (BitVec.ofNat 64 (pBody p (8 * k) 8))) t.dbg.sram
      ({ t with dbg := { t.dbg with sram := kept } }.echo src p stOk 0).settlesTo b) ∧
    (p.opcode = 0xF0 → s.blk.lc ≠ .factory → ∃ b : Block, exec (.debugSramRead src p) s = .next { s with blk := b } ∧
      ((t.debugDenied 1 0xF0 0).echo src p stAccessDenied 0).settlesTo b) ∧
    (p.opcode = 0xF1 → s.blk.lc ≠ .factory → ∃ b : Block, exec (.debugSramWrite src p) s = .next { s with blk := b } ∧
      ((t.debugDenied 1 0xF1 0).echo src p stAccessDenied 0).settlesTo b))

/-- A reply waits behind the others, with the fields of R112: the packet's opcode, requester and SEQ, the reply bit, the full status,
and a body padded to a multiple of 16 bytes whose length LENGTH gives; beside it only the counters of packets answered change. -/
def Obligations.ReplyFields : Prop :=
  ∀ (b : Block) (src : Src) (p : Packet) (st detail p0 : Nat) (body : List Byte), body.length ≤ 496 →
    ∃ r : Packet, (b.reply src p st detail p0 body).sansLog =
        ({ b with pkts := { b.pkts with replies := b.pkts.replies ++ [{ src := src, pkt := r }] } } : Block).sansLog ∧
      r.reply = true ∧ r.event = false ∧ r.rsvd = 0 ∧ r.opcode = p.opcode ∧ r.requester = p.requester ∧ r.seq = p.seq ∧
      r.status = BitVec.ofNat 8 st ∧ r.detail = BitVec.ofNat 8 detail ∧ r.param0 = BitVec.ofNat 64 p0 ∧
      r.body.take body.length = body ∧ r.body.length % 16 = 0 ∧ (∀ x ∈ r.body.drop body.length, x = 0) ∧
      8 * r.length.toNat = 16 + r.body.length

/-- ATTACH, executed, on a free slot where the highest level offered reaches the lowest allowed: the slot is bound to its inlet at that
level with empty buckets, cleared counters and records at their defaults, event 0x24 is recorded, and the reply is OK with the PARAM0 of
R126; the level is the least of the highest offered and 3, and not below BLOCK_MIN (R125, R126, R128). A slot that is attached or
detaching is answered ACCESS_DENIED, and stays as it is (R127). DETACH, executed: an attached target detaches from then on, and the reply
waits; a free or detaching target is answered OK with DETAIL 1. DETACH_DONE, once the target's last request and packet have completed: the
reply is OK, the slot is free with its records at their defaults and its event packets dropped, and event 0x25 is recorded (R129). -/
def Obligations.SlotsBoundAndFreed : Prop :=
  (∀ (i : Fin 4) (p : Packet) (s : State), s.blk.clears (.inlet i) p = true → p.opcode = 0x01 →
    let t := s.blk.taken (.inlet i) p
    let n := p.requester.toNat
    let l := min (pP0 p 4 4) 3
    ∃ b : Block, exec (.attach (.inlet i) p) s = .next { s with blk := b } ∧
      ((t.slot n).attach = .free → max (pP0 p 0 4) t.blockMin ≤ l →
        let u : Block := { t.modSlot n (fun _ => { attach := .att i l, polC := ⟨0, t.clk.cclk⟩, polP := ⟨0, t.clk.cclk⟩, reds := 0 }) with
          cfg := cfgReset (cfgReset t.cfg 0x0400 n) 0x0F02 n, recips := tput {} t.recips n {} }
        ((((u.clearVis n).event 0x24 [(1, n), (1, i.val), (1, l)])).reply (.inlet i) p stOk 0
          ((((u.clearVis n).event 0x24 [(1, n), (1, i.val), (1, l)])).attachP0 n l) []).settlesTo b ∧ t.blockMin ≤ l ∧ l ≤ 3) ∧
      ((t.slot n).attach = .free → l < max (pP0 p 0 4) t.blockMin →
        ((t.event 0x26 [(1, n), (1, i.val), (1, pP0 p 0 4), (1, pP0 p 4 4), (1, t.blockMin)]).pushReply (.inlet i)
          (mkReply 0 p stRejected 1 (t.attachP0 n 0) []) false []).settlesTo b) ∧
      ((t.slot n).attach ≠ .free →
        (t.pushReply (.inlet i) (mkReply 0 p stAccessDenied 0 (t.attachP0 n 0) []) false []).settlesTo b)) ∧
  ((∀ (src : Src) (p : Packet) (s : State), s.blk.clears src p = true → p.opcode = 0x02 →
    let t := s.blk.taken src p
    let n := pP0 p 0 8
    ∃ b : Block, exec (.detach src p) s = .next { s with blk := b } ∧
      (∀ (i : Fin 4) (l : Nat), (t.slot n).attach = .att i l →
        ({ t.modSlot n (fun k => { k with attach := .detaching i l }) with
          pkts := { t.pkts with detachers := t.pkts.detachers ++ [(n, src, p)] } } : Block).settlesTo b) ∧
      ((∀ i l, (t.slot n).attach ≠ .att i l) → (t.reply src p stOk 1 p.param0.toNat []).settlesTo b)) ∧
  (∀ (slot : Fin 128) (i : Fin 4) (l : Nat) (d : Nat × Src × Packet) (s : State), (s.blk.slot slot).attach = .detaching i l →
    s.blk.pkts.detachers.find? (fun x => x.1 == slot.val) = some d → s.blk.slotBusy slot i = false →
    let t := { s.blk with pkts := { s.blk.pkts with detachers := s.blk.pkts.detachers.filter (fun x => !(x.1 == slot.val)) } }.reply
      d.2.1 d.2.2 stOk 0 d.2.2.param0.toNat []
    ∃ b : Block, exec (.detachDone slot) s = .next { s with blk := b } ∧
      (({ t.modSlot slot (fun k => { k with attach := .free }) with
        cfg := cfgReset (cfgReset t.cfg 0x0400 slot) 0x0F02 slot, recips := tput {} t.recips slot {}
        pkts := { t.pkts with evq := t.pkts.evq.filter (fun e => !(e.2.recipient == slot.val)) } } : Block).event 0x25
        [(1, slot.val), (1, i.val), (1, d.2.2.requester.toNat)]).settlesTo b))

/-! ### Configuration packets (R136 to R142) -/

/-- CONFIG_WRITE and CONFIG_READ, executed: an unknown record is REJECTED with DETAIL 1 and an instance that the record does not
have with DETAIL 2; a write passes the clamp checker, its results apply together in that cclk, and the reply carries OK or CLAMPED
and the clamp report; a read returns the instances from OFFSET, at most 496 bytes, and changes no configuration. -/
def Obligations.ConfigWriteAndRead : Prop :=
  ∀ (src : Src) (p : Packet) (s : State), s.blk.clears src p = true →
    let t := s.blk.taken src p
    let id := pP0 p 0 16
    let inst := pP0 p 16 16
    let count := pP0 p 32 8
    (∀ k : Nat, recordRefused id inst count = some k →
      (p.opcode = 0x10 → ∃ b : Block, exec (.configWrite src p) s = .next { s with blk := b } ∧ (t.echo src p stRejected k).settlesTo b) ∧
      (p.opcode = 0x11 → ∃ b : Block, exec (.configRead src p) s = .next { s with blk := b } ∧ (t.echo src p stRejected k).settlesTo b)) ∧
    (∀ size n : Nat, recShape id = some (size, n) → inst + count ≤ n →
      (p.opcode = 0x10 → 0 < count →
        let k := checkPacket t ((List.range count).map (fun j => (id, inst + j, pBody p (size * j) size)))
        ∃ b : Block, exec (.configWrite src p) s = .next { s with blk := b } ∧
          (({ t with stat := { t.stat with savedSince := false } }.applyConfig k false (repEvents src p k.rep)).reply src p
            (if clamps k.rep = 0 then stOk else stClamped) 0 p.param0.toNat (reportBody k.rep 30 t.stamp64)).settlesTo b) ∧
      (p.opcode = 0x11 → ∃ b : Block, exec (.configRead src p) s = .next { s with blk := b } ∧
        (t.reply src p stOk 0 p.param0.toNat (t.configBytes id inst count (pP0 p 40 16))).settlesTo b ∧
        (t.configBytes id inst count (pP0 p 40 16)).length ≤ 496 ∧ (s.blk.noRebuild = true → b.cfg = s.blk.cfg)))

/-- Transactions: CONFIG_STAGE keeps the staged bytes of its record beside those staged before, unless it would open a fifth
transaction or pass 32 KiB, where it answers NOT_READY; CONFIG_COMMIT with CHECK_ONLY reports the check and applies nothing, and
without it applies the whole transaction and closes it, and of a transaction that is not open it is REJECTED with DETAIL 3;
CONFIG_ABORT closes it; STAGE_EXPIRED discards one that got no stage for 1 s, with event 0x27 (R137 to R139). -/
def Obligations.Transactions : Prop :=
  ∀ (src : Src) (p : Packet) (s : State),
    let t := s.blk.taken src p
    let txn := pP0 p 0 16
    let others := t.pkts.txns.filter (fun x => !(x.src == src && x.id == txn))
    (s.blk.clears src p = true → p.opcode = 0x12 → ∀ size n : Nat, recShape (pP0 p 16 16) = some (size, n) → pP0 p 32 16 < n →
      let x : Txn := (t.txn? src txn).getD { src := src, id := txn }
      let old := ((x.staged.find? (fun e => e.1 == pP0 p 16 16 && e.2.1 == pP0 p 32 16)).map (·.2.2)).getD []
      let m := stageBytes old (8 * pP0 p 48 16) (p.body.take (size - 8 * pP0 p 48 16))
      let more := ((t.txn? src txn).isNone = true ∧ 4 ≤ t.pkts.txns.length) ∨ 32768 < t.stagedBytes + m.2
      ∃ b : Block, exec (.configStage src p) s = .next { s with blk := b } ∧
        (more → (t.reply src p stNotReady 0 0 []).settlesTo b) ∧
        (¬ more → ({ t with pkts := { t.pkts with txns := others ++ [{ x with
          staged := putStaged (pP0 p 16 16) (pP0 p 32 16) m.1 x.staged, bytes := x.bytes + m.2, last := t.clk.ns }] } }.reply src p
          stOk 0 p.param0.toNat []).settlesTo b)) ∧
    (s.blk.clears src p = true → p.opcode = 0x13 → ∃ b : Block, exec (.configCommit src p) s = .next { s with blk := b } ∧
      (t.txn? src txn = none → (t.answer src p stRejected 3 p.param0.toNat []).settlesTo b) ∧
      (∀ x : Txn, t.txn? src txn = some x →
        let k := checkPacket t (x.staged.map (fun e => (e.1, e.2.1, t.stagedNat e)))
        let st := if clamps k.rep = 0 then stOk else stClamped
        (pP0 p 16 1 = 1 → ((t.events (repEvents src p k.rep)).replyHold src p (t.objects src p) st 0 p.param0.toNat
          (reportBody k.rep 30 0)).settlesTo b) ∧
        (pP0 p 16 1 = 0 → (({ t with pkts := { t.pkts with txns := others }, stat := { t.stat with savedSince := false } }.applyConfig k
          (k.carried.contains (0x0700, 0)) (repEvents src p k.rep)).replyHold src p (t.objects src p) st 0 p.param0.toNat
          (reportBody k.rep 30 t.stamp64)).settlesTo b))) ∧
    (s.blk.clears src p = true → p.opcode = 0x14 → ∃ b : Block, exec (.configAbort src p) s = .next { s with blk := b } ∧
      ({ t with pkts := { t.pkts with txns := others } }.reply src p stOk (if (t.txn? src txn).isSome then 0 else 1)
        p.param0.toNat []).settlesTo b) ∧
    (∀ (id : BitVec 16) (x : Txn), s.blk.txn? src id.toNat = some x → x.last + 10 ^ 9 ≤ s.blk.clk.ns →
      ∃ b : Block, exec (.stageExpired src id) s = .next { s with blk := b } ∧
        ({ s.blk with pkts := { s.blk.pkts with txns := s.blk.pkts.txns.filter (fun x => !(x.src == src && x.id == id.toNat)) } }.event 0x27
          [(1, srcNum src), (2, id.toNat), (4, x.bytes)]).settlesTo b)

/-! ### Modes (R385, R386, R400 to R403) -/

/-- MODE_SET, executed (R386): to the mode in force it is OK; SERVE and DEGRADED change into each other and COMMISSION into SERVE in
that step, with MODE_CHANGED; SERVE to DORMANT raises every VOID, stops the dredge's time and begins DORMANT entry; every other change is
WRONG_MODE with DETAIL 1, and one that is held back is WRONG_MODE with DETAIL 2 (a channel in use is not ready), 3 (not saved), 4 (a pond is lost,
rebuilt or wiped), 5 (RETIRED) or 7 (a power-fail warning). -/
def Obligations.ModeSetChangesMode : Prop :=
  ∀ (src : Src) (p : Packet) (s : State), s.blk.clears src p = true → p.opcode = 0x20 →
    let t := s.blk.taken src p
    let to3 := pP0 p 0 3
    let unready := t.notReady ≠ []
    let told := fun (b : Block) (x : Block) => x.settlesTo b
    ∃ b : Block, exec (.modeSet src p) s = .next { s with blk := b } ∧
      (to3 = t.mode.code → told b (t.answer src p stOk 0 to3 [])) ∧
      (t.mode = .serve → to3 = 4 → told b ((t.changeMode .degraded 1 0).answer src p stOk 0 4 []) ∧ b.mode = .degraded) ∧
      (t.mode = .serve → to3 = 5 →
        told b (({ (t.raiseReq).raiseCmd with
          dorm := .entering src, stat := { t.stat with dredgeAt := t.clk.ns } } : Block).beginOp src p id) ∧ b.mode = .serve ∧
        b.dorm = .entering src ∧ ∀ n ∈ b.inlets, n.cmdVoid = true) ∧
      (t.mode = .commission → to3 = 3 → ¬ unready → t.stat.savedSince = true → t.lc ≠ .retired → t.pins.pfail = false →
        told b ((t.serveFrom .serve 1 0).answer src p stOk 0 3 []) ∧ b.mode = .serve) ∧
      (t.mode = .commission → to3 = 3 → unready → told b (t.answer src p stWrongMode 2 t.modeBits [])) ∧
      (t.mode = .commission → to3 = 3 → ¬ unready → t.stat.savedSince = false → told b (t.answer src p stWrongMode 3 t.modeBits [])) ∧
      (t.mode = .commission → to3 = 3 → ¬ unready → t.stat.savedSince = true → t.lc = .retired →
        told b (t.answer src p stWrongMode 5 t.modeBits [])) ∧
      (t.mode = .commission → to3 = 3 → ¬ unready → t.stat.savedSince = true → t.lc ≠ .retired → t.pins.pfail = true →
        told b (t.answer src p stWrongMode 7 t.modeBits [])) ∧
      (t.mode = .degraded → to3 = 3 → unready → told b (t.answer src p stWrongMode 2 t.modeBits [])) ∧
      (t.mode = .degraded → to3 = 3 → ¬ unready → (∃ e ∈ t.ponds, e.2.lost = true ∨ e.2.marked = true) →
        told b (t.answer src p stWrongMode 4 t.modeBits [])) ∧
      (t.mode = .degraded → to3 = 3 → ¬ unready → (∀ e ∈ t.ponds, e.2.lost = false ∧ e.2.marked = false) →
        told b ((t.changeMode .serve 1 0).answer src p stOk 0 3 []) ∧ b.mode = .serve) ∧
      (t.mode = .dormant → to3 = 3 → t.pins.pfail = false → (∀ op at_, t.dorm ≠ .leaving op at_) →
        told b ({ t.beginOp src p id with clk := { t.clk with pll := true }, dorm := .leaving true t.clk.ns })) ∧
      (to3 ≠ t.mode.code → (t.mode, to3) ∉ [(.commission, 3), (.degraded, 3), (.serve, 4), (.serve, 5), (.dormant, 3)] →
        told b (t.answer src p stWrongMode 1 t.modeBits []))

/-- DORMANT_ENTRY_COMPLETE, once nothing is in flight: channels that serve enter self-refresh (state 6), the sluice stops, and MODE_SET is
answered OK with PARAM0 5. DORMANT_REPLY_TIMEOUT: the mode is DORMANT, the reply is gone and the clocks stop, unless WAKE is high, which
begins an exit at once (R69, R400). DORMANT_CLOCK_STOP: clocks that a management packet had started stop once no packet, reply or tail
needs them (R401). WAKE high in DORMANT begins an exit unless a power-fail warning has been acted on; its level in any other mode changes
nothing but the level held. DORMANT_EXIT_COMPLETE with no faulted channel: the mode is SERVE, and every channel in self-refresh serves
again (R69, R402). -/
def Obligations.DormantEntryAndExit : Prop :=
  ((∀ (src : Src) (s : State), s.blk.dorm = .entering src → s.blk.stilled = true →
    ∃ b : Block, exec .dormantEntryComplete s = .next { s with blk := b } ∧ (s.blk.fallAsleep src).settlesTo b ∧
      (∃ since, b.dorm = .replying since) ∧ b.mode = s.blk.mode ∧ b.sluice = { running := false, leadIn := false, boundary := 0 } ∧
      (∀ c : Fin 8, (s.blk.chan c).state = 3 ∨ (s.blk.chan c).state = 4 → (b.chan c).state = 6) ∧
      (∀ r ∈ s.blk.pkts.replies, r ∈ b.pkts.replies) ∧
      (∀ o ∈ s.blk.pkts.ops, o.pkt.opcode = 0x20 → o.src = src →
        ∃ r ∈ b.pkts.replies, r.src = src ∧ r.pkt.seq = o.pkt.seq ∧ r.pkt.status = 0 ∧ r.pkt.param0 = 5)) ∧
  (∀ (since : Nat) (s : State), s.blk.dorm = .replying since →
    ∃ b : Block, exec .dormantReplyTimeout s = .next { s with blk := b } ∧ b.mode = .dormant ∧
      b.pkts.replies = s.blk.pkts.replies.filter (fun r => !(r.pkt.opcode == 0x20)) ∧
      (s.blk.pins.wake = false ∨ s.blk.pins.pfail = true → b.dorm = .asleep ∧ b.clk.pll = false) ∧
      (s.blk.pins.wake = true → s.blk.pins.pfail = false → b.dorm = .leaving false s.blk.clk.ns ∧ b.clk.pll = true)) ∧
  (∀ s : State, s.blk.dorm = .clocked → s.blk.pkts.queue = [] → s.blk.pkts.replies = [] → s.blk.pkts.ops = [] → s.blk.tail = none →
    ∃ b : Block, exec .dormantClockStop s = .next { s with blk := b } ∧
      ({ s.blk with clk := { s.blk.clk with pll := false }, dorm := .asleep } : Block).settlesTo b)) ∧
  ((∀ (level : Bool) (s : State), ∃ b : Block, exec (.wake level) s = .next { s with blk := b } ∧
    (s.blk.mode = .dormant → level = true → s.blk.pins.pfail = false → s.blk.dorm = .asleep ∨ s.blk.dorm = .clocked →
      ({ s.blk with pins := { s.blk.pins with wake := true }, clk := { s.blk.clk with pll := true },
                    dorm := .leaving false s.blk.clk.ns } : Block).settlesTo b) ∧
    (s.blk.mode ≠ .dormant ∨ level = false ∨ s.blk.pins.pfail = true →
      ({ s.blk with pins := { s.blk.pins with wake := level } } : Block).settlesTo b)) ∧
  (∀ (op : Bool) (since : Nat) (temps : List (Fin 8 × Fin 6 × BitVec 16)) (drift : List (Fin 8 × DriftRead)) (s : State),
    s.blk.dorm = .leaving op since → s.blk.mode = .dormant →
    ∃ b : Block, exec (.dormantExitComplete 0 temps drift) s = .next { s with blk := b } ∧ b.mode = .serve ∧ b.dorm = .none ∧
      b.keys = s.blk.keys ∧ b.lc = s.blk.lc ∧
      (∀ c : Fin 8, (s.blk.chan c).state = 6 → (b.chan c).state = if s.blk.ddr4 c then 4 else 3) ∧
      (∀ n ∈ b.inlets, n.cmdVoid = false)))

/-! ### The sluice engine (R184 to R192) -/

/-- R191: when NT_VALID falls, the sluice engine continues on the local counter from the last valid time: entries, lead-in and pending
activation are judged on that time, which goes on with the clock; event 0x44 is recorded and MW_MODE.TIME_VALID reads 0. -/
def Obligations.SluiceRunsOnWithoutTime : Prop :=
  ∀ s : State, s.blk.net.valid = true → s.blk.sluice.running = true →
    let lost : Block := { s.blk with net := { s.blk.net with
      valid := false, timeValid := false, lastValid := s.blk.netTime, realign := none } }
    let b := lost.event 0x44 [(8, twos 8 s.blk.netTime)]
    exec .sluiceFreeRun s = .next { s with blk := b } ∧ b.blockTime = s.blk.blockTime ∧ b.sluice = s.blk.sluice ∧
      b.cfg = s.blk.cfg ∧ b.gates = s.blk.gates ∧ b.energyPct = s.blk.energyPct ∧ b.mwMode.testBit 6 = false ∧
      (∀ dt : Nat, (b.advance dt).blockTime - b.blockTime = (b.advance dt).clk.ns - b.clk.ns ∧
        (b.advance dt).netTime - s.blk.netTime = (b.advance dt).clk.ns - s.blk.clk.ns)

/-- Network time that returns or steps is used from then on, and while the engine runs the block waits for the first boundary of the
active list at least 10,000 ns ahead; a step records event 0x06. Loss of time while the engine does not run records nothing (R65,
R191, R192). -/
def Obligations.TimeReturnsAndSteps : Prop :=
  ∀ (nt : BitVec 64) (s : State),
    let off : Int := nt.toNat - s.blk.clk.ns
    let bound := nextBoundary s.blk.cfg 0x0701 (nt.toNat + 10000)
    let used : Net := { s.blk.net with off := off, lastValid := nt.toNat }
    let plan := fun (n : Net) => if s.blk.sluice.running then { n with timeValid := false, realign := some bound } else n
    (s.blk.net.valid = false → s.blk.mode ≠ .off →
      exec (.timeValidReturn nt) s = .next { s with blk := { s.blk with net := plan { used with valid := true, ever := true } } }) ∧
    (∀ k : StepKind, s.blk.net.valid = true → s.blk.clk.pll = true → exec (.timeStep k nt) s = .next { s with
      blk := ({ s.blk with net := plan used } : Block).event 0x06 [(1, stepCode k), (8, twos 8 (nt.toNat - s.blk.netTime))] }) ∧
    (s.blk.net.valid = true → s.blk.sluice.running = false → exec .sluiceFreeRun s = .next { s with
      blk := { s.blk with net := { s.blk.net with valid := false, timeValid := false, lastValid := s.blk.netTime, realign := none } } }) ∧
    off + s.blk.clk.ns = nt.toNat ∧ (0 < listCycle s.blk.cfg 0x0701 → (nt.toNat : Int) + 10000 ≤ bound)

/-- SLUICE_REALIGNED, when the boundary B that a return of time waits for is reached: block time is network time, TIME_VALID is 1, the
lead-in is over, the next late turnover has cause 1, and event 0x45 tells B and the difference of the two times (R192). -/
def Obligations.Realignment : Prop :=
  ∀ (dt : Nat) (at_ : Int) (s : State), s.blk.net.realign = some at_ →
    let t := s.blk.advance dt
    let e : Block := { t with
      net := { t.net with blkOff := t.net.off, timeValid := true, realign := none }, sluice := { t.sluice with leadIn := false } }
    let b := (((e.lateCause 1).rearm at_ false).event 0x45 [(8, twos 8 at_), (8, twos 8 (t.net.blkOff - t.net.off))]).realignChans 255
    exec (.sluiceRealigned dt) s = .next { s with blk := b } ∧ b.blockTime = b.netTime ∧ b.net.timeValid = true ∧
      b.net.realign = none ∧ b.sluice = { s.blk.sluice with leadIn := false } ∧ b.clk = t.clk ∧ b.mode = s.blk.mode ∧
      (s.blk.net.valid = true → s.blk.serving = true → b.stamp = (b.netTime, true))

/-- SLUICE_ENTRY_START and LEAD_IN_END: after the time passed, the gates and the level in force are those of the entry that block time
lies in, of the lead-in until its end, and every gate with the whole cap where the engine stands or the list is empty (R183 to R187). -/
def Obligations.EntriesInForce : Prop :=
  ∀ (dt : Nat) (s : State),
    let t := s.blk.advance dt
    exec (.sluiceEntryStart dt) s = .next { s with blk := t } ∧ t.clk = s.blk.clk.advance dt ∧
    (s.blk.sluice.running = false ∨ listLen s.blk.cfg 0x0701 = 0 → t.gates = 255 ∧ t.allowance = s.blk.pins.capMw) ∧
    (s.blk.sluice.running = true → listLen s.blk.cfg 0x0701 ≠ 0 → s.blk.sluice.leadIn = true →
      t.gates = s.blk.f 0x0701 0 224 ∧
      (s.blk.drain = false → t.allowance = s.blk.pins.capMw * s.blk.f 0x0701 0 (8 * (0x18 + s.blk.f 0x0701 0 232)) / 100)) ∧
    (s.blk.sluice.running = true → listLen s.blk.cfg 0x0701 ≠ 0 → s.blk.sluice.leadIn = false →
      let en := entryAt s.blk.cfg 0x0701 t.blockTime
      t.gates = entryGate s.blk.cfg 0x0701 en ∧
      (s.blk.drain = false → t.allowance = s.blk.pins.capMw * s.blk.f 0x0701 0 (8 * (0x18 + entryLevel s.blk.cfg 0x0701 en)) / 100)) ∧
    (s.blk.sluice.running = true → s.blk.sluice.leadIn = true →
      exec (.leadInEnd dt) s = .next { s with
        blk := (({ t with sluice := { t.sluice with leadIn := false } } : Block).lateCause 2).realignChans 255 })

/-- The schedule's arithmetic (R184, R185): for a list with a cycle of at least 1 ns, the next boundary after a time is the first instant
BASE_TIME + k x cycle at or after it; at a boundary entry 0 is in force; and the entry in force begins at or before the phase, which
lies before its end unless it is the last. -/
def Obligations.ScheduleArithmetic : Prop :=
  ∀ (t : Tab Nat) (id : Nat) (x : Int), 0 < listCycle t id → 0 < listLen t id →
    let cyc : Int := listCycle t id
    let base : Int := listBase t id
    let nb := nextBoundary t id x
    let e := entryAt t id x
    let start := ((List.range e).map (listDur t id)).sum
    x ≤ nb ∧ (∃ k : Int, nb = base + k * cyc) ∧ (∀ k : Int, x ≤ base + k * cyc → nb ≤ base + k * cyc) ∧
    (0 < listDur t id 0 → entryAt t id nb = 0) ∧ e < listLen t id ∧ (listPhase t id x : Int) < cyc ∧ start ≤ listPhase t id x ∧
    (e + 1 < listLen t id → listPhase t id x < start + listDur t id e)

/-- SLUICE_ACTIVATED (R189): record 0x0700 is copied into record 0x0701 with ARM 0 there, the pending list is disarmed and otherwise
kept, no other record changes, the lead-in is cut, and event 0x42 tells the time applied, the cycle and the length. -/
def Obligations.ListActivates : Prop :=
  ∀ (dt : Nat) (s : State), s.blk.sluice.running = true → s.blk.f 0x0700 0 16 = 1 → risingKeys s.blk.cfg = true →
    let t := s.blk.advance dt
    let e : Block := { t with cfg := copyList t.cfg, sluice := { t.sluice with leadIn := false } }
    let b := ((e.lateCause 0).event 0x42 [(8, s.blk.f 0x0700 0 128), (4, sat32 (listCycle e.cfg 0x0701)),
      (2, listLen e.cfg 0x0701)]).realignChans 255
    exec (.sluiceActivated dt) s = .next { s with blk := b } ∧ b.sluice = { s.blk.sluice with leadIn := false } ∧
      (∀ bit : Nat, bit < 2 ^ 16 → bit ≠ 16 → b.f 0x0701 0 bit = s.blk.f 0x0700 0 bit ∧ b.f 0x0700 0 bit = s.blk.f 0x0700 0 bit) ∧
      b.f 0x0701 0 16 = 0 ∧ b.f 0x0700 0 16 = 0 ∧
      (∀ id inst bit : Nat, inst < 2 ^ 12 → bit < 2 ^ 16 → id ≠ 0x0700 → id ≠ 0x0701 → b.f id inst bit = s.blk.f id inst bit)

/-! ### Power cap, temperatures and VDDQ (R66, R67, R77, R273, R314) -/

/-- PCAP_TAKEN, DIE_TEMP_TAKEN and TEMP_INPUT_LOST outside OFF: a valid cap is in force at once and an invalid one changes nothing; die
hold is entered at DIE_CRIT and left 2 °C below it, with event 0x11, and a crossing of DIE_WARN upward records event 0x10 once until
2 °C below; loss of the input ends hold and records event 0x08 once (R66, R67, R273). -/
def Obligations.CapAndDieTemperature : Prop :=
  ∀ s : State, s.blk.mode ≠ .off →
    let b0 := s.blk
    (∀ (mw : BitVec 16) (valid : Bool), ∃ b : Block, exec (.pcapTaken mw valid) s = .next { s with blk := b } ∧
      (if valid then { b0 with pins := { b0.pins with capMw := mw.toNat, capValid := true } } else b0).settlesTo b) ∧
    (∀ t : BitVec 12,
      let warn : Int := 8 * (b0.f 0x0B01 0 16 : Int)
      let crit : Int := 8 * (b0.f 0x0B01 0 24 : Int)
      let hot := decide (crit ≤ t.toInt)
      let cool := decide (t.toInt ≤ crit - 16)
      let e : Block := { b0 with
        pins := { b0.pins with dieTemp := some t, lastDie := t },
        stat := { b0.stat with dieHold := hot || (b0.stat.dieHold && !cool),
                               dieWarned := decide (warn ≤ t.toInt) || (b0.stat.dieWarned && !decide (t.toInt ≤ warn - 16)) } }
      let told := if !b0.stat.dieWarned && decide (warn ≤ t.toInt) then e.event 0x10 [(2, twos 2 t.toInt), (2, e.dieScale)] else e
      ∃ b : Block, exec (.dieTempTaken t) s = .next { s with blk := b } ∧
        (if !b0.stat.dieHold && hot then told.event 0x11 [(1, 0), (2, twos 2 t.toInt)]
         else if b0.stat.dieHold && cool then told.event 0x11 [(1, 1), (2, twos 2 t.toInt)] else told).settlesTo b ∧
        (crit ≤ t.toInt → b0.drain = false → ∀ c : Nat, b.chanMw c = 0)) ∧
    (∀ t : BitVec 12, b0.pins.dieTemp = some t → ∃ b : Block, exec .tempInputLost s = .next { s with blk := b } ∧
      (({ b0 with pins := { b0.pins with dieTemp := none }, stat := { b0.stat with dieHold := false, dieWarned := false } } : Block).event
        0x08 [(2, twos 2 t.toInt)]).settlesTo b) ∧
    (b0.pins.dieTemp = none → ∃ b : Block, exec .tempInputLost s = .next { s with blk := b } ∧ b0.settlesTo b)

/-- VDDQ_CHECK of a channel in use, outside OFF and DORMANT: inside its window a serving channel goes on, a first failure is counted,
a second one fences the channel, which reads state 5, and the block is DEGRADED; a channel in training that fails reads state 1, with
event 0xD of the channel. THERMAL_POLL of a serving channel keeps each sensor's reading; a third failed poll in a row makes it read
0x8000 (R77, R314). -/
def Obligations.VddqAndSensors : Prop :=
  ∀ (c : Fin 8) (s : State), s.blk.chans.length = 8 → s.blk.mode ≠ .off → s.blk.mode ≠ .dormant →
    let b0 := s.blk
    (∀ mv : BitVec 16, b0.inUse c = true →
      let ok := if b0.f 0x0100 c 1 = 0 then decide (1067 ≤ mv.toNat ∧ mv.toNat ≤ 1133)
        else decide (1164 ≤ mv.toNat ∧ mv.toNat ≤ 1236)
      let seen := fun (n : Nat) => b0.modPhy c (fun h => { h with vddqMv := mv.toNat, vddqSeen := true, vddqBad := n })
      ∃ b : Block, exec (.vddqCheck c mv) s = .next { s with blk := b } ∧
        (b0.chanServes c = true → ok = true → (seen 0).settlesTo b) ∧
        (b0.chanServes c = true → ok = false → (b0.chan c).phy.vddqBad = 0 → (seen 1).settlesTo b) ∧
        (b0.chanServes c = true → ok = false → (b0.chan c).phy.vddqBad ≠ 0 →
          (b.chan c).state = 5 ∧ b.mode = (if b0.mode = .serve then .degraded else b0.mode) ∧
          ∀ k : Fin 8, k ≠ c → (b.chan k).state = (b0.chan k).state) ∧
        ((b0.chan c).state = 2 → ok = false → (b.chan c).state = 1 ∧ b.mode = b0.mode)) ∧
    (∀ rs : List (Option (BitVec 16)), b0.chanServes c = true → (b0.chan c).phy.temps.length = 6 → (b0.chan c).phy.tempBad.length = 6 →
      (b0.chan c).phy.tempGood.length = 6 →
      ∃ b : Block, exec (.thermalPoll c rs) s = .next { s with blk := b } ∧ (b0.pollSensors c rs).settlesTo b ∧
        (∀ k : Fin 6, b0.sensorAt c k = true → (b0.chan c).phy.tempBad.getD k 0 < 3 →
          (∀ v : BitVec 16, rs[k.val]? = some (some v) → (b.chan c).phy.temps.getD k 0 = v.toNat) ∧
          (rs[k.val]? = some none → (b.chan c).phy.tempBad.getD k 0 = (b0.chan c).phy.tempBad.getD k 0 + 1 ∧
            ((b0.chan c).phy.tempBad.getD k 0 = 2 → (b.chan c).phy.temps.getD k 0 = 0x8000))) ∧
        (∀ k : Fin 6, b0.sensorAt c k = false → (b.chan c).phy.temps.getD k 0 = (b0.chan c).phy.temps.getD k 0))

/-! ### Alerts and replay (R242 to R246) -/

/-- The alert commands on a serving channel: an alert or a missing burst stops selection until ALERT_n is high, whereupon the replay
runs; an alert in a replay fails it, and the third within 1 s fences the channel; an alert in recovery, and an ALERT_n that stays low,
fence it; a replay that succeeds is recorded as local event 4 and selection resumes (R242, R244 to R246). -/
def Obligations.AlertsAndReplay : Prop :=
  ∀ (c : Fin 8) (s : State), s.blk.chans.length = 8 → s.blk.chanServes c = true → s.blk.clk.pll = true →
    let b0 := s.blk
    let st := (b0.chan c).alert
    let fenced := fun (b : Block) => (b.chan c).state = 5 ∧ b.mode = (if b0.mode = .serve then .degraded else b0.mode)
    let recent := ((b0.chan c).fails.filter (fun t => b0.clk.ns ≤ t + 10 ^ 9)).length
    (∀ missing : Bool, ∃ b : Block, exec (if missing then .missingBurst c else .alert c) s = .next { s with blk := b } ∧
      (missing = true → (∀ k ∈ (b0.chan c).queues, k.flight = []) → b0.settlesTo b) ∧
      (missing = false ∨ (∃ k ∈ (b0.chan c).queues, k.flight ≠ []) →
        (st = .none → (b0.startAlert c missing).settlesTo b ∧ (b.chan c).alert = .waitHigh missing ∧ b.mayselect c = false) ∧
        (∀ m : Bool, st = .replaying m → 2 ≤ recent → fenced b) ∧
        (∀ m : Bool, st = .replaying m → recent < 2 → (b.chan c).alert = .recoveryWait ∧ b.mode = b0.mode) ∧
        (st = .recovery → fenced b) ∧ ((∃ m, st = .waitHigh m) ∨ st = .recoveryWait → b0.settlesTo b))) ∧
    (∃ b : Block, exec (.alertReleased c) s = .next { s with blk := b } ∧
      (∀ m : Bool, st = .waitHigh m → (b.chan c).alert = .replaying m ∧
        (((b0.queuesOf c).foldl (fun b q => b.replayQueue c q) b0).modChan c (fun ch => { ch with alert := .replaying m })).settlesTo b) ∧
      (st = .recoveryWait → (b.chan c).alert = .recovery ∧
        ((b0.recover c).modChan c (fun ch => { ch with alert := .recovery })).settlesTo b) ∧
      (st ≠ .recoveryWait → (∀ m, st ≠ .waitHigh m) → b0.settlesTo b)) ∧
    (∃ b : Block, exec (.stuckAlertFence c) s = .next { s with blk := b } ∧
      ((∃ m, st = .waitHigh m) ∨ st = .recoveryWait → fenced b) ∧
      (st ≠ .recoveryWait → (∀ m, st ≠ .waitHigh m) → b0.settlesTo b)) ∧
    (∃ b : Block, exec (.alertReplayed c) s = .next { s with blk := b } ∧
      (∀ m : Bool, st = .replaying m →
        let ok := ((b0.chan c).replays.filter (fun t => b0.clk.ns ≤ t + 10 ^ 9)) ++ [b0.clk.ns]
        let n := ((b0.queuesOf c).map (fun q => ((b0.chan c).queue q).replay.length)).sum
        ((b0.modChan c (fun ch => { ch with replays := ok, alert := .none })).event (chanCode c 4)
          [(1, if b0.ddr4 c then 1 else 3), (1, if m then 1 else 0), (4, n), (4, sat32 ok.length)]).settlesTo b) ∧
      (st = .recovery → (b0.modChan c (fun ch => { ch with alert := .none })).settlesTo b) ∧
      (st ≠ .recovery → (∀ m, st ≠ .replaying m) → b0.settlesTo b))

/-! ### Admission (R195 to R213) -/

/-- The draw of R201 over requesters with their tickets, in ascending order: v is LFSR x total / 2^32 rounded down, and the winner is
the requester whose tickets v falls on; with no ticket at all there is no winner. The choice of a grant (R199 to R203): with a candidate
there is always a choice, and it is a candidate; an ordinary grant goes to the lowest class number with a candidate and, within the
requester drawn, to a request that no other of it is older than; a reserved grant goes to a candidate that no other is older than. -/
def Obligations.DrawAndChoice : Prop :=
  (∀ (lfsr : BitVec 32) (rs : List (Nat × Nat)),
    let total := (rs.map (·.2)).sum
    let v := lfsr.toNat * total / 2 ^ 32
    (total = 0 → drawOf lfsr rs = none) ∧
    (0 < total → v < total ∧ ∃ (pre post : List (Nat × Nat)) (r : Nat × Nat), rs = pre ++ r :: post ∧ drawOf lfsr rs = some r.1 ∧
      (pre.map (·.2)).sum ≤ v ∧ v < (pre.map (·.2)).sum + r.2)) ∧
  (∀ (b : Block) (c : Nat) (lfsr : BitVec 32), b.candidates c ≠ [] →
    ∃ (d : DReq) (res : Bool), b.choose c lfsr = some (d, res) ∧ d ∈ b.candidates c ∧
      (res = false → (∀ x ∈ b.candidates c, min x.cls 7 < d.cls → False) ∧
        (∀ x ∈ b.candidates c, x.cls = d.cls → x.requester = d.requester → x.older d = false)) ∧
      (res = true → ∀ x ∈ b.candidates c, x.older d = false))

/-- ARBITER_GRANT and TENURE_FOLLOW_ON on a serving channel with its clock running: without a candidate, or while the tenure has a
follow-on, nothing is granted; a grant advances the LFSR, starts a tenure of its requester and class, and admits the request; a tenure
admits its next follow-on, and ends where it has none (R200 to R207). -/
def Obligations.GrantsAndTenures : Prop :=
  ∀ (c : Fin 8) (s : State), s.blk.chanServes c = true → s.blk.clk.pll = true →
    let g := (s.blk.dropPrefetches c).toAdmit c
    let f := s.blk.toAdmit c
    (∃ b : Block, exec (.arbiterGrant c) s = .next { s with blk := b } ∧
      ((g.followOn c).isSome = true ∨ g.candidates c = [] → g.settlesTo b) ∧
      (∀ (d : DReq) (res : Bool), g.followOn c = none → g.candidates c ≠ [] →
        g.choose c (lfsrStep (g.chan c).lfsr) = some (d, res) →
        let n := g.f 0x0800 c 0
        let t := g.modChan c (fun ch => { ch with lfsr := lfsrStep (g.chan c).lfsr, tenure := some ⟨d.requester, d.cls, 1⟩,
                                                  resCount := if res || n == 0 then 0 else ch.resCount + 1 })
        let t := if res then (t.arbAdd c d.requester 0 1).arbAdd c d.requester 4 1 else t.arbAdd c d.requester 0 1
        let t := t.countC c 0x0D (some d.cls) (some d.requester) none 1
        ((if res then t.countC c 0x0E (some d.cls) (some d.requester) none 1 else t).admitDReq c d res false).settlesTo b)) ∧
    (∃ b : Block, exec (.tenureFollowOn c) s = .next { s with blk := b } ∧
      (f.followOn c = none → (f.modChan c (fun ch => { ch with tenure := none })).settlesTo b) ∧
      (∀ d : DReq, f.followOn c = some d →
        (((f.modChan c (fun ch => { ch with tenure := ch.tenure.map (fun t => { t with count := t.count + 1 }) })).countC c 0x0F
          (some d.cls) (some d.requester) none 1).admitDReq c d false true).settlesTo b ∧
        d ∈ f.candidates c ∧ ∃ t : Tenure, (f.chan c).tenure = some t ∧ t.count < f.f 0x0800 c 8 ∧ d.requester = t.requester ∧ d.cls = t.cls))

/-- ENQUEUE: the oldest granted request of a serving channel enters its queue no earlier than two cclk after its grant, and its wait is
counted; with none granted nothing happens. ADMISSION_SATURATED: a wait list full for 1 µs records event 0x46 (R207, R212, R213). -/
def Obligations.EnqueueAndSaturation : Prop :=
  ∀ (c : Fin 8) (s : State),
    (∃ b : Block, exec (.enqueue c) s = .next { s with blk := b } ∧
      ((s.blk.chan c).granted = [] → s.blk.settlesTo b) ∧
      (∀ (d : DReq) (l : List DReq), (s.blk.chan c).granted = d :: l → s.blk.chanServes c = true →
        let t := s.blk.advance (max (d.grantAt + 2) (((s.blk.chan c).lastEnq.map (· + 1)).getD 0) - s.blk.clk.cclk)
        (s.blk.clk.pll = true → d.grantAt + 2 ≤ t.clk.cclk) ∧
        ((((t.arbAdd c d.requester 1 1).arbAdd c d.requester 2 (d.grantAt - d.born)).arbMax c d.requester (d.grantAt - d.born)).enqueue
          c d).settlesTo b)) ∧
    ((s.blk.chan c).fullSince = none → exec (.admissionSaturated c) s = .next s) ∧
    (∀ t : Nat, (s.blk.chan c).fullSince = some t →
      exec (.admissionSaturated c) s = .next { s with
        blk := if s.blk.clk.hz ≤ (s.blk.clk.cclk - t) * 10 ^ 6 then
          s.blk.event 0x46 [(1, c.val), (4, (s.blk.chan c).outside.length), (4, sat32 (s.blk.clk.cclk - t))] else s.blk })

/-! ### The scheduler and the governor (R225 to R235, R263 to R271) -/

/-- Ranking (R229): the command that a slot takes is one of the candidates, and no candidate ranks above it. -/
def Obligations.RankingTakesTheTop : Prop :=
  ∀ (short : Bool) (l : List Cand),
    (l = [] ↔ topCand short l = none) ∧ (∀ x : Cand, topCand short l = some x → x ∈ l ∧ ∀ y ∈ l, y.above short x = false)

/-- COMMAND_SELECT: a channel that does not serve, stands in a turnover stall or answers an alert selects nothing; otherwise the queue
takes its direction, and the highest-ranked affordable command, if any, is selected: the column command of a request, a row command or
power-down exit for a request, or a close (R225 to R235, R270). -/
def Obligations.SelectionTakesOneCommand : Prop :=
  ∀ (c : Fin 8) (q : Fin 2) (s : State),
    let b0 := s.blk
    let sc := if b0.ddr4 c then none else some q.val
    let r := b0.direct c ((b0.chan c).queue q)
    let t := (b0.modQueue c q (fun _ => r.1)).countC c 0x16 none none sc r.2
    let k := (t.chan c).queue q
    let free := t.openSlots c k
    let all := (t.reqCands c k).filter (fun x => if x.cmd.kind.column then free.1 else free.2)
    let u := if all.any (fun x => !(t.affordable c x.cmd.kind)) then t.goShort c else t
    let pick := topCand (u.chan c).gov.short ((all.filter (fun x => u.affordable c x.cmd.kind)) ++ (if free.2 then u.closeCands c k else []))
    ∃ b : Block, exec (.commandSelect c q) s = .next { s with blk := b } ∧
      (b0.mayselect c = false ∨ (b0.ddr4 c = true ∧ q ≠ 0) → b0.settlesTo b) ∧
      (b0.mayselect c = true → b0.ddr4 c = false ∨ q = 0 → pick = none → u.settlesTo b) ∧
      (∀ x : Cand, b0.mayselect c = true → b0.ddr4 c = false → pick = some x →
        let v := if x.overdue then u.countC c 0x17 (x.ent.map (·.d.cls)) none sc 1 else u
        (∀ e : QEnt, x.ent = some e → x.cmd.kind.column = true → (v.colSelect c q e x.cmd).settlesTo b) ∧
        (∀ e : QEnt, x.ent = some e → x.cmd.kind.column = false → (v.rowSelect c q x).settlesTo b) ∧
        (x.ent = none → (v.rowSelect c q x).settlesTo b))

/-- GOVERNOR_CYCLE: a CK/2 cycle passes on a serving channel, and a governed channel's bucket gains A_c x P256 less the background
charge, up to its depth (R268). ENERGY_STALL records local event 0xA for each 10 µs of shortage with A_c above 0 (R271). -/
def Obligations.GovernorCycles : Prop :=
  ∀ (c : Fin 8) (s : State), s.blk.chans.length = 8 →
    (∀ dt : Nat,
      let t := s.blk.advance dt
      let p := t.p256 c
      let awake := ((List.range (t.units c)).filter (fun u => !((t.chan c).pd.contains u))).length
      ∃ b : Block, exec (.governorCycle c dt) s = .next { s with blk := b } ∧
        (s.blk.chanServes c = false ∨ s.blk.clk.pll = false → t.settlesTo b) ∧
        (s.blk.chanServes c = true → s.blk.clk.pll = true → (b.chan c).ck2 = (s.blk.chan c).ck2 + 1 ∧
          (b.chan c).gov.level = if s.blk.governed c then
            min ((s.blk.chan c).gov.level + ((t.chanMw c * p : Nat) : Int) - ((t.pj c 128 * awake * p / 1000 : Nat) : Int)) (t.depth c)
            else (s.blk.chan c).gov.level)) ∧
    (let g := (s.blk.chan c).gov
     (g.short = true → s.blk.governed c = true → s.blk.chanMw c ≠ 0 → g.shortSince + 10000 ≤ s.blk.clk.ns →
       let told := s.blk.event (chanCode c 0xA)
         [(2, s.blk.chanMw c), (8, twos 8 g.level), (8, twos 8 (s.blk.depth c)), (2, s.blk.scale c)]
       let b := told.modChan c (fun ch => { ch with gov := { ch.gov with shortSince := s.blk.clk.ns } })
       exec (.energyStall c) s = .next { s with blk := b }) ∧
     (g.short = false ∨ s.blk.governed c = false ∨ s.blk.chanMw c = 0 ∨ s.blk.clk.ns < g.shortSince + 10000 →
       exec (.energyStall c) s = .next s))

/-- KEEP_OPEN_TIMEOUT: a row open for KEEP_OPEN_TIMEOUT CK since its last column command is marked to be closed, and counted as deferred
while the channel is energy-short; otherwise nothing changes (R235). POWER_DOWN_ENTRY: a unit that is idle, enabled and without
requests, and every rank on its CKE, enters power-down with its banks closed; otherwise nothing changes (R263). -/
def Obligations.TimeoutsAndPowerDown : Prop :=
  ∀ (c : Fin 8) (s : State), s.blk.chans.length = 8 →
    let sc := fun (q : Nat) => if s.blk.ddr4 c then none else some q
    (∀ (q : Fin 2) (bank : Nat),
      let x := tget {} ((s.blk.chan c).queue q).banks bank
      let n := s.blk.f 0x0900 c 16
      let due := x.openRow ≠ none ∧ n ≠ 0 ∧ x.lastCol + n ≤ 2 * (s.blk.chan c).ck2 ∧ x.deferred = false
      let t := s.blk.modQueue c q (fun k => { k with banks := tput {} k.banks bank { x with deferred := true } })
      (due → exec (.keepOpenTimeout c q bank) s = .next { s with
        blk := if (s.blk.chan c).gov.short then t.countC c 0x18 none none (sc q) 1 else t }) ∧
      (¬ due → exec (.keepOpenTimeout c q bank) s = .next s)) ∧
    (∀ u : Fin 8,
      let mates := s.blk.ckeMates c u
      let ready := s.blk.chanServes c = true ∧ (s.blk.chan c).alert = .none ∧
        ∀ v ∈ mates, s.blk.pdReady c v = true ∧ (s.blk.chan c).pd.contains v = false
      (¬ ready → exec (.powerDownEntry c u) s = .next s) ∧
      (ready → ∃ b : Block, exec (.powerDownEntry c u) s = .next { s with blk := b } ∧ (b.chan c).pd = (s.blk.chan c).pd ++ mates ∧
        b.mode = s.blk.mode ∧ b.chans.map Chan.state = s.blk.chans.map Chan.state ∧ b.reqs = s.blk.reqs ∧ b.cfg = s.blk.cfg))

/-! ### The silt log (R416 to R428) -/

/-- An occurrence of a code that is not reserved (R416, R417, R420, R421, R423): OCCURRENCES rises by 1 and wraps; with BUDGET 0 nothing
else happens; otherwise PENDING of its severity is set unless MASK is 1, and within the budget, where the log has room, the record is
appended with NEXT_SEQ, the time, its severity and the payload; past the budget it is counted as suppressed and not written. Nothing
but the log, the counters, PENDING and the event packets with their recipients changes. -/
def Obligations.EventsAreRecorded : Prop :=
  ∀ (b : Block) (code : Nat) (fields : List (Nat × Nat)), evReserved code = false → twf 0 b.log.occ = true →
    let e := b.event code fields
    let payload := encFields fields
    let size := 16 + (padTo 8 payload).length
    let limit := b.log.limit code
    e.sansLog = b.sansLog ∧ tget 0 e.log.occ code = (tget 0 b.log.occ code + 1) % 2 ^ 32 ∧
    (∀ k : Nat, k ≠ code → tget 0 e.log.occ k = tget 0 b.log.occ k) ∧
    (limit = 0 → e = { b with log := { b.log with occ := tput 0 b.log.occ code ((tget 0 b.log.occ code + 1) % 2 ^ 32) } }) ∧
    (limit ≠ 0 → b.f 0x0F00 code 8 ≠ 1 → e.mgmt.intStatus = b.mgmt.intStatus ||| (1#4 <<< evSev code)) ∧
    (b.f 0x0F00 code 8 = 1 → e.mgmt.intStatus = b.mgmt.intStatus) ∧
    (tget 0 b.log.used code < limit → recsSize b.log.recs + size ≤ 262144 →
      e.log.recs = b.log.recs ++ [⟨code, evSev code, decide (0x80 ≤ code), if 0x80 ≤ code then (code - 0x80) / 16 else 0, b.stamp.2,
        b.log.nextSeq, b.stamp64, payload⟩] ∧
      e.log.nextSeq = (b.log.nextSeq + 1) % 2 ^ 16 ∧ e.log.evicted = b.log.evicted ∧ e.log.discarded = b.log.discarded) ∧
    (limit ≠ 0 → limit ≤ tget 0 b.log.used code → e.log.recs = b.log.recs ∧ e.log.nextSeq = b.log.nextSeq ∧
      ∃ x : Supp, aget e.log.supp code = some x ∧ x.lastTs = b.stamp64 ∧
        x.count = sat32 (((aget b.log.supp code).map (·.count)).getD 0 + 1))

/-- EVENTS_READ, EVENTS_SUBSCRIBE and EVENTS_CLEAR, executed. A read returns whole records in order, at most 496 bytes and at most its
limit, and removes nothing. A subscription replaces the sender's whole record, and a bit of a reserved code, or one that a tenant may
not see, is 0. A clear empties the log, writes event 0x3E as its first record and answers with the count removed (R425 to R428). -/
def Obligations.LogPackets : Prop :=
  ∀ (src : Src) (p : Packet) (s : State), s.blk.clears src p = true →
    let t := s.blk.taken src p
    (p.opcode = 0x60 →
      let pg := t.log.page (pP0 p 0 16) (pP0 p 16 8)
      let body := pg.1.flatMap (fun r => r.bytes false)
      ∃ b : Block, exec (.eventsRead src p .clean) s = .next { s with blk := b } ∧
        (t.reply src p stOk 0 ((if pg.2 = [] then 0 else 1) + pg.1.length * 2 ^ 8 +
          ((pg.2.head?.map (·.seq)).getD t.log.nextSeq) * 2 ^ 16) body).settlesTo b ∧
        body.length ≤ 496 ∧ (pP0 p 16 8 ≠ 0 → pg.1.length ≤ pP0 p 16 8) ∧ (∃ pre, t.log.recs = pre ++ pg.1 ++ pg.2)) ∧
    (p.opcode = 0x61 →
      let id := match src with | .mgmt => 0x0F03 | .inlet _ => 0x0F02
      let inst := match src with | .mgmt => 0 | .inlet _ => p.requester.toNat
      let owner := t.sendsAsOwner src p.requester.toNat
      ∃ (b : Block) (cfg : Tab Nat) (rep : List RepEnt), exec (.eventsSubscribe src p) s = .next { s with blk := b } ∧
        (({ t with cfg := cfg } : Block).replyReport src p [] rep []).settlesTo b ∧
        (∀ e : Nat, e < 256 → cfgGet cfg id inst e =
          if (p.body.getD (e / 8) 0).getLsbD (e % 8) && !evReserved e && (owner || evTenantVisible e) then 1 else 0) ∧
        (∀ id' inst' e : Nat, inst' < 2 ^ 12 → e < 2 ^ 16 → (id', inst') ≠ (id, inst) → cfgGet cfg id' inst' e = cfgGet t.cfg id' inst' e)) ∧
    (p.opcode = 0x62 →
      let e := ({ t with log := { t.log with recs := [] } } : Block).event 0x3E [(1, p.requester.toNat), (4, t.log.recs.length)]
      ∃ b : Block, exec (.eventsClear src p) s = .next { s with blk := b } ∧ (e.reply src p stOk 0 t.log.recs.length []).settlesTo b)

/-! ### Counters and soundings (R421, R422, R435 to R452) -/

/-- COUNTERS_READ and COUNTERS_CLEAR, executed (R437, R438, R442, R443). The body of set 0 or of a channel is 96 bytes with CYCLE, OVF and
the eight counters, that of a slot is 144 bytes. A clear leaves exactly the counters of its set at zero, with CYCLE of a channel and
DROPPED_EVENTS of the inlets for set 0; the packet's own counts are cleared with it. -/
def Obligations.CounterPackets : Prop :=
  ∀ (src : Src) (p : Packet) (s : State), s.blk.clears src p = true →
    let t := s.blk.taken src p
    let set := pP0 p 0 8
    (p.opcode = 0x70 →
      ∃ (b : Block) (body : List Byte), exec (.countersRead src p) s = .next { s with blk := b } ∧
        (t.reply src p stOk 0 p.param0.toNat body).settlesTo b ∧ body.length = (if set < 16 then 96 else 144) ∧
        (set < 16 → body.take 8 = leBytes 8 (if set = 0 then t.cycle0 else (t.chan (set - 1)).cycle) ∧
          (body.drop 8).take 8 = leBytes 8 (twos 8 t.blockTime) ∧ (body.drop 16).take 8 = leBytes 8 (tget 0 t.ctr.ovf set) ∧
          ∀ i : Fin 8, (body.drop (24 + 8 * i.val)).take 8 = leBytes 8 (tget 0 t.ctr.prog (8 * set + i.val)))) ∧
    (p.opcode = 0x71 →
      let r := t.echo src p stOk 0
      ∃ b e : Block, exec (.countersClear src p) s = .next { s with blk := b } ∧ e.settlesTo b ∧ { e with ctr := r.ctr, inlets := r.inlets, chans := r.chans } = r ∧
        (set < 16 → (∀ i : Fin 8, tget 0 e.ctr.prog (8 * set + i.val) = 0) ∧
          (∀ k : Nat, k < 8 * set ∨ 8 * set + 8 ≤ k → tget 0 e.ctr.prog k = tget 0 r.ctr.prog k) ∧ e.ctr.vis = r.ctr.vis ∧
          ∀ k : Nat, k ≠ set → tget 0 e.ctr.ovf k = tget 0 r.ctr.ovf k) ∧
        (set = 0 → ∀ n ∈ e.inlets, n.dropped = 0) ∧
        (0 < set → set ≤ r.chans.length → set < 16 → (e.chan (set - 1)).cycle = 0) ∧
        (16 ≤ set → e.ctr.prog = r.ctr.prog ∧ (∀ k : Fin 32, tget 0 e.ctr.vis (32 * (set - 16) + k.val) = 0) ∧
          ∀ k : Nat, k < 32 * (set - 16) ∨ 32 * (set - 16) + 32 ≤ k → tget 0 e.ctr.vis k = tget 0 r.ctr.vis k))

/-- SOUNDINGS_READ, SOUNDINGS_CONTROL, QUEUE_SOUNDING and RATE_WINDOW_BOUNDARY (R421, R428, R445, R449, R450, R452). A read returns
64 bytes of each slot, in order round the buffer; CLEAR empties the buffer and its holding queue; at the end of a QUEUE_INTERVAL the
record of each selected channel that serves is held, up to 16; at the end of a window the counts of the limits start again, with the
limits then configured. -/
def Obligations.SoundingsAndWindows : Prop :=
  ∀ s : State,
    (∀ (src : Src) (p : Packet), s.blk.clears src p = true →
      let t := s.blk.taken src p
      (p.opcode = 0x72 → ∃ (b : Block) (body : List Byte), exec (.soundingsRead src p .clean) s = .next { s with blk := b } ∧
        (t.reply src p stOk 0 p.param0.toNat body).settlesTo b ∧ body.length = 64 * pP0 p 12 3 ∧
        ∀ k : Nat, k < pP0 p 12 3 →
          (body.drop (64 * k)).take 64 = leBytes 64 ((aget t.snd.buf ((pP0 p 0 12 + k) % 4096)).getD 0).toNat) ∧
      (p.opcode = 0x73 →
        let k := checkPacket t [(0x1010, 0, p.param0.toNat)]
        let r := (t.applyConfig k false (repEvents src p k.rep)).reply src p (repStatus k.rep) 0 p.param0.toNat (t.repBody k.rep)
        ∃ b e : Block, exec (.soundingsControl src p) s = .next { s with blk := b } ∧ e.settlesTo b ∧
        { e with snd := r.snd } = r ∧ (p.param0.getLsbD 63 = false → e = r) ∧ e.snd.lost = r.snd.lost ∧
        (p.param0.getLsbD 63 = true → e.snd.buf = [] ∧ e.snd.hold = [] ∧ e.snd.records = 0 ∧ e.snd.writeIndex = 0 ∧
          e.snd.stopped = false ∧ e.snd.wrapped = false))) ∧
    (∀ dt : Nat,
      let t := s.blk.advance dt
      (∃ b e : Block, exec (.queueSounding dt) s = .next { s with blk := b } ∧ e.settlesTo b ∧
        (t.f 0x1010 0 0 = 1 → t.f 0x1010 0 16 ≠ 0 → t.clk.pll = true → t.snd.hold.length ≤ 16 →
          let due := (List.range 8).filter (fun c => (t.f 0x1010 0 32).testBit c && t.chanServes c)
          e.snd.hold = (t.snd.hold ++ due.map t.queueRecord).take 16 ∧ e.snd.buf = t.snd.buf ∧
          e.frame = t.frame ∧ e.reqs = t.reqs) ∧
        (t.f 0x1010 0 0 ≠ 1 ∨ t.f 0x1010 0 16 = 0 ∨ t.clk.pll = false → e = t)) ∧
      (∃ b e : Block, exec (.rateWindowBoundary dt) s = .next { s with blk := b } ∧ e.settlesTo b ∧ e.sansLog = t.sansLog ∧
        (s.blk.mode ≠ .off → e.log.used = [] ∧ e.log.supp = [] ∧ e.log.budget = t.budgets ∧ e.log.windowMs = t.f 0x0F01 0 0)))

/-! ### The retained image (R407 to R414) -/

/-- IMAGE_SAVE and its end (R407, R62, R123). The image captured has the next SAVE_SEQ, the block time, the sparing map, and every live
value of the fields that an image saves, others at their Default; retention SRAM holds it from then on. The save ends OK with the bytes
written; after a failed burst REJECTED with DETAIL 6; and NOT_READY where a power-fail warning stops it in COMMISSION. -/
def Obligations.ImageSaves : Prop :=
  ∀ s : State,
    (∀ (src : Src) (p : Packet), s.blk.clears src p = true → p.opcode = 0x21 →
      let t := s.blk.taken src p
      let i := t.capture
      (∃ b : Block, exec (.imageSave src p) s = .next { s with blk := b } ∧ b.ret = some i ∧
        (({ t with ret := some i } : Block).beginOp src p (fun o => { o with n := i.saveSeq, m := i.size })).settlesTo b) ∧
      i.saveSeq = ((t.ret.map (·.saveSeq)).getD 0 + 1) % 2 ^ 32 ∧ i.saveTime = t.stamp64 ∧ i.spares = t.spares ∧
      i.serial = Config.serial.toNat ∧ i.dimms.length = 16 ∧
      ∀ id inst bit : Nat, inst < 2 ^ 12 → bit < 2 ^ 16 → cfgGet i.cfg id inst bit =
        if (recFields id inst).any (fun f => f.bit == bit && f.kept / 8 % 2 == 1) then cfgGet t.cfg id inst bit
        else fieldDefault id inst bit) ∧
    (∀ (ok : Bool) (written : Nat) (o : LongOp), s.blk.op? 0x21 = some o →
      let stopped := s.blk.mode = .commission ∧ s.blk.pins.pfail = true
      let answered := fun (b : Block) (st d p0 : Nat) =>
        ∃ level : Nat, ⟨o.src, mkReply level o.pkt st d p0 [], false, o.objs⟩ ∈ b.pkts.replies
      ∃ b : Block, exec (.imageSaved ok written) s = .next { s with blk := b } ∧ b.ret = s.blk.ret ∧ b.mode = s.blk.mode ∧
        (stopped → answered b stNotReady 2 (written % 2 ^ 32)) ∧
        (¬ stopped → ok = true → answered b stOk 0 o.m ∧ b.stat.savedSince = true) ∧
        (¬ stopped → ok = false → answered b stRejected 6 (written % 2 ^ 32)))

/-- IMAGE_RESTORE, its end and STATUS_READ (R411, R412, R414). An absent or invalid image leaves everything as it is and is answered
REJECTED with the cause, with event 0x02; a valid one is checked as one transaction, gives the configuration and the saved identities,
and is answered with the clamp report; a failed read of the mirror is cause 6. -/
def Obligations.ImageRestoresAndStatus : Prop :=
  ∀ s : State,
    let refused := fun (b : Block) (src : Src) (p : Packet) (objs : List Nat) (source cause sec : Nat) =>
      (b.event 0x02 [(1, source), (1, cause), (1, sec)]).replyHold src p objs stRejected cause p.param0.toNat []
    let applied := fun (b : Block) (src : Src) (p : Packet) (objs : List Nat) (i : Image) =>
      let k := checkImage b i.cfg
      (({ b.unsaved with ids := i.dimms } : Block).applyConfig { k with new := withUnsaved k.new b.cfg } false
        (repEvents src p k.rep)).replyHold src p objs (if clamps k.rep = 0 then stOk else stClamped) 0 p.param0.toNat
          (reportBody k.rep 30 b.stamp64)
    (∀ (src : Src) (p : Packet), s.blk.clears src p = true →
      let t := s.blk.taken src p
      (p.opcode = 0x22 → ∃ b : Block, exec (.imageRestore src p) s = .next { s with blk := b } ∧
        (pP0 p 0 1 = 1 → (t.beginOp src p id).settlesTo b) ∧
        (pP0 p 0 1 = 0 → t.ret = none → (refused t src p (t.objects src p) 0 1 0).settlesTo b) ∧
        (∀ i : Image, pP0 p 0 1 = 0 → t.ret = some i → (applied t src p (t.objects src p) i).settlesTo b)) ∧
      (p.opcode = 0x90 →
        let body := t.statusBody ++ (if t.sendsAsOwner src p.requester.toNat then reportBody t.report 26 t.stat.reportAt else [])
        (∃ b : Block, exec (.statusRead src p) s = .next { s with blk := b } ∧ (t.reply src p stOk 0 t.statusP0 body).settlesTo b) ∧
        t.statusBody.length = 64 ∧ (t.sendsAsOwner src p.requester.toNat = false → body.length = 64) ∧
        t.statusP0 % 8 = t.mode.code ∧ t.statusP0 / 8 % 2 = (if t.drain then 1 else 0))) ∧
    (∀ (port : PortRead) (o : LongOp), s.blk.op? 0x22 = some o →
      let r : Block := { s.blk with pkts := { s.blk.pkts with ops := s.blk.pkts.ops.filter (fun x => !(x == o)) } }
      ∃ b : Block, exec (.imageRestoreDone port) s = .next { s with blk := b } ∧
        (port = .failed → (refused r o.src o.pkt o.objs 1 6 0).settlesTo b) ∧
        (∀ (bs : List Byte) (cause sec : Nat), port = .bytes bs → imageFault bs = some (cause, sec) →
          (refused r o.src o.pkt o.objs 1 cause sec).settlesTo b) ∧
        (∀ bs : List Byte, port = .bytes bs → imageFault bs = none → (applied r o.src o.pkt o.objs (imageOf bs)).settlesTo b))

/-! ### RESTORE (R33, R40, R41, R71, R312, R319, R388 to R392) -/

/-- The steps of RESTORE, each in the state that calls for it: RESET_RELEASE takes the root frequency and the life cycle and enters
RESTORE; the root PLL locks and the command VOIDs fall; the image comes from retention SRAM, else from a valid mirror, which is copied,
else there is none; the seed gives the sixteen keys, clears the valid-tile map and loads the LFSRs, and one that is late is made from
network time and the serial number; discovery ends once. Each leaves the mode RESTORE. -/
def Obligations.RestoreSteps : Prop :=
  ∀ s : State,
    let b := s.blk
    let wants := fun (x : Block) => x.mode = .restore ∧ x.clk.pll = true ∧ x.restore.seedDone = false
    let loads := b.mode = .restore ∧ b.restore.imageDone = false ∧ b.clk.pll = true ∧ b.wipe = none
    (∀ sel lc : BitVec 2, b.mode = .off → ∃ t : Block, exec (.resetRelease sel lc) s = .next { s with blk := t } ∧ t.mode = .restore ∧
      t.lc = Lc.ofBits lc ∧ t.clk.rootMhz = (if sel = 0 then 14400 else if sel = 1 then 12800 else 11200) ∧
      t.restore.since = b.clk.ns ∧ t.ret = b.ret ∧ t.keys = b.keys) ∧
    (b.mode = .restore → ∃ t : Block, exec .rootPllLock s = .next { s with blk := t } ∧ t.clk.pll = true ∧ t.mode = .restore ∧
      1 ≤ t.boot.phase ∧ (∀ v ∈ t.inlets.map Inlet.cmdVoid, v = false)) ∧
    (∀ port : PortRead, loads → ∃ t : Block, exec (.imageLoad port) s = .next { s with blk := t } ∧ t.mode = .restore ∧
      t.restore.imageDone = true ∧ t.keys = b.keys ∧
      (∀ i : Image, b.ret = some i → t.ret = some i ∧ t.boot.imageValid = true ∧ t.boot.fromPort = false ∧ t.spares = i.spares) ∧
      (∀ bs : List Byte, b.ret = none → port = .bytes bs → imageFault bs = none →
        t.ret = some (imageOf bs) ∧ t.boot.imageValid = true ∧ t.boot.fromPort = true) ∧
      (b.ret = none → (port = .failed ∨ ∃ bs e, port = .bytes bs ∧ imageFault bs = some e) →
        t.ret = none ∧ t.boot.imageValid = b.boot.imageValid ∧ t.ids = b.ids)) ∧
    (∀ dt : Nat, exec (.imageReadTimeout dt) s = exec (.imageLoad .failed) { s with blk := b.advance dt } ∧
      ∃ t : Block, exec (.imageReadTimeout dt) s = .next { s with blk := t }) ∧
    (∀ seed : BitVec 128, wants b → ∃ t e : Block, exec (.seedValid seed) s = .next { s with blk := t } ∧ e.settlesTo t ∧
      e.keys = (List.range 16).map (Config.keyOf seed) ∧ e.tiles = [] ∧ e.restore.seedDone = true ∧ e.mode = .restore ∧
      e.boot.seedFallback = b.boot.seedFallback ∧
      (b.restore.imageDone = false → e.snd.lfsr = nonzeroSeed (~~~ (seed.extractLsb' 96 32)) ∧
        ∀ c : Nat, c < b.chans.length → (e.chan c).lfsr = lotterySeed seed c)) ∧
    (∀ dt : Nat,
      let x := b.advance dt
      let due := wants x ∧ x.restore.since + 10 ^ 7 ≤ x.clk.ns
      ∃ t e : Block, exec (.seedFallback dt) s = .next { s with blk := t } ∧ e.settlesTo t ∧
        (due → e.keys = (List.range 16).map (Config.keyOf (BitVec.ofInt 64 x.netTime ++ Config.serial)) ∧ e.tiles = [] ∧
          e.restore.seedDone = true ∧ e.boot.seedFallback = true) ∧ (¬ due → e = x)) ∧
    (∀ slots : List SlotInfo, b.restore.discovered = false → (b.mode = .restore ∧ b.clk.pll = true ∨ b.mode = .commission) →
      ∃ t : Block, exec (.discoveryDone slots) s = .next { s with blk := t } ∧ t.restore.discovered = true ∧ t.mode = b.mode ∧
        t.keys = b.keys)

/-- CHANNEL_BRING_UP_DONE and RESTORE_END. A channel whose VDDQ is outside its window reads state 1; any other ends in state 3 or 4, or
in 7 where its check, training or verify failed. RESTORE ends in COMMISSION where there is no valid image, the life cycle is not
DEPLOYED or the force flag is set, else in SERVE where every channel in use serves, else in DEGRADED (R77, R319, R391, R392). -/
def Obligations.RestoreEnds : Prop :=
  ∀ s : State,
    let b := s.blk
    (∀ (c : Fin 8) (r : BringUp),
      let due := b.mode = .restore ∧ b.restore.up = true ∧ b.inUse c = true ∧ b.restore.upDone.testBit c = false ∧ b.pins.pfail = false
      ∃ t e : Block, exec (.channelBringUpDone c r) s = .next { s with blk := t } ∧ e.settlesTo t ∧ e.mode = b.mode ∧
        (¬ due → e = b) ∧
        (due → c.val < b.chans.length →
          (vddqInWindow (b.gen c) r.vddqMv = false → (e.chan c).state = 1) ∧
          (vddqInWindow (b.gen c) r.vddqMv = true → (e.chan c).state ∈ [3, 4, 7]) ∧
          (vddqInWindow (b.gen c) r.vddqMv = true → (b.chan c).phy.sbMode ≠ 0 → (b.chan c).phy.changed = false → r.verify = none →
            (e.chan c).state = if b.ddr4 c then 4 else 3) ∧
          ∀ k : Nat, k ≠ c.val → (e.chan k).state = (b.chan k).state)) ∧
    (let ends := b.mode = .restore ∧ b.restore.imageDone = true ∧ b.restore.seedDone = true ∧ b.restore.discovered = true ∧
       b.wipe = none ∧ b.pins.pfail = false ∧ (b.toCommission = true ∨ b.allUp = true)
     ∃ t e : Block, exec .restoreEnd s = .next { s with blk := t } ∧ e.settlesTo t ∧ (¬ ends → e = b) ∧
      (ends → e.chans.map Chan.state = b.chans.map Chan.state ∧
        (b.boot.imageValid = false ∨ b.lc ≠ .deployed ∨ b.stat.force = true →
          e.mode = .commission ∧ e.stat.force = false ∧ e.restore.ended = .commission) ∧
        (b.boot.imageValid = true → b.lc = .deployed → b.stat.force = false →
          ((∀ c : Nat, c < 8 → b.inUse c = true → b.chanServes c = true) → e.mode = .serve) ∧
          ((∃ c : Nat, c < 8 ∧ b.inUse c = true ∧ b.chanServes c = false) → e.mode = .degraded))))

/-! ### Resets and the power-fail warning (R42, R43, R68, R385, R387, R404, R406, R429 to R431) -/

/-- PWR_GOOD_LOW, POWER_ON_RESET, WARM_RESET, RESET, SOFT_RESET_START and TAIL_EMITTED. OFF keeps retention SRAM and no request, record
or configuration. A warm or soft reset leads to RESTORE, keeps each configuration field that carries its letter and puts the others to
their Defaults, keeps the image, the sparing map, the identities and the force flag, and drops requests, packets, transactions and
attachments. A warm reset waits for a tail that is being written. A pulse too short for PORST_n or WRST_n resets or does nothing, which
is left open (R42). -/
def Obligations.ResetsKeepAndClear : Prop :=
  ∀ s : State,
    let b := s.blk
    let isOff := fun (t : Block) => t.mode = .off ∧ t.drain = false ∧ t.clk.pll = false ∧ t.ret = b.ret ∧ t.cfg = [] ∧ t.reqs = [] ∧
      t.log.recs = [] ∧ t.log.nextSeq = 0 ∧ t.slots = [] ∧ t.pkts.queue = [] ∧ t.spares = [] ∧ t.stat.lastReset = .powerOn ∧
      t.stat.force = false ∧ t.mgmt.intStatus = 0 ∧ t.intOut = 0
    let isReset := fun (k : ResetKind) (letter : Nat) (e : Block) => e.mode = .restore ∧ e.drain = false ∧ e.stat.lastReset = k ∧
      e.stat.force = b.stat.force ∧ e.ret = b.ret ∧ e.spares = b.spares ∧ e.ids = b.ids ∧ e.lc = b.lc ∧ e.keys = b.keys ∧ e.reqs = [] ∧
      e.slots = [] ∧ e.pkts.queue = [] ∧ e.pkts.txns = [] ∧ e.pkts.ops = [] ∧ e.cache.lines = [] ∧ e.tiles = [] ∧
      (∀ n ∈ e.inlets, n.reqVoid = true ∧ n.reqCred = 0) ∧
      ∀ id inst bit : Nat, inst < 2 ^ 12 → bit < 2 ^ 16 → cfgGet e.cfg id inst bit =
        if (recFields id inst).any (fun f => f.bit == bit && f.kept / letter % 2 == 1) then cfgGet b.cfg id inst bit
        else fieldDefault id inst bit
    (∃ t : Block, exec .pwrGoodLow s = .next { s with blk := t } ∧ isOff t) ∧
    (∀ n : Nat, ∃ t : Block, exec (.powerOnReset n) s = .next { s with blk := t } ∧
      (1000 ≤ n → isOff t) ∧ (isOff t ∨ t = { b with free := b.free + 1 })) ∧
    (∀ n : Nat, ∃ t e : Block, exec (.warmReset n) s = .next { s with blk := t } ∧ e.settlesTo t ∧
      (b.mode = .off → e = b) ∧
      (b.mode ≠ .off → 160 ≤ n → b.tail = none → isReset .warm 4 e) ∧
      (b.mode ≠ .off → 160 ≤ n → b.tail ≠ none → e = { b with pins := { b.pins with warmHeld := true } }) ∧
      (b.mode ≠ .off → n < 160 → b.tail = none → isReset .warm 4 e ∨ e = { b with free := b.free + 1 })) ∧
    (∀ (src : Src) (p : Packet), b.clears src p = true → p.opcode = 0x26 →
      let t := b.taken src p
      ∃ r : Block, exec (.reset src p) s = .next { s with blk := r } ∧ r.pkts.resetDue = true ∧ r.mode = t.mode ∧
        r.stat.force = (t.stat.force || p.param0.getLsbD 0) ∧
        (({ t with stat := { t.stat with force := t.stat.force || p.param0.getLsbD 0 }, pkts := { t.pkts with resetDue := true } } : Block).echo
          src p stOk 0).settlesTo r) ∧
    (∀ dt : Nat, ∃ t e : Block, exec (.softResetStart dt) s = .next { s with blk := t } ∧ e.settlesTo t ∧
      (b.pkts.resetDue = true → b.mode ≠ .off → isReset .soft 2 e) ∧ (b.pkts.resetDue = false → e = b.advance dt)) ∧
    (∀ failed : Nat, ∃ t e : Block, exec (.tailEmitted failed) s = .next { s with blk := t } ∧ e.settlesTo t ∧ e.tail = none ∧
      (b.tail = none → e = b) ∧
      (∀ x : Tail, b.tail = some x → b.pins.warmHeld = false →
        e = ({ b with tail := none } : Block).event 0x12 [(4, x.records), (4, x.size), (1, min failed 8), (1, x.modeBits)]) ∧
      (b.tail ≠ none → b.pins.warmHeld = true → isReset .warm 4 e))

/-- PFAIL_WARN and PFAIL_CLEARED (R68, R69, R387, R429 to R431). The first warning that is acted on is noted until a reset, changes no mode,
and enters drain where the block serves and is awake; outside OFF a tail begins, unless one is being written, whose first bytes are those
of R430. The end of a warning records event 0x04 and changes nothing else. -/
def Obligations.PowerFailWarnings : Prop :=
  ∀ s : State,
    let b := s.blk
    (∃ t : Block, exec .pfailWarn s = .next { s with blk := t } ∧
      (b.mode = .off → ({ b with pins := { b.pins with pfailHigh := true } } : Block).settlesTo t) ∧
      (b.mode ≠ .off → b.pins.pfail = false →
        t.mode = b.mode ∧ t.pins = { b.pins with pfail := true, pfailHigh := true } ∧ t.tail ≠ none ∧ (b.tail ≠ none → t.tail = b.tail) ∧
        (b.mode = .serve ∨ b.mode = .degraded → (b.dorm = .none ∨ ∃ src, b.dorm = .entering src) → t.drain = true) ∧
        (b.mode = .restore ∨ b.mode = .commission → b.dorm = .none → t.drain = b.drain)) ∧
      (b.mode ≠ .off → b.pins.pfail = true → b.pins.pfailHigh = false → t.tail ≠ none ∧ t.drain = b.drain ∧ t.mode = b.mode ∧
        (b.tail = none → ∃ x : Tail, t.tail = some x ∧ x.modeBits = b.mwMode % 16 ∧ x.bytes.take 4 = [1, 0, 8, BitVec.ofNat 8 (b.mwMode % 16)]))) ∧
    (∀ us : Nat, ∃ t e : Block, exec (.pfailCleared us) s = .next { s with blk := t } ∧ e.settlesTo t ∧
      e.sansLog = ({ b with pins := { b.pins with pfailHigh := false } } : Block).sansLog ∧
      (b.mode ≠ .off → b.pins.pfailHigh = true → b.pins.pfail = true →
        e = ({ b with pins := { b.pins with pfailHigh := false } } : Block).event 0x04 [(4, sat32 us)]))

/-! ### The life cycle, training and verify (R70, R320 to R323, R340, R341, R405) -/

/-- LIFECYCLE_STROBE, LIFECYCLE_FILL_END, LIFECYCLE_UNAUTHORISED and LIFECYCLE (R70, R340, R341). A strobe is ignored in OFF and in
drain; one that changes nothing records event 0x0D; any other starts the wipe, which drops requests, packets, attachments and the log.
The end of the fill leaves the delays alone of the configuration, and nothing of it on the change to RETIRED. A change without a strobe
records event 0x0C. How far a wipe has come is left open, from 0 to 1,000. -/
def Obligations.LifeCycleChanges : Prop :=
  ∀ s : State,
    let b := s.blk
    (∀ seen : BitVec 2,
      ∃ t e : Block, exec (.lifecycleStrobe seen) s = .next { s with blk := t } ∧ e.settlesTo t ∧
        (b.mode = .off ∨ b.drain = true → e = b) ∧
        (b.mode ≠ .off → b.drain = false → Lc.ofBits seen = b.lc → e = b.wakeClocks.event 0x0D [(1, b.lc.code)]) ∧
        (b.mode ≠ .off → b.drain = false → Lc.ofBits seen ≠ b.lc →
          e.mode = .restore ∧ e.lc = Lc.ofBits seen ∧ (∃ w : Wipe, e.wipe = some w ∧ w.old = b.lc) ∧ e.log.recs = [] ∧ e.reqs = [] ∧
          e.slots = [] ∧ e.pkts.queue = [] ∧ e.mgmt.intStatus = 0 ∧ e.ret = b.ret ∧ e.spares = b.spares ∧ e.restore.seedDone = false ∧
          e.restore.imageDone = false)) ∧
    (∀ (failed : BitVec 8) (dt : Nat),
      let x := b.advance dt
      ∃ t e : Block, exec (.lifecycleFillEnd failed dt) s = .next { s with blk := t } ∧ e.settlesTo t ∧
        (b.wipe = none ∨ b.restore.seedDone = false → e = x) ∧
        (b.wipe ≠ none → b.restore.seedDone = true →
          e.wipe = none ∧ e.restore.imageDone = true ∧ e.mode = b.mode ∧ e.ret = some x.reducedImage ∧
          x.reducedImage.cfg = e.cfg ∧ (b.lc = .retired → e.cfg = []) ∧
          (b.lc ≠ .retired → ∀ id inst bit : Nat, inst < 2 ^ 12 → bit < 2 ^ 16 →
            cfgGet e.cfg id inst bit = if id = 0x1100 then cfgGet b.cfg id inst bit else fieldDefault id inst bit))) ∧
    (∀ seen : BitVec 2, ∃ t e : Block, exec (.lifecycleUnauthorised seen) s = .next { s with blk := t } ∧ e.settlesTo t ∧
      (b.mode ≠ .off → Lc.ofBits seen ≠ b.lc → e = b.event 0x0C [(1, b.lc.code), (1, (Lc.ofBits seen).code)]) ∧
      (b.mode = .off ∨ Lc.ofBits seen = b.lc → e = b)) ∧
    (∀ (src : Src) (p : Packet), b.clears src p = true → p.opcode = 0x25 →
      let t := b.taken src p
      ∃ (r : Block) (mille : Nat), exec (.lifecycle src p) s = .next { s with blk := r } ∧ mille ≤ 1000 ∧ (t.wipe = none → mille = 0) ∧
        (({ t with free := t.free + 1 } : Block).reply src p stOk 0
          (t.lc.code + (if t.wipe = none then 0 else 4) + 256 * mille) []).settlesTo r)

/-- TRAIN and VERIFY and their ends (R320 to R323). In COMMISSION training begins on every channel named that is in use, which reads
state 2; with OFFLINE_ONLY, or in DEGRADED, those that serve are taken offline. It ends with each in state 3 or 4, or 7 where it
failed, and is answered with the masks of those that passed and failed. A verify changes the state of no channel. -/
def Obligations.TrainingAndVerify : Prop :=
  ∀ s : State,
    let b := s.blk
    let answered := fun (x : Block) (o : LongOp) (p0 : Nat) =>
      ∃ level : Nat, ⟨o.src, mkReply level o.pkt stOk 0 p0 [], false, o.objs⟩ ∈ x.pkts.replies
    (∀ (src : Src) (p : Packet), b.clears src p = true →
      let t := b.taken src p
      let cs := t.named p
      let idle := cs.filter (fun c => !(t.chanServes c))
      (p.opcode = 0x23 → ∃ r : Block, exec (.train src p) s = .next { s with blk := r } ∧
        (pP0 p 8 1 = 0 → cs = [] → (({ t with stat := { t.stat with savedSince := false } } : Block).replyHold src p (t.objects src p) stOk 0 0 []).settlesTo r) ∧
        (pP0 p 8 1 = 0 → t.mode = .commission → cs ≠ [] →
          r.stat.savedSince = false ∧ r.mode = .commission ∧ (∀ c : Nat, c < t.chans.length → c ∈ cs → (r.chan c).state = 2) ∧
          (∀ c : Nat, c ∉ cs → (r.chan c).state = (t.chan c).state)) ∧
        (pP0 p 8 1 = 1 → (∀ c : Nat, c < t.chans.length → c ∈ cs → t.chanServes c = true → (r.chan c).state = 5) ∧
          (∀ c : Nat, c ∉ cs ∨ t.chanServes c = false → (r.chan c).state = (t.chan c).state))) ∧
      (p.opcode = 0x24 → ∃ r : Block, exec (.verify src p) s = .next { s with blk := r } ∧
        (idle = [] → (t.replyHold src p (t.objects src p) stOk 0 0 []).settlesTo r) ∧
        (idle ≠ [] → (t.beginOp src p (fun o => { o with n := maskOf idle })).settlesTo r))) ∧
    (∀ (found : List SlotInfo) (spd : List (Fin 8 × SpdInfo)) (res : List (Fin 8 × TrainRes)) (us : Nat) (o : LongOp), b.op? 0x23 = some o →
      let cs := maskList o.n
      ∃ r : Block, exec (.trainingDone found spd res us) s = .next { s with blk := r } ∧ r.mode = b.mode ∧
        (∀ c : Nat, (r.chan c).state = (b.chan c).state ∨ c ∈ cs ∧ (r.chan c).state ∈ [3, 4, 7]) ∧
        ((∀ c ∈ cs, (chanVal res c).isSome = true) → r.stat.savedSince = false ∧
          ∃ passed : Nat, answered r o (passed + (o.n - passed) * 2 ^ 8))) ∧
    (∀ (res : List (Fin 8 × Option VerifyFail)) (o : LongOp), b.op? 0x24 = some o →
      let cs := maskList o.n
      let bad := cs.filter (fun c => ((chanVal res c).getD none).isSome)
      ∃ r : Block, exec (.verifyDone res) s = .next { s with blk := r } ∧ r.mode = b.mode ∧
        (∀ c : Nat, (r.chan c).state = (b.chan c).state) ∧
        ((∀ c ∈ cs, (chanVal res c).isSome = true) → answered r o ((o.n - maskOf bad) + maskOf bad * 2 ^ 8)))

/-! ### Memory requests (R45, R80 to R111, R155, R217, R332) -/

/-- READ, WRITE_FULL, WRITE_PARTIAL, CANCEL, FENCE and REQUEST_FRAMING under a credit (R45, R80 to R83). The request is taken. The first
check of steps 1 to 7 of R87 that fails completes it; an unreadable header completes it ERROR_INTERNAL (R106); a FENCE waits and holds
its requester's later requests (R101); a CANCEL completes OK, and a target that waits completes CANCELLED (R102, R103). For the others the
first of steps 8 to 12 that fails completes it; then a READ of an unwritten tile is UNWRITTEN with zeros (R332), and a WRITE_PARTIAL of
no byte is OK (R98). -/
def Obligations.RequestsTaken : Prop :=
  ∀ (s : State) (i : Fin 4) (h : ReqHdr) (hdr : BitVec 128) (data : Block512) (mask : BitVec 64) (f : SramFault),
    let b := s.blk
    b.clk.pll = true → b.serving = true → (b.inlet i).reqVoid = false → 0 < (b.inlet i).reqCred → b.numbered = true →
    ∀ x ∈ [(Instr.read i h f, hdrOf .read h, (0 : Block512), (0 : BitVec 64), f), (.writeFull i h data f, hdrOf .writeFull h, data, 0, f),
        (.writePartial i h data mask f, hdrOf .writePartial h, data, mask, f), (.cancel i h, hdrOf .cancel h, 0, 0, .clean),
        (.fence i h, hdrOf .fence h, 0, 0, .clean), (.requestFraming i hdr data mask, parseHdr hdr, data, mask, .clean)],
      let hd := x.2.1
      let bad := x.2.2.2.2
      let op := (Op.ofCode hd.op).getD .read
      let write := op == .writeFull || op == .writePartial
      let check := [(!hd.parityOk, stBadRequest, 1), (decide (4 < hd.op), stBadRequest, 2),
        (decide (128 ≤ hd.requester) || b.level hd.requester == 0, stBadRequest, 3), (!(b.boundTo hd.requester i), stBadRequest, 4),
        (decide (b.level hd.requester < hd.level), stUnsupported, 0),
        (b.reqs.any (fun r => r.tracked && r.requester == hd.requester && r.tag == hd.tag), stBadRequest, 5),
        (!(hd.op == 3) && decide (b.f 0x0401 hd.requester 0 ≤ b.outstanding hd.requester), stBadRequest, 6)].find? (·.1)
      let pond := pondOf b.cfg hd.addr
      let refusal := [(b.drain && decide (2 ≤ hd.cls), stShed), (pond == none, stAddressInvalid),
        (pond.any (fun p => (b.pondRt p).lost || (b.pondRt p).marked), stPondLost),
        (pond.any (fun p => b.access hd.requester p == 0 || write && !(b.access hd.requester p == 2)), stAccessDenied),
        (pond.any (fun p => write && b.flag 0x0300 p 48), stWriteProtected)].find? (·.1)
      let target := b.reqs.find? (fun r => r.requester == hd.requester && r.tag == hd.addr % 2 ^ 11 && r.tracked && !(r.op == .cancel))
      let done := fun (q : Req) (st : Nat) => q.stage = .ready ∧ q.status = st
      ∃ (t e : Block) (q : Req), exec x.1 s = .next { s with blk := t } ∧ e.settlesTo t ∧ q ∈ e.reqs ∧
        e.ledger = b.ledger ++ [q.fixed] ∧ q.id = b.nextId ∧ q.inlet = some i ∧ q.op = op ∧ q.requester = hd.requester ∧ q.tag = hd.tag ∧
        q.cls = hd.cls ∧ q.blk = (if op == .cancel then hd.addr % 2 ^ 11 else hd.addr) ∧ q.data = x.2.2.1 ∧ q.mask = x.2.2.2.1 ∧
        q.noAlloc = hd.noAlloc ∧ q.takenAt = b.clk.cclk ∧
        (∀ c, check = some c → done q c.2.1 ∧ q.rdata = none ∧ q.dup = (c.2.2 == 5) ∧ q.counted = false ∧
          (c.2.2 ≠ 0 → ∃ y : Block, e = y.event 0x2B [(1, i.val), (1, hd.requester), (1, c.2.2), (2, hd.tag)])) ∧
        (check = none → q.tracked = true ∧ q.dup = false ∧ q.counted = !(op == .cancel) ∧
          (bad = .header → done q stErrorInternal) ∧
          (bad ≠ .header →
            (op = .fence → q.stage = .fencing) ∧
            (op = .cancel → done q stOk ∧
              (target = none → e.reqs = b.reqs ++ [q] ∧ q.cancelHit = false) ∧
              (∀ r, target = some r →
                (r.stage = .ready → e.reqs = b.reqs ++ [q] ∧ q.cancelHit = false) ∧
                (r.stage ≠ .ready → r.stage ≠ .chan → r.stage ≠ .joined →
                  q.cancelHit = true ∧ ∀ y ∈ e.reqs, y.id = r.id → done y stCancelled))) ∧
            (op ≠ .fence → op ≠ .cancel →
              ((∃ r ∈ b.reqs, r.requester = hd.requester ∧ r.stage = .fencing) → q.stage = .fenceHeld) ∧
              ((∀ r ∈ b.reqs, r.requester = hd.requester → r.stage ≠ .fencing) →
                (∀ c, refusal = some c → done q c.2) ∧
                (refusal = none → (∀ r ∈ b.reqs, r.requester = hd.requester → r.blk ≠ hd.addr) →
                  (polOf b.cfg hd.requester).mode = 0 → ∀ p, pond = some p → p ≠ 63 →
                  (op = .read → b.written p hd.addr = false → done q stUnwritten ∧ q.rdata = some 0) ∧
                  (op = .writePartial → x.2.2.2.1 = 0 → bad = .clean → done q stOk))))))

/-- FENCE_COMPLETE, RESPONSE_PRESENT, DEBUG_READ and DEBUG_WRITE (R52, R73, R85, R93, R101, R106). A FENCE completes OK once every earlier
request of its requester has. A response leaves under a credit, takes the request out of flight and returns its request credit; no earlier
request of the requester to the block is then unanswered; a header or data that cannot be read turns it into ERROR_INTERNAL without data.
The debug bus takes one access at a time, answers ACCESS_DENIED in DEPLOYED and NOT_READY out of service, and is else a request that no
access table and no policer stops. -/
def Obligations.RequestsAnswered : Prop :=
  ∀ s : State, s.blk.numbered = true →
    let b := s.blk
    (∀ (rq : BitVec 8) (tag : BitVec 11), ∃ t e : Block, exec (.fenceComplete rq tag) s = .next { s with blk := t } ∧ e.settlesTo t ∧
      (∀ r, b.reqs.find? (fun r => r.requester == rq.toNat && r.tag == tag.toNat && r.stage == .fencing) = some r → r.op = .fence →
        r.inlet ≠ none → (∀ x ∈ b.before r.id, x.requester = rq.toNat → x.stage = .ready) →
        e = { b with reqs := b.reqs.map (fun x => if x.id = r.id then { x with stage := .ready, status := stOk, rdata := none } else x) }) ∧
      ((∀ r ∈ b.reqs, r.requester = rq.toNat → r.tag = tag.toNat → r.stage = .fencing →
          ∃ x ∈ b.before r.id, x.requester = rq.toNat ∧ x.stage ≠ .ready) → e = b)) ∧
    (∀ (i : Fin 4) (k : Nat) (f : SramFault),
      let n := b.inlet i
      ∃ t e : Block, exec (.responsePresent i k f) s = .next { s with blk := t } ∧ e.settlesTo t ∧
        (∀ r, (b.readyOn i)[k]? = some r → 0 < n.rspCred → b.clk.pll = true →
          let lost : Bool := !(f == .clean) && (!(f == .data) || r.rdata.isSome)
          let rsp := if lost then { r with status := stErrorInternal, rdata := none } else r
          let level := if r.requester < 128 then b.rspLevel r.requester else 1
          e.reqs = b.reqs.filter (fun x => !(x.id == r.id)) ∧ (e.inlet i).rspCred = n.rspCred - 1 ∧
          (e.inlet i).lastRsp = some (rspHeader level rsp (b.clk.cclk - r.takenAt), rsp.rdata.getD 0) ∧
          ((e.inlet i).reqCred = if n.reqVoid then 0 else min 512 (n.reqCred + 1)) ∧
          r.stage = .ready ∧ (r.counted = true → r.op ≠ .fence → r.op ≠ .cancel → ∀ x ∈ b.before r.id,
            x.counted = true → x.requester = r.requester → x.blk = r.blk → x.op = .fence ∨ x.op = .cancel)) ∧
        ((b.readyOn i)[k]? = none ∨ n.rspCred = 0 ∨ b.clk.pll = false → e = b)) ∧
    (∀ (addr : BitVec 41) (data : BitVec 64) (be : BitVec 8),
      ∀ x ∈ [(Instr.debugRead addr, false), (Instr.debugWrite addr data be, true)],
        let blk := addr.toNat / 8
        let pond := pondOf b.cfg blk
        let told := fun (e : Block) (st : Nat) => e.dbg.busy = false ∧ e.dbg.status = st ∧ e.dbg.rdata = 0 ∧ e.reqs = b.reqs
        let refusal := [(b.drain && decide (2 ≤ b.f 0x0802 0 48), stShed), (pond == none, stAddressInvalid),
          (pond.any (fun p => (b.pondRt p).lost || (b.pondRt p).marked), stPondLost),
          (pond.any (fun p => x.2 && b.flag 0x0300 p 48), stWriteProtected)].find? (·.1)
        ∃ t e : Block, exec x.1 s = .next { s with blk := t } ∧ e.settlesTo t ∧
          (b.mode = .off ∨ b.clk.pll = false ∨ b.dbg.busy = true → e = b) ∧
          (b.mode ≠ .off → b.clk.pll = true → b.dbg.busy = false →
            e.ledger = b.ledger ∧
            (b.lc = .deployed → told e stAccessDenied) ∧
            (b.lc ≠ .deployed → b.serving = false → told e stNotReady) ∧
            (b.lc ≠ .deployed → b.serving = true →
              (∀ c, refusal = some c → told e c.2) ∧
              (refusal = none → (∀ r ∈ b.reqs, r.requester = 0xF5 → r.blk ≠ blk) → ∀ p, pond = some p → p ≠ 63 → b.written p blk = false →
                x.2 = false → told e stUnwritten))))

/-! ### Data from and to DRAM (R218, R221 to R223, R281 to R302, R342 to R345, R361) -/

/-- READ_DATA_DECODE, LINE_FILL_RETURN, RMW_MERGE and WRITE_DATA_SENT. The burst belongs to the read at the head of those in flight. A
decode that is uncorrectable or mismatched is read again, once (R294). A final decode completes a READ with its status (R295), or
ERROR_INTERNAL where the data buffer fails (R106); a WRITE_PARTIAL with the status of the old block, ERROR_COMMAND on a mismatch (R302);
and a READ that waits alone on a line fill (R361). An uncorrectable READ leaves a poison write of its block pending (R296). The entry of a
write that has been sent is released (R221). -/
def Obligations.DramDataReturns : Prop :=
  ∀ (s : State) (c : Fin 8) (q : Fin 2) (raw : BitVec 640) (f : SramFault), s.blk.shaped = true → s.blk.numbered = true →
    let b := s.blk
    let k := (b.chan c).queue q
    (∀ e : QEnt, k.returning = some e →
      let r := b.decode e.d raw
      ∀ x ∈ [(Instr.readDataDecode c q raw f, [DKind.read, .debugRead, .copyRead]), (.lineFillReturn c q raw, [.lineFill, .prefetch]),
          (.rmwMerge c q raw, [.writePartial])],
        ∃ t y : Block, exec x.1 s = .next { s with blk := t } ∧ y.settlesTo t ∧
          (e.d.kind ∉ x.2 → y = b) ∧
          (e.d.kind ∈ x.2 → r.out.rereads = true → e.reread = false →
            y.reqs.map Req.sansSnd = b.reqs.map Req.sansSnd ∧ y.cache = b.cache ∧
            (y.chan c).queue q = { k with
              flight := k.flight.drop 1
              ents := k.ents.map (fun z => if z.d.id = e.d.id then { z with reread := true, sel := false } else z) }) ∧
          (e.d.kind ∈ x.2 → r.out.rereads = false ∨ e.reread = true →
            (e.d.kind = .read → r.out.bad = true → e.d.blk ∈ y.poisonPending) ∧
            (∀ w ∈ b.reqs, w.stage ≠ .ready → w.inlet ≠ none → w.status = 0 →
              let ends := fun (st : Nat) => ∃ z ∈ y.reqs, z.id = w.id ∧ z.stage = .ready ∧ z.status = st ∧
                z.rdata = if carriesData w.op st then some r.data else none
              (e.d.kind = .read → e.d.owner = some w.id →
                ends (if f = .data ∧ r.out.status ≤ stCorrected then stErrorInternal else r.out.status)) ∧
              (e.d.kind = .writePartial → w.op = .writePartial → e.d.owner = some w.id → ends r.out.status) ∧
              (e.d.kind = .lineFill ∨ e.d.kind = .prefetch → w.op = .read →
                ∀ g, b.cache.fills.find? (fun g => g.id == e.d.id) = some g → g.waiters = [w.id] →
                  ends r.out.status ∧ ∀ h ∈ y.cache.fills, h.id ≠ e.d.id)))) ∧
    (k.flight = [] → ∀ x ∈ [Instr.readDataDecode c q raw f, .lineFillReturn c q raw, .rmwMerge c q raw],
      ∃ t : Block, exec x s = .next { s with blk := t } ∧ b.settlesTo t) ∧
    (∃ t y : Block, exec (.writeDataSent c q) s = .next { s with blk := t } ∧ y.settlesTo t ∧ y.reqs = b.reqs ∧
      (k.sending = [] → y = b) ∧
      (∀ (id : Nat) (l : List Nat), k.sending = id :: l →
        (y.chan c).queue q = { k with sending := l, ents := k.ents.filter (fun z => !(z.d.id == id)) }))

/-- DREDGE_DECODE and DREDGE_READ. The decode frees the read and counts it, and what it found, for its pond (R344, R345); it completes no
request. A pond's next block is read when its time comes, one after the other, in DREDGE_CLASS as 0xF0, and not before (R342, R343); past
the last block the pass is counted and a new one begins (R344). -/
def Obligations.DredgePasses : Prop :=
  ∀ s : State,
    let b := s.blk
    (∀ (c : Fin 8) (q : Fin 2) (raw : BitVec 640) (e : QEnt), ((b.chan c).queue q).returning = some e →
      let r := b.decode e.d raw
      let p := e.d.pond
      let once := tmod {} b.dredge p (fun w => { w with read := w.read + 1 })
      ∃ t y z : Block, exec (.dredgeDecode c q raw) s = .next { s with blk := t } ∧ y.settlesTo t ∧
        y.reqs.map Req.sansSnd = b.reqs.map Req.sansSnd ∧
        (e.d.kind ≠ .dredgeRead → y = b) ∧
        (e.d.kind = .dredgeRead → r.out.rereads = false ∨ e.reread = true →
          y = z.endPass p ∧
          (r.out = .clean ∨ r.out = .erased → z.dredge = once) ∧
          (r.out = .poison → z.dredge = tmod {} once p (fun w => { w with poisoned := w.poisoned + 1 })) ∧
          (r.out.rereads = true → z.dredge = tmod {} once p (fun w => { w with bad := w.bad + 1 })) ∧
          (r.out.status = stCorrected → r.out ≠ .erased →
            z.dredge = tmod {} once p (fun w => { w with corrected := w.corrected + 1 })))) ∧
    (∀ p : Fin 63,
      let w := tget {} b.dredge p
      let l := b.pondBlocks p
      let due := fun k : Nat => w.passStart + ((k * b.interval p : Nat) : Int) ≤ b.blockTime
      let runs := b.serving = true ∧ b.drain = false ∧ b.dorm = .none ∧ b.walks p = true
      ∃ t y : Block, exec (.dredgeRead p) s = .next { s with blk := t } ∧ y.settlesTo t ∧ y.reqs = b.reqs ∧
        (¬ runs ∨ w.cursor < l ∧ ¬ due w.cursor → y = b) ∧
        (runs → w.cursor < l → due w.cursor → (b.place p).writeFirst = true →
          (b.f 0x0C02 0 24 ≤ b.dredgeOut → y.chans = b.chans ∧ y.dredge = tmod {} b.dredge p id) ∧
          (b.dredgeOut < b.f 0x0C02 0 24 → ∃ (z : Block) (a : DReq), y = z.issue a ∧ z.nextId = b.nextId ∧ z.chans = b.chans ∧
            a.kind = .dredgeRead ∧ a.requester = 0xF0 ∧ a.cls = b.f 0x0C02 0 16 ∧ a.blk = (b.place p).first + w.cursor ∧ a.pond = p ∧
            z.dredge = tmod {} (tmod {} b.dredge p id) p (fun x => { x with cursor := w.cursor + 1 }))) ∧
        (runs → l ≤ w.cursor → l ≠ 0 → (∀ ch ∈ b.chans, ch.find (fun d => d.kind == .dredgeRead && d.pond == p) = none) →
          y.dredge = tmod {} b.dredge p (fun x => { x with
            passes := (w.passes + 1) % 2 ^ 32, cursor := 0, passStart := max b.blockTime (w.passStart + ((l * b.interval p : Nat) : Int))
            read := 0, corrected := 0, poisoned := 0, bad := 0, unwritten := 0 })))

/-! ### Ponds (R156, R170, R334, R338, R339) -/

/-- POND_PROTECT, POND_WIPE and POND_REBUILD, executed, and the ends of the last two (R156, R169, R170, R334, R339). A protect writes the
flag and records event 0x72. A wipe of a pond that is enabled, not lost and not protected, and a rebuild of one that is enabled, mark the
pond and stop its tile fills, on which every waiting request completes POND_LOST; otherwise each is answered at once. When the work has
ended the mark is gone, the packet leaves, and its reply waits; a rebuilt pond is lost exactly where a member is fenced or failed. -/
def Obligations.PondPackets : Prop :=
  ∀ s : State, s.blk.numbered = true →
    let b := s.blk
    let left := fun (e : Block) (o : LongOp) (st p0 : Nat) => o ∉ e.pkts.ops ∧
      ∃ level : Nat, ⟨o.src, mkReply level o.pkt st 0 p0 [], false, o.objs⟩ ∈ e.pkts.replies
    (∀ (src : Src) (p : Packet), b.clears src p = true →
      let t := b.taken src p
      let q := pP0 p 0 6
      let began := fun (mark : PondRt → PondRt) (e : Block) =>
        e = ((t.modPond q mark).stopTiles q stPondLost).beginOp src p (fun o => { o with n := q }) ∧
        (∀ f ∈ e.tileFills ++ e.tileWait, f.pond ≠ q) ∧
        ∀ w ∈ t.reqs, w.inlet ≠ none → w.pond = some q → (∃ k : Nat, w.stage = .tile k) →
          ∃ z ∈ e.reqs, z.id = w.id ∧ z.stage = .ready ∧ z.status = stPondLost
      (p.opcode = 0x31 → ∃ r : Block, exec (.pondProtect src p) s = .next { s with blk := r } ∧
        (((t.setF 0x0300 q 48 (pP0 p 8 1)).event 0x72 [(1, q), (1, pP0 p 8 1), (1, p.requester.toNat)]).echo src p stOk 0).settlesTo r) ∧
      (p.opcode = 0x32 → ∃ r e : Block, exec (.pondWipe src p) s = .next { s with blk := r } ∧ e.settlesTo r ∧
        (pondOn t.cfg q = false → e = t.answer src p stOk 1 p.param0.toNat []) ∧
        (pondOn t.cfg q = true → (t.pondRt q).lost = true → e = t.answer src p stPondLost 0 p.param0.toNat []) ∧
        (pondOn t.cfg q = true → (t.pondRt q).lost = false → t.flag 0x0300 q 48 = true →
          e = t.answer src p stWriteProtected 0 p.param0.toNat []) ∧
        (pondOn t.cfg q = true → (t.pondRt q).lost = false → t.flag 0x0300 q 48 = false → began (fun x => { x with wiping := true }) e)) ∧
      (p.opcode = 0x30 → ∃ r e : Block, exec (.pondRebuild src p) s = .next { s with blk := r } ∧ e.settlesTo r ∧
        (q = 63 ∨ pondOn t.cfg q = false → e = t.answer src p stOk 1 p.param0.toNat []) ∧
        (q ≠ 63 → pondOn t.cfg q = true → began (fun x => { x with rebuild := true }) e))) ∧
    (∀ (p : Fin 64) (o : LongOp), b.pondOp? 0x32 p = some o →
      let lost := (b.pondRt p).lost
      let job := b.jobs.find? (fun j => j.key == 0x32 * 64 + p.val)
      ∃ r e : Block, exec (.pondWipeDone p) s = .next { s with blk := r } ∧ e.settlesTo r ∧
        (b.jobEnded o = false → lost = false → e = b) ∧
        (b.jobEnded o = true ∨ lost = true → e.ponds = tmod {} b.ponds p (fun x => { x with wiping := false }) ∧
          (∀ j ∈ e.jobs, j.key ≠ 0x32 * 64 + p.val) ∧
          left e o (if lost then stPondLost else stOk) o.pkt.param0.toNat ∧
          (lost = false → ∃ z : Block, z.cfg = b.cfg ∧ e = (z.event 0x77 [(1, 0x32), (1, p.val), (8, (job.map (·.covered)).getD o.m),
            (4, sat32 (b.usSince o.started))]).endOps (fun x => x == o) stOk 0 (fun o => o.pkt.param0.toNat) (fun _ => [])))) ∧
    (∀ (p : Fin 64) (o : LongOp), b.pondOp? 0x30 p = some o →
      ∃ r e : Block, exec (.pondRebuilt p) s = .next { s with blk := r } ∧ e.settlesTo r ∧
        (b.jobEnded o = false → e = b) ∧
        (b.jobEnded o = true → o ∉ e.pkts.ops ∧ (∀ j ∈ e.jobs, j.key ≠ 0x30 * 64 + p.val) ∧
          e.ponds = tmod {} b.ponds p (fun x => { x with
            rebuild := false, lost := pondOn b.cfg p && (maskList (b.members p)).any (fun c => [1, 5, 7].contains (b.chan c).state) }) ∧
          ∃ (level : Nat) (body : List Byte),
            ⟨o.src, mkReply level o.pkt (repStatus o.report) 0 o.pkt.param0.toNat body, false, o.objs⟩ ∈ e.pkts.replies)) ∧
    (∀ p : Fin 64, (b.pondOp? 0x32 p = none → ∃ r : Block, exec (.pondWipeDone p) s = .next { s with blk := r } ∧ b.settlesTo r) ∧
      (b.pondOp? 0x30 p = none → ∃ r : Block, exec (.pondRebuilt p) s = .next { s with blk := r } ∧ b.settlesTo r))

/-- FILL, executed, and its end (R338). An empty range is answered OK; one that lies in no one pond ADDRESS_INVALID; a lost or marked
pond POND_LOST, a protected one WRITE_PROTECTED; otherwise a job of the range begins, with its pattern or zeros. The job that is over
leaves, and each FILL of its pond is answered with the blocks covered: DETAIL 2 where drain stopped it, POND_LOST where the pond is. -/
def Obligations.FillPackets : Prop :=
  ∀ s : State,
    let b := s.blk
    (∀ (src : Src) (p : Packet), b.clears src p = true → p.opcode = 0x50 →
      let t := b.taken src p
      let first := rangeFirst p
      let n := rangeCount p
      let pat := pBody p 7 1 % 2 == 1
      ∃ r e : Block, exec (.fill src p) s = .next { s with blk := r } ∧ e.settlesTo r ∧
        (n = 0 → e = t.answer src p stOk 0 0 []) ∧
        (n ≠ 0 → t.rangePond first n = none → e = t.answer src p stAddressInvalid 0 0 []) ∧
        (∀ q : Nat, n ≠ 0 → t.rangePond first n = some q →
          let gone := (t.pondRt q).lost || (t.pondRt q).rebuild || (t.pondRt q).wiping
          (gone = true → e = t.answer src p stPondLost 0 0 []) ∧
          (gone = false → t.flag 0x0300 q 48 = true → e = t.answer src p stWriteProtected 0 0 []) ∧
          (gone = false → t.flag 0x0300 q 48 = false → ∃ j : FillJob,
            e = { t.beginOp src p (fun o => { o with n := q }) with jobs := t.jobs ++ [j] } ∧
            j.opcode = 0x50 ∧ j.pond = q ∧ j.first = first ∧ j.next = first ∧ j.stop = first + n ∧ j.covered = 0 ∧ j.pending = 0 ∧
            j.poison = false ∧ j.isPattern = pat ∧ j.pattern = (if pat then BitVec.ofNat 64 (pBody p 8 8) else 0)))) ∧
    (∃ r e : Block, exec .fillDone s = .next { s with blk := r } ∧ e.settlesTo r ∧
      ((∀ j ∈ b.jobs, j.opcode = 0x50 → j.over b = false) → e = b) ∧
      (∀ j : FillJob, b.jobs.find? (fun j => j.opcode == 0x50 && j.over b) = some j →
        let lost := (b.pondRt j.pond).lost
        e.jobs = b.jobs.filter (fun x => !(x.key == j.key)) ∧
        ∀ o ∈ b.pkts.ops, o.pkt.opcode = 0x50 → o.n = j.pond → o ∉ e.pkts.ops ∧
          ∃ level : Nat, ⟨o.src, mkReply level o.pkt (if lost then stPondLost else stOk) (if j.stopped && !lost then 2 else 0) j.covered [],
            false, o.objs⟩ ∈ e.pkts.replies))

/-! ### The cache's packets (R363 to R381) -/

/-- CACHE_PRELOAD, CACHE_LOCK, CACHE_UNLOCK and CACHE_RANGE, executed, and their ends (R374, R375, R377). An empty range is answered OK
with count 0, and a range of the first three outside one enabled, cached pond that is not lost ADDRESS_INVALID. A way that is not LOCKED
takes nothing, with DETAIL 3. A block present is moved by CACHE_LOCK into its slot of a LOCKED way if that is free; CACHE_UNLOCK removes
each recorded range that it overlaps; CACHE_RANGE writes a dirty line back or drops a line as its action says, and a fill in flight for a
discarded block allocates nothing. At its end a packet is answered with its counts; a preload's range is recorded. -/
def Obligations.CacheRanges : Prop :=
  ∀ s : State,
    let b := s.blk
    let left := fun (e : Block) (o : LongOp) (d p0 : Nat) => o ∉ e.pkts.ops ∧
      ∃ level : Nat, ⟨o.src, mkReply level o.pkt stOk d p0 [], false, o.objs⟩ ∈ e.pkts.replies
    (∀ (src : Src) (p : Packet), b.clears src p = true →
      let t := b.taken src p
      let lo := rangeFirst p
      let n := rangeCount p
      let w := wayOf p
      let a := pBody p 7 1
      ∀ x ∈ [((0x40 : Byte), Instr.cachePreload src p), (0x41, .cacheLock src p), (0x42, .cacheUnlock src p), (0x43, .cacheRange src p)],
        p.opcode = x.1 → ∃ r e : Block, exec x.2 s = .next { s with blk := r } ∧ e.settlesTo r ∧
          (n = 0 → e = t.answer src p stOk 0 0 []) ∧
          (n ≠ 0 → x.1 ≠ 0x43 → t.rangeOk p = false → e = t.answer src p stAddressInvalid 0 0 []) ∧
          (n ≠ 0 → x.1 = 0x43 ∨ t.rangeOk p = true → ∃ g : LongOp,
            e.pkts.ops = t.pkts.ops ++ [g] ∧ g.src = src ∧ g.pkt = p ∧ g.objs = t.objects src p ∧
            (x.1 = 0x40 → e.cache = t.cache ∧ g.next = (if t.wayMode w = 1 then 0 else n) ∧ g.detail = (if t.wayMode w = 1 then 0 else 3)) ∧
            (x.1 = 0x41 → t.wayMode w ≠ 1 → e.cache = t.cache ∧ g.n = 0 ∧ g.detail = 3) ∧
            (x.1 = 0x41 → t.wayMode w = 1 → g.detail = 0 ∧
              (t.linesIn lo n (· == 0) true = [] → e.cache = t.cache ∧ g.n = 0) ∧
              ∀ blk : Nat, t.linesIn lo n (· == 0) true = [blk] →
                let held := (aget t.cache.lines (slotIn blk w)).isSome || t.reserved (slotIn blk w)
                (held = true → e.cache = t.cache ∧ g.n = 0) ∧
                ∀ (y : Loc) (l : Line), held = false → t.cache.lookup blk = some (y, l) →
                  e.cache = (t.cache.dropLine y).putLine (.way (slotIn blk w)) l ∧ g.n = 1) ∧
            (x.1 = 0x42 → e.cache = t.cache ∧ g.blks = t.linesIn lo n (· == 1) false ∧
              ∀ k, k ∈ e.preloads ↔ k ∈ t.preloads ∧ (lo + n ≤ k.2.first ∨ k.2.first + k.2.count ≤ lo)) ∧
            (x.1 = 0x43 → g.detail = a ∧
              (∀ f ∈ e.cache.fills, a ≠ 0 → lo ≤ f.blk → f.blk < lo + n → f.dropAfter = true ∧ f.slot = none) ∧
              (t.linesIn lo n (fun _ => true) true = [] → e.cache = { t.cache with fills := e.cache.fills } ∧ g.n = 0 ∧ g.m = 0 ∧ g.blks = []) ∧
              ∀ (blk : Nat) (y : Loc) (l : Line), t.linesIn lo n (fun _ => true) true = [blk] → t.cache.lookup blk = some (y, l) →
                (a = 0 → l.dirty = false → e.cache = t.cache ∧ g.n = 0 ∧ g.m = 0 ∧ g.blks = []) ∧
                (a ≠ 1 → l.dirty = true → g.n = 1 ∧ g.m = 0 ∧ g.blks = [blk] ∧
                  (l.wb = none → e.cache = { t.cache with fills := e.cache.fills }.putLine y { l with wb := some t.nextId, newer := false })) ∧
                (a ≠ 0 → a = 1 ∨ l.dirty = false → e.cache = { t.cache with fills := e.cache.fills }.dropLine y ∧ g.n = 0 ∧ g.blks = [] ∧
                  g.m = match y with
                    | .way key => if t.wayMode (key % 16) = 1 then 1 else 0
                    | .sh _ => 0)))) ∧
    (∀ o : LongOp, b.op? 0x40 = some o → ∃ r e : Block, exec .cachePreloadDone s = .next { s with blk := r } ∧ e.settlesTo r ∧
      let goesOn := o.next < rangeCount o.pkt ∨ ∃ f ∈ b.cache.fills, ∃ w, f.preload = some w ∧ w < 16
      (goesOn → e = b) ∧
      (∀ k : Nat, ¬ goesOn → k < 64 → aget b.preloads k = none → (∀ i : Nat, i < k → aget b.preloads i ≠ none) →
        e.preloads = aput b.preloads k { first := rangeFirst o.pkt, count := rangeCount o.pkt, way := wayOf o.pkt } ∧
          left e o (if o.detail = 3 then 3 else 0) o.n) ∧
      (¬ goesOn → (∀ i : Nat, i < 64 → aget b.preloads i ≠ none) → e.preloads = b.preloads ∧ left e o (if o.detail = 3 then 3 else 4) o.n)) ∧
    (∀ x ∈ [(0x41, Instr.cacheLockDone), (0x42, .cacheUnlockDone), (0x43, .cacheRangeDone)], ∀ o : LongOp, b.op? x.1 = some o →
      ∃ r e : Block, exec x.2 s = .next { s with blk := r } ∧ e.settlesTo r ∧ e.cache = b.cache ∧ (o.blks ≠ [] → e = b) ∧
        (o.blks = [] → x.1 ≠ 0x43 → left e o o.detail o.n) ∧ (o.blks = [] → x.1 = 0x43 → left e o 0 (o.n + o.m * 2 ^ 38))) ∧
    (∀ x ∈ [(0x40, Instr.cachePreloadDone), (0x41, .cacheLockDone), (0x42, .cacheUnlockDone), (0x43, .cacheRangeDone)],
      b.op? x.1 = none → ∃ r : Block, exec x.2 s = .next { s with blk := r } ∧ b.settlesTo r)

/-- CACHE_ENABLE, CACHE_DISABLE and CACHE_WAY_MODE, executed, and the ends of relocking, disabling and conversion; DIRTY_AGE_WRITEBACK and
SHALLOWS_STALL (R365, R367, R371, R372, R376, R378, R381). An enable starts the relock: DETAIL 2 where the cache is on, DETAIL 1 and
nothing where no way is NORMAL. A disable and a conversion issue the writeback of every dirty line concerned, and end once all are clean:
the cache is then off and empty, and each converted way has its mode and keeps lines only from LOCKED to NORMAL. A line's age is judged
only while it is dirty, no writeback of it is out, and its DIRTY_AGE is not 0. A stall of 1 µs at the shallows head records 0x64 once. -/
def Obligations.CacheStates : Prop :=
  ∀ s : State, risingKeys s.blk.cache.lines = true →
    let b := s.blk
    let left := fun (e : Block) (o : LongOp) (p0 : Nat) => o ∉ e.pkts.ops ∧
      ∃ level : Nat, ⟨o.src, mkReply level o.pkt stOk 0 p0 [], false, o.objs⟩ ∈ e.pkts.replies
    (∀ (src : Src) (p : Packet), b.clears src p = true →
      let t := b.taken src p
      let relock : Cache := { t.cache with
        relock := some 0, relockCause := 1, relockLoaded := 0, relockMoved := 0, relockRuns := 0, relockStart := t.clk.ns }
      let flushed := fun (e : Block) (sel : Nat → Bool) => ∀ (key : Nat) (l : Line), sel (key % 16) = true →
        aget t.cache.lines key = some l → l.dirty = true →
        ∃ l' : Line, aget e.cache.lines key = some l' ∧ l'.wb.isSome = true ∧ l'.data = l.data ∧ l'.dirty = true
      (p.opcode = 0x44 → ∃ r e : Block, exec (.cacheEnable src p) s = .next { s with blk := r } ∧ e.settlesTo r ∧
        (t.cacheOn = true → e = ({ t with cache := relock } : Block).echo src p stOk 2) ∧
        (t.cacheOn = false → (∀ w : Fin 16, t.wayMode w ≠ 0) → e = t.echo src p stOk 1) ∧
        (t.cacheOn = false → (∃ w : Fin 16, t.wayMode w = 0) → e.cache = relock ∧ e.cacheOn = true ∧ e.cfg = cfgSet t.cfg 0x0E00 0 0 1 ∧
          ∃ level : Nat, ⟨src, mkReply level p stOk 0 p.param0.toNat [], false, []⟩ ∈ e.pkts.replies)) ∧
      (p.opcode = 0x45 → ∃ r e : Block, exec (.cacheDisable src p) s = .next { s with blk := r } ∧ e.settlesTo r ∧
        (t.cacheOn = false → e = t.answer src p stOk 0 0 []) ∧
        (t.cacheOn = true → e.cache.disabling.isSome = true ∧ flushed e (fun _ => true) ∧ e.cfg = t.cfg ∧
          ∃ g : LongOp, e.pkts.ops = t.pkts.ops ++ [g] ∧ g.src = src ∧ g.pkt = p)) ∧
      (p.opcode = 0x46 → ∃ r e : Block, exec (.cacheWayMode src p) s = .next { s with blk := r } ∧ e.settlesTo r ∧
        let k := t.wayCheck (pP0 p 0 16) (pP0 p 16 2)
        let ways := (List.range 16).filter (fun w => !(cfgGet k.new 0x0E00 0 (64 + 2 * w) == t.wayMode w))
        (ways = [] → e = t.replyReport src p (t.objects src p) k.rep []) ∧
        (ways ≠ [] → flushed e (fun w => ways.contains w) ∧ e.cfg = t.cfg ∧
          (∃ v : Conv, e.cache.conv = some v ∧ v.mode = pP0 p 16 2 ∧ ∀ w : Fin 16, v.mask.testBit w = ways.contains w.val) ∧
          ∃ g : LongOp, e.pkts.ops = t.pkts.ops ++ [g] ∧ g.src = src ∧ g.pkt = p ∧ g.report = k.rep))) ∧
    (∃ r e : Block, exec .relockDone s = .next { s with blk := r } ∧ e.settlesTo r ∧
      (b.cache.relock = none → e = b) ∧
      (∀ k : Nat, b.cache.relock = some k →
        let runs := k < 64 * 2 ^ 38 ∨ ∃ f ∈ b.cache.fills, ∃ w, f.preload = some w ∧ 16 ≤ w
        (runs → e = b) ∧
        (¬ runs → e = ({ b with cache := { b.cache with relock := none } } : Block).event 0x65 [(1, b.cache.relockCause),
          (4, b.cache.relockRuns), (8, b.cache.relockLoaded), (8, b.cache.relockMoved), (4, sat32 (b.usSince b.cache.relockStart))]))) ∧
    (∃ r e : Block, exec .cacheDisableDone s = .next { s with blk := r } ∧ e.settlesTo r ∧
      (b.op? 0x45 = none ∨ b.cache.disabling = none → e = b) ∧
      (∀ (o : LongOp) (n : Nat), b.op? 0x45 = some o → b.cache.disabling = some n →
        let dirty := (∃ x ∈ b.cache.lines, x.2.dirty = true) ∨ ∃ l ∈ b.cache.shallows, l.dirty = true
        (dirty → e = b) ∧
        (¬ dirty → e.cache = { b.cache with lines := [], shallows := [], disabling := none } ∧ e.cacheOn = false ∧
          e.cfg = cfgSet b.cfg 0x0E00 0 0 0 ∧ e.preloads = b.preloads ∧ left e o (sat32 n)))) ∧
    (∃ r e : Block, exec .wayConversionDone s = .next { s with blk := r } ∧ e.settlesTo r ∧
      (b.op? 0x46 = none ∨ b.cache.conv = none → e = b) ∧
      (∀ (o : LongOp) (v : Conv), b.op? 0x46 = some o → b.cache.conv = some v →
        let dirty := ∃ x ∈ b.cache.lines, v.mask.testBit (x.1 % 16) = true ∧ x.2.dirty = true
        (dirty → e = b) ∧
        (¬ dirty → e.cache.conv = none ∧ o ∉ e.pkts.ops ∧ e.cache.shallows = b.cache.shallows ∧
          (∀ w : Fin 16, e.wayMode w = if v.mask.testBit w then v.mode else b.wayMode w) ∧
          (∀ x ∈ e.cache.lines, x ∈ b.cache.lines ∧ (v.mask.testBit (x.1 % 16) = true → b.wayMode (x.1 % 16) = 1 ∧ v.mode = 0)) ∧
          (∀ x ∈ b.cache.lines, v.mask.testBit (x.1 % 16) = false → x ∈ e.cache.lines)))) ∧
    (∀ (key : Nat) (f : SramFault), ∃ r e : Block, exec (.dirtyAgeWriteback key f) s = .next { s with blk := r } ∧ e.settlesTo r ∧
      (aget b.cache.lines key = none → e = b) ∧
      (∀ l : Line, aget b.cache.lines key = some l →
        let age := l.age.getD (b.f 0x0E00 0 32)
        let due := l.dirty = true ∧ l.wb = none ∧ age ≠ 0 ∧ b.drain = false ∧ l.dirtyAt + ((1000 * age : Nat) : Int) ≤ b.blockTime
        (¬ due → e = b) ∧
        (due → f = .clean → e = b.issueWb (.way key) l) ∧
        (due → f = .line → ∃ l' : Line, aget e.cache.lines key = some l' ∧ l'.poison = true ∧ l'.dirty = true ∧ l'.wb.isSome = true))) ∧
    (∃ r e : Block, exec .shallowsStall s = .next { s with blk := r } ∧ e.settlesTo r ∧
      let k := b.cache
      let stalls := k.waitVictim ≠ [] ∧ k.stallTold = false ∧ b.clk.hz ≤ (b.clk.cclk - k.victimSince) * 10 ^ 6
      (k.shallows = [] ∨ ¬ stalls → e = b) ∧
      (∀ (h : Line) (l : List Line), k.shallows = h :: l → stalls →
        let cls := match h.wb.bind (fun id => b.findDReq (fun d => d.id == id)) with
          | some (_, d, _) => d.cls
          | none => b.wbClass
        e = ({ b with cache := { k with stallTold := true } } : Block).event 0x64
          [(8, h.blk), (1, (b.coord (b.pondAt h.blk) h.blk).chan), (1, cls), (4, k.waitVictim.length)]))

/-! ### Sparing (R348 to R353) -/

/-- SPARE_ADD, SPARE_LIST and PPR_RUN, executed, and the ends of the first and the last (R348, R349, R351, R353). A row with an active entry
answers DETAIL 1; the first cause of R349 refuses; otherwise the lowest free index and entry are taken, copying, and nothing else of the
CAM changes. When the copy has ended the entry is active and the map has its record. A list gives the 8-byte form of each entry named.
A repair stops the channel; each repaired row appends its record, the verify decides the state, and the reply counts the rows. -/
def Obligations.SparingPackets : Prop :=
  ∀ s : State, s.blk.chans.length = 8 →
    let b := s.blk
    let left := fun (e : Block) (o : LongOp) (p0 : Nat) => o ∉ e.pkts.ops ∧
      ∃ level : Nat, ⟨o.src, mkReply level o.pkt stOk 0 p0 [], false, o.objs⟩ ∈ e.pkts.replies
    (∀ (src : Src) (p : Packet), b.clears src p = true →
      let t := b.taken src p
      let x := coordOfParam p.param0.toNat
      let cam := (t.chan x.chan).cam
      let inside := t.inGeometry x = true ∧ t.spareArea x = false
      let no := fun (d : Nat) => t.answer src p stRejected d p.param0.toNat []
      let begun := fun (e : Block) => ∃ g ∈ e.pkts.ops, g.src = src ∧ g.pkt = p ∧ g.n = x.chan
      (p.opcode = 0x80 → ∃ r e : Block, exec (.spareAdd src p) s = .next { s with blk := r } ∧ e.settlesTo r ∧
        let serves := t.chanServes x.chan = true
        (∀ d : CamEnt, serves → inside → cam.find? (fun d => d.active && d.maps x) = some d → e = t.answer src p stOk 1 d.idx []) ∧
        (¬ serves → e = no 2) ∧ (serves → ¬ inside → e = no 3) ∧
        (serves → inside → (∀ d ∈ cam, d.active = true → d.maps x = false) →
          let spares := t.f 0x0D00 x.chan 0
          let taken := fun (k : Nat) => k = 0 ∧ x.bg = 0 ∧ x.ba = 0 ∨ ∃ d ∈ cam, d.inBank x = true ∧ d.spare = k
          let held := fun (i : Nat) => ∃ d ∈ cam, d.idx = i
          (spares = 0 → e = no 4) ∧ (spares ≠ 0 → (∀ k : Nat, k < spares → taken k) → e = no 5) ∧
          (∀ k : Nat, k < spares → ¬ taken k → (∀ j : Nat, j < k → taken j) →
            ((∀ i : Nat, i < 256 → held i) →
              e = (t.event (chanCode x.chan 0xC) [(8, x.param), (2, cam.length)]).answer src p stRejected 6 p.param0.toNat []) ∧
            (∀ i : Nat, i < 256 → ¬ held i → (∀ j : Nat, j < i → held j) →
              (2048 ≤ t.spares.length → e = no 7) ∧ (t.spares.length < 2048 → t.dimmIdentity x.chan x.rank = 0 → e = no 8) ∧
              (t.spares.length < 2048 → t.dimmIdentity x.chan x.rank ≠ 0 →
                let new : CamEnt := ⟨i, false, x.sc, x.rank, x.cid, x.bg, x.ba, x.row, k⟩
                begun e ∧ (e.chan x.chan).copy = some { idx := i, col := 0, mask := 0, copied := 0, poisoned := 0 } ∧
                (∀ d : CamEnt, d ∈ (e.chan x.chan).cam ↔ d = new ∨ d ∈ cam)))))) ∧
      (p.opcode = 0x81 → ∃ (r : Block) (body : List Byte), exec (.spareList src p) s = .next { s with blk := r } ∧
        let cam := (t.chan (pP0 p 0 3)).cam
        let first := pP0 p 8 8
        let n := min 62 (256 - first)
        (t.reply src p stOk 0 (n + cam.length * 2 ^ 8) body).settlesTo r ∧ body.length = 8 * n ∧
        (∀ k : Nat, k < n → (∀ d ∈ cam, d.idx ≠ first + k) → (body.drop (8 * k)).take 8 = leBytes 8 0) ∧
        (∀ (k : Nat) (d : CamEnt), k < n → cam.find? (fun d => d.idx == first + k) = some d → d.sc < 2 → d.rank < 4 → d.cid < 8 → d.bg < 8 →
          d.ba < 4 → d.row < 2 ^ 18 → ∃ w : Nat, (body.drop (8 * k)).take 8 = leBytes 8 w ∧ bitsOf w 0 1 = 1 ∧
            bitsOf w 1 2 = (if d.active then 2 else 1) ∧ bitsOf w 3 1 = d.sc ∧ bitsOf w 4 2 = d.rank ∧ bitsOf w 6 3 = d.cid ∧ bitsOf w 9 3 = d.bg ∧
            bitsOf w 12 2 = d.ba ∧ bitsOf w 14 18 = d.row ∧ w / 2 ^ 32 = d.spare)) ∧
      (p.opcode = 0x82 → ∃ r e : Block, exec (.pprRun src p) s = .next { s with blk := r } ∧ e.settlesTo r ∧
        let every := pP0 p 32 1 = 1
        (t.inUse x.chan = false → e = no 2) ∧ (t.inUse x.chan = true → ¬ every → ¬ inside → e = no 3) ∧
        (t.inUse x.chan = true → every ∨ inside → 2048 ≤ t.spares.length → e = no 7) ∧
        (t.inUse x.chan = true → every ∨ inside → t.spares.length < 2048 →
          begun e ∧ (e.chan x.chan).state = 2 ∧ ∀ c : Nat, c ≠ x.chan → (e.chan c).state = (t.chan c).state))) ∧
    (∀ c : Fin 8, ∃ r e : Block, exec (.spareAdded c) s = .next { s with blk := r } ∧ e.settlesTo r ∧
      let ch := b.chan c
      let op := b.pkts.ops.find? (fun o => o.pkt.opcode == 0x80 && o.n == c.val)
      (ch.copy = none ∨ op = none → e = b) ∧
      (∀ (k : Copy) (o : LongOp), ch.copy = some k → op = some o →
        (k.busy = true ∨ k.col < 2 ^ (geoOf b.cfg c).colb → e = b) ∧
        (∀ d : CamEnt, k.busy = false → 2 ^ (geoOf b.cfg c).colb ≤ k.col → ch.cam.find? (fun d => d.idx == k.idx) = some d →
          let x : Coord := { chan := c, sc := d.sc, rank := d.rank, cid := d.cid, bg := d.bg, ba := d.ba, row := d.row }
          left e o d.idx ∧ (e.chan c).copy = none ∧
          (e.chan c).cam = ch.cam.map (fun y => if y.idx = k.idx then { y with active := true } else y) ∧
          e.spares = b.spares ++ [b.spareRec x false d.spare].take (2048 - b.spares.length)))) ∧
    (∀ (c : Fin 8) (rows : List PprRow) (verify : Option VerifyFail), ∃ r e : Block,
      exec (.pprDone c rows verify) s = .next { s with blk := r } ∧ e.settlesTo r ∧
      let op := b.pkts.ops.find? (fun o => o.pkt.opcode == 0x82 && o.n == c.val)
      (op = none → e = b) ∧
      (∀ o : LongOp, op = some o →
        let xs := b.pprRows o.pkt
        let good := (rows.filter (fun y => y == .repaired)).length
        (xs.length ≠ rows.length → e = b) ∧
        (xs.length = rows.length → left e o (good + (rows.length - good) * 2 ^ 16) ∧
          e.spares = b.spares ++ (((xs.zip rows).filter (fun y => y.2 == .repaired)).map (fun y => b.spareRec y.1 true 0)).take
            (2048 - b.spares.length) ∧
          (e.chan c).state = match verify with
            | some _ => 7
            | none => if (b.chan c).state = 1 then 1 else if b.ddr4 c then 4 else 3)))

/-! ### Turnover refresh (R247 to R259, R325, R326) -/

/-- TURNOVER_CLAIM, TURNOVER_LATE, DOUBLED_EXTRA_OCCASION, RFM_EMERGENCY and DRIFT_FORCED on a channel that may be claimed, and
TURNOVER_STALL_END (R249, R251 to R253, R255, R256, R258, R259, R325, R326). A claim stalls the channel, ends its tenure, takes its units
out of power-down and closes their banks; it completes and loses no request. An occasion then counts one, starts the next interval, and
issues one REFab to every unit, each in its slot after the lead; it comes late only past nine eighths of the interval, which records
event 0xB with its cause. Doubling ends with the stall of the occasion that follows the reading that stopped it. Otherwise nothing but
time goes on. -/
def Obligations.Turnovers : Prop :=
  ∀ (c : Fin 8) (s : State), s.blk.shaped = true → (∀ k ∈ (s.blk.chan c).queues, risingKeys k.banks = true) →
    let b := s.blk
    let may := fun (x : Block) => x.chanServes c = true ∧ x.clk.pll = true ∧ (x.chan c).turn.stalled = false ∧
      (∀ m : Bool, (x.chan c).alert ≠ .waitHigh m) ∧ (x.chan c).alert ≠ .recoveryWait
    let claimed := fun (x e : Block) => (e.chan c).turn.stalled = true ∧ (e.chan c).tenure = none ∧ (e.chan c).pd = [] ∧
      (e.chan c).state = (x.chan c).state ∧ (e.chan c).wait = (x.chan c).wait ∧ (e.chan c).granted = (x.chan c).granted ∧
      (e.chan c).queues.map Queue.ents = (x.chan c).queues.map Queue.ents ∧ e.reqs = x.reqs ∧ e.mode = x.mode ∧
      ∀ (u key : Nat), u < x.units c → key / 256 = (x.unitPlace c u).1 → (tget {} ((e.chan c).queue (x.unitPlace c u).2).banks key).openRow = none
    let occurs := fun (backstop : Bool) (x e : Block) => ∃ z : Block, claimed x z ∧
      (z.chan c).turn.occasions = (x.chan c).turn.occasions + 1 ∧ (z.chan c).turn.lateCause = 3 ∧
      (z.chan c).turn.lastStart = x.clk.ns + x.lead c * x.divider c * 1000 / x.clk.rootMhz ∧ z.units c = x.units c ∧
      e = (List.range (x.units c)).foldl (fun y u => y.refreshUnit c (2 * (x.chan c).ck2 + x.lead c) (x.rfmRoom c backstop) u) z
    (∀ (mr4 : List Mr4Read) (drift : List DriftRead) (dt : Nat),
      let t := b.advance dt
      (∃ r e : Block, exec (.turnoverClaim c mr4 drift dt) s = .next { s with blk := r } ∧ e.settlesTo r ∧ (¬ may t → e = t) ∧
        (may t → occurs false t e)) ∧
      (∃ r e : Block, exec (.doubledExtraOccasion c mr4 drift dt) s = .next { s with blk := r } ∧ e.settlesTo r ∧
        (¬ may t ∨ (t.chan c).turn.doubled = false ∨ (t.chan c).turn.aligned = false → e = t) ∧
        (may t → (t.chan c).turn.doubled = true → (t.chan c).turn.aligned = true → occurs false t e)) ∧
      (∃ r e : Block, exec (.turnoverLate c dt) s = .next { s with blk := r } ∧ e.settlesTo r ∧
        let since := t.clk.ns - (t.chan c).turn.lastStart
        let late := (t.chan c).turn.aligned = true ∧ 9 * t.turnInterval c ≤ 8 * since
        (¬ may t ∨ ¬ late → e = t) ∧
        (may t → late → ∃ y : Block, occurs true t y ∧ e = y.event (chanCode c 0xB) [(1, (t.chan c).turn.lateCause), (8, since)]))) ∧
    (∃ r e : Block, exec (.turnoverStallEnd c) s = .next { s with blk := r } ∧ e.settlesTo r ∧
      let z := b.modChan c (fun ch => { ch with turn := { ch.turn with stalled := false } })
      let ends := fun (x : Stopping) => (b.chan c).turn.stalled = true ∧ (b.chan c).turn.stopping = some x ∧ x.due = true
      ((∀ x, ¬ ends x) → e = z) ∧
      ∀ x, ends x → let y := z.setDoubled c false none
        e = y.event (chanCode c 8) [(1, 2), (1, x.sensor), (2, x.temp), (2, y.scale c)]) ∧
    (∀ bank : Nat, ∃ r e : Block, exec (.rfmEmergency c bank) s = .next { s with blk := r } ∧ e.settlesTo r ∧
      let q := bank / 1024
      let due := q < 2 ∧ b.rfmOn c = true ∧ b.f 0x0A00 c 80 ≤ (tget {} ((b.chan c).queue q).banks (bank % 1024)).raa + 1
      (¬ may b ∨ ¬ due → e = b) ∧
      (may b → due → ∃ z : Block, claimed b z ∧ e = z.rfmab c (2 * (bank % 1024 / 256) + q) (2 * (b.chan c).ck2 + b.lead c))) ∧
    (∀ drift : List DriftRead, ∃ r e : Block, exec (.driftForced c drift) s = .next { s with blk := r } ∧ e.settlesTo r ∧
      let due := ∃ d ∈ drift, 64 < tget 0 (b.chan c).phy.driftDue d.unit.val
      (¬ may b ∨ ¬ due → e = b) ∧ (may b → due → claimed b e))

/-! ### What is spelled is read back, and what every step keeps -/

/-- A request header spelled from any fields has even parity and is read back as exactly these fields, whatever their values, and any
single bit turned makes its parity wrong, a reserved bit too (R80 to R84). A response header has even parity over its 64 bits, carries every
field that its level includes at the bits of R85, and reads zero in the others, the reserved bits among them. A packet is read back from its
header and body, and from the words of the management port that carry it (R59, R112, R113). -/
def Obligations.HeadersComeBack : Prop :=
  (∀ (op : Op) (h : ReqHdr), parseHdr (encodeHdr op h) = hdrOf op h ∧ Op.ofCode (hdrOf op h).op = some op ∧
    ∀ k : Fin 128, (parseHdr (encodeHdr op h ^^^ (1#128 <<< k.val))).parityOk = false) ∧
  (∀ (lvl latency : Nat) (r : Req), r.status < 2 ^ 8 → r.tag < 2 ^ 11 → r.requester < 2 ^ 8 → r.served < 2 ^ 3 →
    let x := (rspHeader lvl r latency).toNat
    let bit := fun (v : Bool) => if v then 1 else 0
    evenParity 64 x = true ∧ bitsOf x 0 8 = (if lvl ≤ 1 then r.status / 16 * 16 else r.status) ∧ bitsOf x 8 11 = r.tag ∧
      bitsOf x 19 8 = r.requester ∧ bitsOf x 27 1 = bit r.rdata.isSome ∧ bitsOf x 28 1 = bit r.dup ∧
      bitsOf x 29 1 = (if lvl ≤ 1 then 0 else bit r.cancelHit) ∧ bitsOf x 30 1 = (if lvl ≤ 2 then 0 else bit r.snd.sampled) ∧
      bitsOf x 32 3 = (if lvl ≤ 1 then 0 else r.served) ∧ bitsOf x 35 1 = (if lvl ≤ 2 then 0 else bit r.cacheHit) ∧
      bitsOf x 36 12 = 0 ∧ bitsOf x 48 16 = (if lvl ≤ 2 then 0 else min (latency / 8) 0xFFFF)) ∧
  (∀ p : Packet, packetOf (packetBytes p) = p ∧ (packetBytes p).length = 16 + p.body.length ∧
    (p.body.length % 4 = 0 → packetOf ((bytesWords (packetBytes p)).flatMap wordBytes) = p ∧
      4 * (bytesWords (packetBytes p)).length = 16 + p.body.length))

/-- The reverse decode of R163 gives back every block address of a pond whose placement is legal (R157, R165, R166): hashed on 1, 2, 4 or
8 channels of which it excludes none, or striped over any set with the SET_OFFSET of step 4. The coordinates that R160 to R162 give lie on
a member channel that the pond does not exclude, and within the widths of the geometry. -/
def Obligations.AddressesComeBack : Prop :=
  ∀ (t : Tab Nat) (p : Place) (rel : Nat),
    let mask := setMask t p.set
    let m := maskCount mask
    let g := setGeo t p.set
    let ps := positions t p.set g
    cfgGet t 0x1200 p.set 8 ≤ g.colb → (ps.map Prod.snd).Nodup → (∀ e ∈ ps, e.2 < g.hb) → p.grain ≤ 8 → memberMask t p ≠ 0 →
    (p.striped = false → p.exclude = 0 ∧ m ∈ [1, 2, 4, 8]) → (p.striped = true → m ∈ [1, 2, 4, 8] ∨ p.setOff % m = 0) →
    rel < p.size * 2 ^ 28 → rel % 64 = 0 →
    let c := placeDecode t p rel
    placeEncode t p c = some rel ∧ c.chan < 8 ∧ mask.testBit c.chan = true ∧ p.exclude.testBit c.chan = false ∧ c.sc < 2 ^ g.sc ∧
      c.rank < 2 ^ g.rk ∧ c.cid < 2 ^ g.cid ∧ c.bg < 2 ^ g.bg ∧ c.ba < 2 ^ g.ba ∧ c.col < 2 ^ g.colb

/-- Every step that answers a next state keeps what `Block.sound` says: the four inlets, eight channels and sixteen keys, the canonical
form of the scratch ways' memory and of the tables, distinct numbers of the requests in flight, and the limits of credits, FIFO and queue. -/
def Obligations.StepKeepsSound : Prop :=
  ∀ s t : State, s.blk.sound = true → step s = .next t → t.blk.sound = true
end

