-- ==== Sys2Proof/Laws/Tables.lean ====
section
/-! SUPPORT. Sparse tables and the memory of the scratch ways: reading after writing, and the canonical form. -/

namespace Sys2Proof.Machine

/-- Every key of the table is above `k`. -/
def above {α : Type} (k : Nat) (t : List (Nat × α)) : Prop := ∀ e ∈ t, k < e.1

theorem risingKeys_cons {α : Type} {a : Nat × α} {t : List (Nat × α)} :
    risingKeys (a :: t) = true ↔ above a.1 t ∧ risingKeys t = true := by
  induction t generalizing a with
  | nil => simp [risingKeys, above]
  | cons b t ih =>
    simp only [risingKeys, Bool.and_eq_true, decide_eq_true_eq, above, List.mem_cons, forall_eq_or_imp]
    constructor
    · rintro ⟨h, r⟩
      exact ⟨⟨h, fun e he => h.trans ((ih.1 r).1 e he)⟩, r⟩
    · rintro ⟨⟨h, _⟩, r⟩
      exact ⟨h, r⟩

theorem tget_of_above {α : Type} {d : α} {k : Nat} {t : List (Nat × α)} (h : above k t) : tget d t k = d := by
  induction t with
  | nil => rfl
  | cons e t ih =>
    obtain ⟨i, w⟩ := e
    have h1 : k < i := h (i, w) (by simp)
    have h2 : tget d t k = d := ih (fun e he => h e (List.mem_cons_of_mem _ he))
    simp [tget, Nat.ne_of_lt h1, h2]

variable {α : Type} [DecidableEq α] {d : α}

theorem tput_above {k i : Nat} {v : α} {t : List (Nat × α)} (h : above k t) (hi : k < i) : above k (tput d t i v) := by
  induction t with
  | nil =>
    unfold tput
    split
    · simp [above]
    · simpa [above] using hi
  | cons e t ih =>
    obtain ⟨j, w⟩ := e
    have hj : k < j := h (j, w) (by simp)
    have ht : above k t := fun e he => h e (List.mem_cons_of_mem _ he)
    unfold tput
    split
    · split
      · exact h
      · intro e he
        rcases List.mem_cons.1 he with rfl | he
        · exact hi
        · exact h e he
    · split
      · split
        · exact ht
        · intro e he
          rcases List.mem_cons.1 he with rfl | he
          · exact hi
          · exact ht e he
      · intro e he
        rcases List.mem_cons.1 he with rfl | he
        · exact hj
        · exact ih ht e he

/-- Writing keeps the keys rising. -/
theorem tput_rising {k : Nat} {v : α} {t : List (Nat × α)} (h : risingKeys t = true) : risingKeys (tput d t k v) = true := by
  induction t with
  | nil => unfold tput; split <;> rfl
  | cons e t ih =>
    obtain ⟨j, w⟩ := e
    obtain ⟨ha, hr⟩ := risingKeys_cons.1 h
    unfold tput
    split
    · rename_i hk
      split
      · exact h
      · refine risingKeys_cons.2 ⟨?_, h⟩
        intro e he
        rcases List.mem_cons.1 he with rfl | he
        · exact hk
        · exact hk.trans (ha e he)
    · split
      · subst_vars
        split
        · exact hr
        · exact risingKeys_cons.2 ⟨ha, hr⟩
      · exact risingKeys_cons.2 ⟨tput_above ha (by simp only at *; omega), ih hr⟩

theorem tput_noDefault {k : Nat} {v : α} {t : List (Nat × α)} (h : t.all (fun e => !decide (e.2 = d)) = true) :
    (tput d t k v).all (fun e => !decide (e.2 = d)) = true := by
  induction t with
  | nil => unfold tput; split <;> simp_all
  | cons e t ih =>
    obtain ⟨j, w⟩ := e
    simp only [List.all_cons, Bool.and_eq_true] at h
    unfold tput
    split
    · split
      · simpa using h
      · rename_i hv
        simpa [hv] using h
    · split
      · split
        · exact h.2
        · rename_i hv
          simpa [hv] using h.2
      · simp only [List.all_cons, Bool.and_eq_true]
        exact ⟨h.1, ih h.2⟩

/-- Writing keeps a table canonical. -/
theorem tput_twf {k : Nat} {v : α} {t : Tab α} (h : twf d t = true) : twf d (tput d t k v) = true := by
  simp only [twf, Bool.and_eq_true] at *
  exact ⟨tput_rising h.1, tput_noDefault h.2⟩

/-- A canonical table reads what was written. -/
theorem tget_tput_self {k : Nat} {v : α} {t : Tab α} (h : risingKeys t = true) : tget d (tput d t k v) k = v := by
  induction t with
  | nil => unfold tput; split <;> simp_all [tget]
  | cons e t ih =>
    obtain ⟨j, w⟩ := e
    obtain ⟨ha, hr⟩ := risingKeys_cons.1 h
    unfold tput
    split
    · rename_i hk
      split
      · rename_i hv
        rw [hv]
        exact tget_of_above (fun e he => by
          rcases List.mem_cons.1 he with rfl | he
          · exact hk
          · exact hk.trans (ha e he))
      · simp [tget]
    · split
      · subst_vars
        split
        · rename_i hv
          rw [hv]
          exact tget_of_above ha
        · simp [tget]
      · rename_i h2 h3
        simp [tget, h3, ih hr]

/-- Writing leaves every other key as it was. -/
theorem tget_tput_ne {k i : Nat} {v : α} {t : Tab α} (hne : i ≠ k) : tget d (tput d t k v) i = tget d t i := by
  induction t with
  | nil => unfold tput; split <;> simp [tget, hne]
  | cons e t ih =>
    obtain ⟨j, w⟩ := e
    unfold tput
    split
    · split
      · rfl
      · simp [tget, hne]
    · split
      · subst_vars
        split <;> simp [tget, hne]
      · simp [tget, ih]

theorem tmod_twf {k : Nat} {g : α → α} {t : Tab α} (h : twf d t = true) : twf d (tmod d t k g) = true := tput_twf h

omit [DecidableEq α] in
theorem filter_rising {t : List (Nat × α)} {p : Nat × α → Bool} (h : risingKeys t = true) : risingKeys (t.filter p) = true := by
  induction t with
  | nil => rfl
  | cons e t ih =>
    obtain ⟨ha, hr⟩ := risingKeys_cons.1 h
    by_cases hp : p e = true
    · rw [List.filter_cons_of_pos hp]
      exact risingKeys_cons.2 ⟨fun x hx => ha x (List.mem_filter.1 hx).1, ih hr⟩
    · rw [List.filter_cons_of_neg hp]
      exact ih hr

/-- Clearing a range of keys keeps a table canonical. -/
theorem filter_twf {t : Tab α} {p : Nat × α → Bool} (h : twf d t = true) : twf d (t.filter p) = true := by
  simp only [twf, Bool.and_eq_true, List.all_eq_true] at *
  exact ⟨filter_rising h.1, fun e he => h.2 e (List.mem_filter.1 he).1⟩

theorem tclear_twf {t : Tab α} {lo hi : Nat} (h : twf d t = true) : twf d (tclear t lo hi) = true := filter_twf h

/-! ### The memory of the scratch ways -/

/-- A write keeps the canonical form. -/
theorem Memory.write_wf {m : List Host.Cell} {a : Nat} {v : Byte} (h : Memory.wf m = true) : Memory.wf (Memory.write m a v) = true :=
  tput_twf h

theorem Memory.read_write_self {m : List Host.Cell} {a : Nat} {v : Byte} (h : Memory.wf m = true) :
    Memory.read (Memory.write m a v) a = v := by
  simp only [Memory.wf, twf, Bool.and_eq_true] at h
  exact tget_tput_self h.1

theorem Memory.read_write_ne {m : List Host.Cell} {a x : Nat} {v : Byte} (h : x ≠ a) :
    Memory.read (Memory.write m a v) x = Memory.read m x := tget_tput_ne h

theorem writeFold_wf {a : Nat} {d : Block512} {mask : BitVec 64} (l : List Nat) {m : List Host.Cell} (h : Memory.wf m = true) :
    Memory.wf (l.foldl (fun m k => if mask.getLsbD k then Memory.write m (a + k) (blockByte d k) else m) m) = true := by
  induction l generalizing m with
  | nil => exact h
  | cons k l ih =>
    rw [List.foldl_cons]
    apply ih
    split
    · exact Memory.write_wf h
    · exact h

/-- Writing a block keeps the canonical form. -/
theorem Memory.writeBlock_wf {m : List Host.Cell} {a : Nat} {d : Block512} {mask : BitVec 64} (h : Memory.wf m = true) :
    Memory.wf (Memory.writeBlock m a d mask) = true := writeFold_wf _ h

theorem writeFold_read {a : Nat} {d : Block512} {mask : BitVec 64} (l : List Nat) (hl : l.Nodup) {m : List Host.Cell}
    (h : Memory.wf m = true) (x : Nat) :
    Memory.read (l.foldl (fun m k => if mask.getLsbD k then Memory.write m (a + k) (blockByte d k) else m) m) x =
      if a ≤ x ∧ (x - a) ∈ l ∧ mask.getLsbD (x - a) = true then blockByte d (x - a) else Memory.read m x := by
  induction l generalizing m with
  | nil => simp
  | cons k l ih =>
    obtain ⟨hk, hl'⟩ := List.nodup_cons.1 hl
    rw [List.foldl_cons]
    by_cases hm : mask.getLsbD k = true
    · rw [if_pos hm, ih hl' (Memory.write_wf h)]
      by_cases hx : x = a + k
      · subst hx
        have : a + k - a = k := by omega
        simp [this, hk, hm, Memory.read_write_self h]
      · rw [Memory.read_write_ne hx]
        by_cases hax : a ≤ x
        · have hne : x - a ≠ k := by omega
          simp [hax, hne]
        · simp [hax]
    · rw [if_neg hm, ih hl' h]
      by_cases hax : a ≤ x
      · by_cases hne : x - a = k
        · subst hne
          simp [hm]
        · simp [hax, hne]
      · simp [hax]

/-- The bytes that the mask selects are those of the block, and every other byte is as it was (R98). -/
theorem Memory.read_writeBlock {m : List Host.Cell} {a : Nat} {d : Block512} {mask : BitVec 64} (h : Memory.wf m = true) (x : Nat) :
    Memory.read (Memory.writeBlock m a d mask) x =
      if a ≤ x ∧ x - a < 64 ∧ mask.getLsbD (x - a) = true then blockByte d (x - a) else Memory.read m x := by
  have := writeFold_read (a := a) (d := d) (mask := mask) (List.range 64) List.nodup_range h x
  simpa [Memory.writeBlock] using this

end Sys2Proof.Machine
end

