-- ==== Sys2Proof/Laws/Frames.lean ====
section
/-! SUPPORT. What events, counts and the traffic of requests leave alone: one lemma for each shared operation. -/

namespace Sys2Proof.Machine

/-! ### Lists -/

theorem map_modify {α β : Type} (p : α → β) (g : α → α) (h : ∀ x, p (g x) = p x) (l : List α) (i : Nat) :
    (l.modify i g).map p = l.map p := by
  apply List.ext_getElem?
  intro k
  simp only [List.getElem?_map, List.getElem?_modify]
  split
  · cases l[k]? <;> simp [h]
  · simp

theorem foldl_keeps {α β γ : Type} (p : α → γ) (g : α → β → α) (h : ∀ a x, p (g a x) = p a) (l : List β) (a : α) :
    p (l.foldl g a) = p a := by
  induction l generalizing a with
  | nil => rfl
  | cons x l ih => rw [List.foldl_cons, ih, h]

/-! ### Events and counts -/

theorem count1_only (b : Block) (set ev : Nat) (cls rq sc : Option Nat) (n i : Nat) :
    ∃ c, b.count1 set ev cls rq sc n i = { b with ctr := c } := by
  unfold Block.count1
  extract_lets
  split
  · exact ⟨_, rfl⟩
  · exact ⟨b.ctr, rfl⟩

theorem foldl_only {α : Type} (g : Block → α → Block) (h : ∀ b x, ∃ c, g b x = { b with ctr := c }) (l : List α) (b : Block) :
    ∃ c, l.foldl g b = { b with ctr := c } := by
  induction l generalizing b with
  | nil => exact ⟨b.ctr, rfl⟩
  | cons x l ih =>
    obtain ⟨c1, h1⟩ := h b x
    obtain ⟨c2, h2⟩ := ih (g b x)
    exact ⟨c2, by rw [List.foldl_cons, h2, h1]⟩

/-- A count changes the counters alone. -/
theorem count_only (b : Block) (ev : Nat) (cls rq : Option Nat) (n : Nat) : ∃ c, b.count ev cls rq n = { b with ctr := c } := by
  unfold Block.count
  split
  · exact foldl_only _ (fun b i => count1_only b 0 ev cls rq none n i) _ b
  · exact ⟨b.ctr, rfl⟩

theorem countC_only (b : Block) (c ev : Nat) (cls rq sc : Option Nat) (n : Nat) :
    ∃ x, b.countC c ev cls rq sc n = { b with ctr := x } := by
  unfold Block.countC
  split
  · exact foldl_only _ (fun _ i => count1_only _ _ _ _ _ _ _ i) _ b
  · exact ⟨b.ctr, rfl⟩

/-- Time that passes changes the clock and the counters alone. -/
theorem advance_only (b : Block) (dt : Nat) : ∃ c, b.advance dt = { b with ctr := c, clk := b.clk.advance dt } := by
  unfold Block.advance
  extract_lets n b1 b2 b3
  obtain ⟨c1, h1⟩ : ∃ c, b1 = { b with ctr := c } := count_only b _ _ _ _
  obtain ⟨c2, h2⟩ : ∃ c, b2 = { b1 with ctr := c } := by
    show ∃ c, (if b1.drain = true then b1.count 0x13 none none n else b1) = _
    split
    · exact count_only b1 _ _ _ _
    · exact ⟨b1.ctr, rfl⟩
  obtain ⟨c3, h3⟩ : ∃ c, b3 = { b2 with ctr := c } := by
    refine foldl_only _ (fun b c => ?_) _ b2
    split
    · exact ⟨b.ctr, rfl⟩
    · exact countC_only b _ _ _ _ _ _
  exact ⟨c3, by rw [h3, h2, h1]⟩

@[simp] theorem count1_sansLog (b : Block) (set ev : Nat) (cls rq sc : Option Nat) (n i : Nat) :
    (b.count1 set ev cls rq sc n i).sansLog = b.sansLog := by
  unfold Block.count1; extract_lets; split <;> rfl

@[simp] theorem count_sansLog (b : Block) (ev : Nat) (cls rq : Option Nat) (n : Nat) :
    (b.count ev cls rq n).sansLog = b.sansLog := by
  unfold Block.count; split
  · exact foldl_keeps _ _ (by intros; simp) _ _
  · rfl

@[simp] theorem countC_sansLog (b : Block) (c ev : Nat) (cls rq sc : Option Nat) (n : Nat) :
    (b.countC c ev cls rq sc n).sansLog = b.sansLog := by
  unfold Block.countC; split
  · exact foldl_keeps _ _ (by intros; simp) _ _
  · rfl

@[simp] theorem pend_sansLog (b : Block) (sev : Nat) : (b.pend sev).sansLog = b.sansLog := rfl

theorem modInlet_sansLog (b : Block) (i : Nat) (g : Inlet → Inlet) (h : ∀ n, (g n).sansDropped = n.sansDropped) :
    (b.modInlet i g).sansLog = b.sansLog :=
  congrArg (fun l : List Inlet => ({ b.sansLog with inlets := l } : Block)) (map_modify Inlet.sansDropped g h b.inlets i)

@[simp] theorem queueEvent_sansLog (b : Block) (src : Src) (e : EvPkt) : (b.queueEvent src e).sansLog = b.sansLog := by
  unfold Block.queueEvent
  split
  · rfl
  · split
    · rfl
    · extract_lets r p b1 b2
      have h : b2.sansLog = b1.sansLog := by
        unfold b2
        rw [modInlet_sansLog]
        intro; rfl
      split
      · exact h
      · exact h

@[simp] theorem sendEvent_sansLog (b : Block) (src : Src) (who : Nat) (pond : Option Nat) (n : Bool) (r : LogRec) :
    (b.sendEvent src who pond n r).sansLog = b.sansLog := by
  unfold Block.sendEvent; extract_lets; rw [queueEvent_sansLog]; rfl

@[simp] theorem fanOut_sansLog (b : Block) (code : Nat) (pl : List Byte) (pond : Option Nat) (n : Bool) (r : LogRec) :
    (b.fanOut code pl pond n r).sansLog = b.sansLog := by
  unfold Block.fanOut
  extract_lets ann b1
  have h : b1.sansLog = b.sansLog := foldl_keeps _ _ (by
    intro a x
    split
    · split
      · exact sendEvent_sansLog ..
      · rfl
    · rfl) _ _
  split
  · rw [sendEvent_sansLog, h]
  · exact h

@[simp] theorem emitPond_sansLog (b : Block) (code : Nat) (pl : List Byte) (pond : Option Nat) :
    (b.emitPond code pl pond).sansLog = b.sansLog := by
  unfold Block.emitPond
  split
  · rfl
  · extract_lets r b1 w b2 b3
    split
    · rfl
    · have h2 : b2.sansLog = b.sansLog := count_sansLog ..
      have h3 : b3.sansLog = b.sansLog := by
        unfold b3
        split
        · exact h2
        · rw [pend_sansLog, h2]
      rw [fanOut_sansLog, h3]

@[simp] theorem event_sansLog (b : Block) (code : Nat) (fields : List (Nat × Nat)) :
    (b.event code fields).sansLog = b.sansLog := emitPond_sansLog _ _ _ _


/-! ### Traffic -/

theorem ledger_eq (b b' : Block) (h : b'.reqs = b.reqs) : b'.ledger = b.ledger := by simp [Block.ledger, h]

theorem frame_sansLog (b : Block) : b.sansLog.frame = b.frame := by
  have h : b.sansLog.inlets.map Inlet.frame = b.inlets.map Inlet.frame := by
    simp only [Block.sansLog, List.map_map]
    rfl
  unfold Block.frame
  rw [h]
  rfl

theorem frame_of_sansLog {b b' : Block} (h : b'.sansLog = b.sansLog) : b'.frame = b.frame := by
  rw [← frame_sansLog b', h, frame_sansLog]

@[simp] theorem count_frame (b : Block) (ev : Nat) (cls rq : Option Nat) (n : Nat) : (b.count ev cls rq n).frame = b.frame :=
  frame_of_sansLog (count_sansLog ..)

@[simp] theorem countC_frame (b : Block) (c ev : Nat) (cls rq sc : Option Nat) (n : Nat) :
    (b.countC c ev cls rq sc n).frame = b.frame := frame_of_sansLog (countC_sansLog ..)

@[simp] theorem event_frame (b : Block) (code : Nat) (fields : List (Nat × Nat)) : (b.event code fields).frame = b.frame :=
  frame_of_sansLog (event_sansLog ..)

@[simp] theorem emitPond_frame (b : Block) (code : Nat) (pl : List Byte) (pond : Option Nat) :
    (b.emitPond code pl pond).frame = b.frame := frame_of_sansLog (emitPond_sansLog ..)

@[simp] theorem parity_frame (b : Block) (mem rq tag out : Nat) : (b.parity mem rq tag out).frame = b.frame := by
  unfold Block.parity; rw [event_frame]; rfl

theorem modChan_frame (b : Block) (c : Nat) (g : Chan → Chan) (h : ∀ ch, (g ch).frame = ch.frame) :
    (b.modChan c g).frame = b.frame :=
  congrArg (fun l : List Chan => ({ b.frame with rest := { b.frame.rest with chans := l } } : Frame))
    (map_modify Chan.frame g h b.chans c)

@[simp] theorem modQueue_frame (b : Block) (c q : Nat) (g : Queue → Queue) : (b.modQueue c q g).frame = b.frame :=
  modChan_frame _ _ _ (fun _ => rfl)

theorem mapChans_frame (b : Block) (g : Chan → Chan) (h : ∀ ch, (g ch).frame = ch.frame) :
    ({ b with chans := b.chans.map g } : Block).frame = b.frame :=
  congrArg (fun l : List Chan => ({ b.frame with rest := { b.frame.rest with chans := l } } : Frame))
    (by rw [List.map_map]; exact List.map_congr_left (fun ch _ => h ch))

theorem modInlet_frame (b : Block) (i : Nat) (g : Inlet → Inlet) (h : ∀ n, (g n).frame = n.frame) :
    (b.modInlet i g).frame = b.frame :=
  congrArg (fun l : List Inlet => ({ b.frame with rest := { b.frame.rest with inlets := l } } : Frame))
    (map_modify Inlet.frame g h b.inlets i)

@[simp] theorem modSlot_frame (b : Block) (s : Nat) (g : Slot → Slot) : (b.modSlot s g).frame = b.frame := rfl

theorem mapReqs_ledger (id : Nat) (g : Req → Req) (h : ∀ r, (g r).fixed = r.fixed) (l : List Req) :
    ((l.map (fun r => if r.id == id then g r else r)).filter (fun r => r.inlet.isSome)).map Req.fixed =
      (l.filter (fun r => r.inlet.isSome)).map Req.fixed := by
  have hi : ∀ r : Req, (g r).inlet = r.inlet := by
    intro r
    have := congrArg (fun x : Req => x.inlet) (h r)
    exact this
  induction l with
  | nil => rfl
  | cons r l ih =>
    simp only [List.map_cons]
    by_cases hr : (r.id == id) = true <;> by_cases hn : r.inlet.isSome = true <;>
      simp only [hr, hn, hi, if_true, if_false, List.filter_cons, List.map_cons, h, ih, Bool.false_eq_true]

theorem modReq_ledger (b : Block) (id : Nat) (g : Req → Req) (h : ∀ r, (g r).fixed = r.fixed) :
    (b.modReq id g).ledger = b.ledger := mapReqs_ledger id g h b.reqs

theorem modReq_frame (b : Block) (id : Nat) (g : Req → Req) (h : ∀ r, (g r).fixed = r.fixed) :
    (b.modReq id g).frame = b.frame :=
  congrArg (fun l : List Req => ({ b.frame with ledger := l } : Frame)) (modReq_ledger b id g h)

@[simp] theorem modSnd_frame (b : Block) (id : Option Nat) (g : Sound → Sound) : (b.modSnd id g).frame = b.frame := by
  unfold Block.modSnd
  split
  · rfl
  · exact modReq_frame _ _ _ (fun _ => rfl)

@[simp] theorem stageTo_frame (b : Block) (id : Nat) (st : Stage) : (b.stageTo id st).frame = b.frame :=
  modReq_frame _ _ _ (fun _ => rfl)

@[simp] theorem onCache_frame (b : Block) (g : Cache → Cache) : (b.onCache g).frame = b.frame := rfl

@[simp] theorem modPond_frame (b : Block) (p : Nat) (g : PondRt → PondRt) : (b.modPond p g).frame = b.frame := rfl

@[simp] theorem finish_frame (b : Block) (id st : Nat) (data : Option Block512) : (b.finish id st data).frame = b.frame := by
  unfold Block.finish
  split
  · rfl
  · split
    · rfl
    · extract_lets d ordered
      split
      · exact modReq_frame _ _ _ (fun _ => rfl)
      · refine congrArg (fun l : List Req => ({ b.frame with ledger := l } : Frame)) (congrArg (List.map Req.fixed) ?_)
        rw [List.filter_filter]
        refine List.filter_congr (fun x _ => ?_)
        cases x.inlet <;> simp

end Sys2Proof.Machine
end

