-- ==== Sys2Proof/Laws/Traffic.lean ====
section
/-! SUPPORT. The stages of a request, the cache, the fill engine and the queues leave the frame of the block alone. -/

namespace Sys2Proof.Machine

/-! ### Channels -/

@[simp] theorem pump_frame (ch : Chan) (now : Nat) : (ch.pump now).frame = ch.frame := rfl

@[simp] theorem tellFrozen_frame (b : Block) (c k : Nat) : (b.tellFrozen c k).frame = b.frame := by
  unfold Block.tellFrozen
  extract_lets ch
  split
  · rw [modChan_frame]
    · exact event_frame ..
    · intro; rfl
  · rfl

@[simp] theorem issue_frame (b : Block) (d : DReq) : (b.issue d).frame = b.frame := by
  unfold Block.issue
  extract_lets c d'
  rw [tellFrozen_frame, modChan_frame]
  · rfl
  · intro; rfl

@[simp] theorem shRefund_frame (b : Block) (c k cost : Nat) : (b.shRefund c k cost).frame = b.frame := by
  unfold Block.shRefund
  split
  · exact modChan_frame _ _ _ (fun _ => rfl)
  · rfl

@[simp] theorem arbAdd_frame (b : Block) (c rq k n : Nat) : (b.arbAdd c rq k n).frame = b.frame := by
  unfold Block.arbAdd
  split
  · extract_lets w b1
    split
    · unfold Block.visAdd
      split <;> rfl
    · rfl
  · rfl

@[simp] theorem withdraw_frame (b : Block) (id : Nat) : (b.withdraw id).1.frame = b.frame := by
  unfold Block.withdraw
  split
  · rfl
  · extract_lets gone b1 b2 b3
    have hg : ∀ x : Block, (gone x).frame = x.frame := fun x => modChan_frame _ _ _ (fun _ => rfl)
    have h1 : b1.frame = b.frame := by
      unfold b1
      split
      · exact shRefund_frame ..
      · rfl
    split
    · exact hg b
    · exact hg b
    · dsimp only
      rw [modChan_frame]
      · rw [hg, countC_frame, arbAdd_frame, h1]
      · intro; rfl
    · split
      · rfl
      · exact hg b

@[simp] theorem poisonWrite_frame (b : Block) (p blk cls : Nat) (d : Block512) (st : Bool) :
    (b.poisonWrite p blk cls d st).1.frame = b.frame := by
  unfold Block.poisonWrite
  split
  · rfl
  · dsimp only
    rw [issue_frame]
    rfl

/-! ### The cache -/

@[simp] theorem touch_frame (b : Block) (key : Nat) : (b.touch key).frame = b.frame := by
  unfold Block.touch
  split <;> rfl

@[simp] theorem wbReq_frame (b : Block) (blk : Nat) (d : Block512) (p : Bool) : (b.wbReq blk d p).frame = b.frame :=
  issue_frame ..

@[simp] theorem issueWb_frame (b : Block) (a : Loc) (l : Line) : (b.issueWb a l).frame = b.frame := by
  unfold Block.issueWb
  split
  · rfl
  · simp

@[simp] theorem update_frame (b : Block) (a : Loc) (l : Line) : (b.update a l).frame = b.frame := by
  unfold Block.update
  extract_lets b1
  split
  · simp [b1]
  · rfl

theorem ops_flushed (blk : Nat) (l : List LongOp) :
    (l.map (LongOp.flushed blk)).map (fun o => (o.src, o.pkt)) = l.map (fun o => (o.src, o.pkt)) := by
  rw [List.map_map]
  refine List.map_congr_left (fun o _ => ?_)
  simp only [Function.comp, LongOp.flushed]
  split <;> rfl

theorem setOps_frame (b : Block) (l : List LongOp) (h : l.map (fun o => (o.src, o.pkt)) = b.pkts.ops.map (fun o => (o.src, o.pkt))) :
    ({ b with pkts := { b.pkts with ops := l } } : Block).frame = b.frame :=
  congrArg (fun x : List (Src × Packet) => ({ b.frame with ops := x } : Frame)) h

@[simp] theorem wbOrdered_frame (b : Block) (id cls : Nat) : (b.wbOrdered id cls).frame = b.frame := by
  unfold Block.wbOrdered
  extract_lets b1 loc
  have h1 : b1.frame = b.frame := count_frame ..
  clear_value loc
  split
  · exact h1
  · extract_lets bump b2 p b3
    have h2 : b2.frame = b.frame := h1
    rw [update_frame]
    exact (setOps_frame b2 _ (ops_flushed _ _)).trans h2

@[simp] theorem pushShallows_frame (b : Block) (l : Line) : (b.pushShallows l).frame = b.frame := by
  unfold Block.pushShallows
  extract_lets b1
  rw [update_frame]
  rfl

theorem allocate_frame (b b' : Block) (set : Nat) (k : Option Nat) (h : b.allocate set = some (b', k)) : b'.frame = b.frame := by
  unfold Block.allocate at h
  split at h
  · cases h; rfl
  · cases h; simp
  · split at h
    · cases h; simp
    · cases h

theorem allocate_getD_frame (b : Block) (set : Nat) : ((b.allocate set).getD (b, none)).1.frame = b.frame := by
  cases h : b.allocate set with
  | none => rfl
  | some x => exact allocate_frame b x.1 set x.2 h

@[simp] theorem recall_frame (b : Block) (n : Nat) (l : Line) : (b.recall n l).1.frame = b.frame := by
  unfold Block.recall
  extract_lets back r
  have hb : ∀ l, (back b l).1.frame = b.frame := by
    intro l
    unfold back
    split
    · rfl
    · exact withdraw_frame ..
  split
  · rfl
  · extract_lets b1
    simp [b1, r, hb]
  · extract_lets b1 b2
    simp [b2, b1, r, hb]

@[simp] theorem poisonLine_frame (b : Block) (a : Loc) (l : Line) (rq : Nat) : (b.poisonLine a l rq).frame = b.frame := by
  unfold Block.poisonLine
  extract_lets b1 l1 b2 b3 p
  have h2 : b2.frame = b.frame := by simp [b2, b1]
  rw [emitPond_frame]
  unfold b3
  split
  · rw [issueWb_frame, h2]
  · exact h2

@[simp] theorem tagFault_frame (b : Block) (set rq tag : Nat) (f : SramFault) : (b.tagFault set rq tag f).frame = b.frame := by
  unfold Block.tagFault
  split <;> simp

@[simp] theorem serveLine_frame (b : Block) (r : Req) (a : Loc) (l : Line) : (b.serveLine r a l).frame = b.frame := by
  unfold Block.serveLine
  extract_lets b1 b2 bad
  have h1 : b1.frame = b.frame := modReq_frame _ _ _ (fun _ => rfl)
  have h2 : b2.frame = b.frame := by
    unfold b2
    split
    · rw [touch_frame, h1]
    · exact h1
  split
  · split <;> rw [finish_frame, h2]
  · split
    · rw [finish_frame, update_frame, h2]
    · rw [finish_frame, update_frame, h2]

@[simp] theorem serveScratch_frame (b : Block) (r : Req) (f : SramFault) : (b.serveScratch r f).frame = b.frame := by
  unfold Block.serveScratch
  extract_lets n b1 b2 fails b3 bad inner m poison
  have h2 : b2.frame = b.frame := by
    unfold b2
    rw [modReq_frame]
    · exact count_frame ..
    · intro; rfl
  have h3 : b3.frame = b.frame := by
    unfold b3
    split
    · rw [onCache_frame, parity_frame, h2]
    · exact h2
  split
  · exact finish_frame ..
  · split
    · split <;> rw [finish_frame, h3]
    · rw [finish_frame, onCache_frame, h3]

@[simp] theorem toChannel_frame (b : Block) (r : Req) : (b.toChannel r).frame = b.frame := by
  unfold Block.toChannel
  extract_lets kind
  simp

@[simp] theorem issueFill_frame (b : Block) (blk pond rq tag cls : Nat) (slot : Option Nat) (ws : List Nat) (o p : Option Nat)
    (pf : Bool) : (b.issueFill blk pond rq tag cls slot ws o p pf).frame = b.frame := by
  unfold Block.issueFill
  extract_lets id
  simp

@[simp] theorem prefetch_frame (b : Block) (r : Req) : (b.prefetch r).frame = b.frame := by
  unfold Block.prefetch
  extract_lets p n cls pl c a
  have ha : a.1.frame = b.frame := by
    unfold a
    split
    · rfl
    · exact allocate_getD_frame ..
  split
  · rfl
  · split
    · exact count_frame ..
    · rw [issueFill_frame, ha]

@[simp] theorem join_frame (b : Block) (r : Req) (f : LineFill) : (b.join r f).frame = b.frame := by
  unfold Block.join
  extract_lets slotted key l b1 waits b2 b3 b4
  have h2 : b2.frame = b.frame := modReq_frame _ _ _ (fun _ => rfl)
  split
  · simp [b1]
  · split
    · rw [issueFill_frame]
      simp [b4, b3, h2]
    · rw [onCache_frame, h2]

@[simp] theorem miss_frame (b : Block) (r : Req) : (b.miss r).frame = b.frame := by
  unfold Block.miss
  extract_lets set out unq first stall b1
  have ho : ∀ (x : Block) n, (out x n).frame = x.frame := fun x n => modReq_frame _ _ _ (fun _ => rfl)
  split
  · rw [toChannel_frame, ho]
  · split
    · simp
    · split
      · simp [b1]
      · split
        · rfl
        · rename_i h
          rw [toChannel_frame, ho, allocate_frame _ _ _ _ h]
          rfl
        · rename_i h
          have hu := allocate_frame _ _ _ _ h
          extract_lets b2 l b3
          have h2 : b2.frame = b.frame := (ho _ _).trans (hu.trans rfl)
          split
          · rw [finish_frame, update_frame, h2]
          · have h3 : b3.frame = b.frame := by simp [b3, h2]
            split
            · rw [prefetch_frame, h3]
            · exact h3

@[simp] theorem lookup_frame (b : Block) (r : Req) (f : SramFault) (again : Bool) : (b.lookup r f again).frame = b.frame := by
  unfold Block.lookup
  extract_lets b1 hit misses
  have h1 : b1.frame = b.frame := tagFault_frame ..
  have hh : ∀ n, (hit b1 n).frame = b.frame := by
    intro n
    unfold hit
    extract_lets b2
    rw [modReq_frame]
    · unfold b2
      split
      · exact h1
      · rw [count_frame, h1]
    · intro; rfl
  have hm : (misses b1).frame = b.frame := by
    unfold misses
    split
    · exact h1
    · rw [count_frame, h1]
  split
  · extract_lets x b2
    have hx : x.1.frame = b.frame := by
      unfold x
      split
      · exact hh 1
      · rw [recall_frame, hh]
    split
    · split
      · rw [finish_frame, poisonLine_frame, hx]
      · have h2 : b2.frame = b.frame := by simp [b2, hx]
        split <;> simp [h2]
    · rw [serveLine_frame, hx]
  · split
    · rw [join_frame, onCache_frame, hm]
    · rw [miss_frame, hm]

/-! ### The return of a fill -/

theorem serveWaiter_frame (a : Block × Serving) (id : Nat) : (Block.serveWaiter a id).1.frame = a.1.frame := by
  unfold Block.serveWaiter
  split
  · rfl
  · extract_lets b s s'
    have hb : b.frame = a.1.frame := modSnd_frame ..
    split
    · rw [finish_frame, hb]
    · split
      · rw [finish_frame, hb]
      · split
        · dsimp only
          split <;> rw [finish_frame, hb]
        · rw [finish_frame, hb]

theorem serveWaiters_frame (l : List Nat) (a : Block × Serving) : (l.foldl Block.serveWaiter a).1.frame = a.1.frame :=
  foldl_keeps (fun x : Block × Serving => x.1.frame) _ serveWaiter_frame l a

@[simp] theorem landed_frame (b : Block) (p : Option Nat) : (b.landed p).frame = b.frame := by
  unfold Block.landed
  split
  · rfl
  · split
    · rfl
    · refine setOps_frame b _ ?_
      rw [List.map_map]
      refine List.map_congr_left (fun o _ => ?_)
      simp only [Function.comp]
      split <;> rfl

@[simp] theorem slotFor_frame (b : Block) (f : LineFill) : (b.slotFor f).1.frame = b.frame := by
  unfold Block.slotFor
  split
  · rfl
  · split
    · split <;> rfl
    · split
      · exact allocate_getD_frame ..
      · rfl

@[simp] theorem fillReturn_frame (b : Block) (f : LineFill) (st : Nat) (m u : Bool) (d : Block512) (cls : Nat) (stale : Bool) :
    (b.fillReturn f st m u d cls stale).1.frame = b.frame := by
  unfold Block.fillReturn
  extract_lets b1 r b2 s keep a l
  have h2 : b2.frame = b.frame := serveWaiters_frame _ _
  have ha : a.1.frame = b.frame := by
    unfold a
    split
    · rw [slotFor_frame, h2]
    · exact h2
  split
  · rename_i key _
    extract_lets b3 b4
    have h3 : b3.frame = b.frame := by unfold b3; rw [update_frame, ha]
    dsimp only
    rw [landed_frame]
    unfold b4
    split
    · rw [issueWb_frame, h3]
    · exact h3
  · split
    · rw [wbReq_frame, ha]
    · split
      · rw [poisonWrite_frame, ha]
      · exact ha


/-! ### Tiles and the fill engine -/

@[simp] theorem clearTiles_frame (b : Block) (p : Nat) : (b.clearTiles p).frame = b.frame := by
  unfold Block.clearTiles
  extract_lets s
  split <;> rfl

@[simp] theorem wantTile_frame (b : Block) (p t cls : Nat) (pat : Option (BitVec 64)) : (b.wantTile p t cls pat).frame = b.frame := by
  unfold Block.wantTile
  extract_lets raise f
  split
  · rfl
  · split <;> rfl

@[simp] theorem modJob_frame (b : Block) (key : Nat) (g : FillJob → FillJob) : (b.modJob key g).frame = b.frame := rfl

@[simp] theorem tileOrdered_frame (b : Block) (t : Nat) : (b.tileOrdered t).frame = b.frame := by
  unfold Block.tileOrdered
  split
  · rfl
  · split
    · rfl
    · extract_lets b1
      have h1 : b1.frame = b.frame := (count_frame ..).trans rfl
      exact h1

@[simp] theorem fillOrdered_frame (b : Block) (ref : Nat) : (b.fillOrdered ref).frame = b.frame := by
  unfold Block.fillOrdered
  split <;> simp

@[simp] theorem fillWrite_frame (b : Block) (p blk cls ref : Nat) (d : Block512) (po : Bool) :
    (b.fillWrite p blk cls ref d po).frame = b.frame := issue_frame ..

theorem tileStep_frame (b b' : Block) (h : b.tileStep = some b') : b'.frame = b.frame := by
  unfold Block.tileStep at h
  obtain ⟨f, -, rfl⟩ := Option.map_eq_some_iff.1 h
  rw [fillWrite_frame]
  rfl

theorem jobBlock_frame (b b' : Block) (j : FillJob) (h : b.jobBlock j = some b') : b'.frame = b.frame := by
  unfold Block.jobBlock at h
  extract_lets d done n b1 at h
  have hd : ∀ x, (done x).frame = x.frame := fun _ => rfl
  clear_value d done n
  split at h
  · split at h
    · rw [← Option.some.inj h, hd, onCache_frame]
    · rw [← Option.some.inj h, modJob_frame]
  · split at h
    · cases h
    · split at h
      · rw [← Option.some.inj h, hd, update_frame]
      · split at h
        · rw [← Option.some.inj h, fillWrite_frame]
          unfold b1
          rw [modJob_frame]
        · cases h

theorem dropWbs_frame (b : Block) (lo hi : Nat) : (b.dropWbs lo hi).frame = b.frame := by
  unfold Block.dropWbs
  exact mapChans_frame _ _ (fun _ => rfl)

theorem jobStep_frame (b b' : Block) (j : FillJob) (h : b.jobStep j = some b') : b'.frame = b.frame := by
  unfold Block.jobStep at h
  split at h
  · cases h
  · extract_lets pl t lo wholly busy b1 stop at h
    split at h
    · exact jobBlock_frame b b' j h
    · split at h
      · cases h
      · split at h
        · split at h
          · cases h
          · cases h
            rw [modJob_frame, dropWbs_frame]
            rfl
        · split at h
          · exact jobBlock_frame b b' j h
          · split at h
            · cases h; rfl
            · split at h <;> cases h <;> simp

theorem pumpFill_frame (n : Nat) (b : Block) : (b.pumpFill n).frame = b.frame := by
  induction n generalizing b with
  | zero => rfl
  | succ n ih =>
    unfold Block.pumpFill
    split
    · rename_i b' h
      rw [ih]
      split at h
      · exact tileStep_frame b b' h
      · cases h
    · split
      · rename_i b' h
        obtain ⟨j, -, hj⟩ := List.exists_of_findSome?_eq_some h
        rw [ih, jobStep_frame b b' j hj]
      · rfl

/-! ### The queues -/

@[simp] theorem ordered_frame (b : Block) (d : DReq) : (b.ordered d).frame = b.frame := by
  unfold Block.ordered
  extract_lets c b1
  have h1 : b1.frame = b.frame := modChan_frame _ _ _ (fun _ => rfl)
  split
  · rw [wbOrdered_frame, h1]
  · rw [fillOrdered_frame, h1]
  · exact h1
  · rw [modChan_frame]
    · rw [modQueue_frame, h1]
    · intro; rfl
  · exact h1

@[simp] theorem buffer_frame (b : Block) (d : DReq) : (b.buffer d).frame = b.frame := by
  unfold Block.buffer
  extract_lets c q
  split
  · split <;> simp
  · simp

@[simp] theorem finishOwner_frame (b : Block) (o : Option Nat) (st : Nat) (d : Option Block512) :
    (b.finishOwner o st d).frame = b.frame := by
  unfold Block.finishOwner
  split <;> simp

@[simp] theorem mergeWrite_frame (b : Block) (d : DReq) (old : Block512) (m : Bool) (st : Nat) :
    (b.mergeWrite d old m st).frame = b.frame := by
  unfold Block.mergeWrite
  extract_lets d' b1
  simp [b1]

@[simp] theorem forward_frame (b : Block) (d : DReq) (data : Block512) (m : Bool) : (b.forward d data m).frame = b.frame := by
  unfold Block.forward
  extract_lets c q b1 b2 b3 id b4
  have h3 : b3.frame = b.frame := by simp [b3, b2, b1]
  split
  · split <;> rw [finishOwner_frame, h3]
  · split <;> rw [finishOwner_frame, h3]
  · split
    · exact h3
    · rw [fillReturn_frame, h3]
  · split
    · exact h3
    · rw [fillReturn_frame, h3]
  · exact h3
  · rw [issue_frame]
    simp [b4, h3]
  · exact h3

@[simp] theorem enter_frame (b : Block) (d : DReq) : (b.enter d).frame = b.frame := by
  unfold Block.enter
  extract_lets c q k b1 b2 b3 b4 b5 b6
  have h1 : b1.frame = b.frame := modSnd_frame ..
  have h2 : b2.frame = b.frame := by simp [b2, h1]
  have h3 : b3.frame = b.frame := by simp [b3, h2]
  have h5 : b5.frame = b.frame := by simp [b5, b4, h3]
  split
  · rw [modQueue_frame, h1]
  · split
    · split
      · rw [forward_frame, h3]
      · exact h3
    · split
      · split
        · rw [forward_frame, h2]
        · exact h2
      · split
        · split
          · rw [mergeWrite_frame, h5]
          · exact h5
        · split
          · exact (modQueue_frame ..).trans h2
          · rw [finishOwner_frame, ordered_frame, buffer_frame, h2]

theorem releaseOne_frame (b b' : Block) (h : b.releaseOne = some b') : b'.frame = b.frame := by
  unfold Block.releaseOne at h
  obtain ⟨c, -, h⟩ := List.exists_of_findSome?_eq_some h
  obtain ⟨q, -, h⟩ := List.exists_of_findSome?_eq_some h
  obtain ⟨e, -, rfl⟩ := Option.map_eq_some_iff.1 h
  exact enter_frame ..

/-! ### Stages -/

@[simp] theorem police_frame (b : Block) (slot inlet cls base : Nat) : (b.police slot inlet cls base).1.frame = b.frame := by
  unfold Block.police
  extract_lets p r b1 ev b2
  have h2 : b2.frame = b.frame := by simp [b2, b1]
  split
  · dsimp only
    unfold Block.redEvent
    extract_lets n b3
    rw [modSlot_frame, event_frame, h2]
  · exact h2

@[simp] theorem stage4_frame (b : Block) (r : Req) (f : SramFault) : (b.stage4 r f).frame = b.frame := by
  unfold Block.stage4
  extract_lets p
  split
  · simp
  · split <;> simp

@[simp] theorem after3_frame (b : Block) (r : Req) (f : SramFault) : (b.after3 r f).frame = b.frame := by
  unfold Block.after3
  extract_lets p
  split
  · simp
  · split <;> simp

@[simp] theorem stage3_frame (b : Block) (r : Req) (f : SramFault) : (b.stage3 r f).frame = b.frame := by
  unfold Block.stage3
  split
  · simp
  · extract_lets x pol served b1 r1
    have h1 : b1.frame = b.frame := by
      unfold b1
      rw [modReq_frame]
      · exact police_frame ..
      · intro; rfl
    split
    · rw [finish_frame, h1]
    · split
      · rw [finish_frame, h1]
      · rw [after3_frame, h1]

@[simp] theorem stage2t_frame (b : Block) (r : Req) (f : SramFault) : (b.stage2t r f).frame = b.frame := by
  unfold Block.stage2t
  extract_lets p t
  split <;> simp

@[simp] theorem stage2_frame (b : Block) (r : Req) (f : SramFault) : (b.stage2 r f).frame = b.frame := by
  unfold Block.stage2
  split
  · simp
  · extract_lets b1 r1
    have h1 : b1.frame = b.frame := modReq_frame _ _ _ (fun _ => rfl)
    split <;> simp [h1]

theorem releaseReq_frame (b b' : Block) (h : b.releaseReq = some b') : b'.frame = b.frame := by
  unfold Block.releaseReq at h
  obtain ⟨r, -, h⟩ := List.exists_of_findSome?_eq_some h
  have hu : (b.unwaitIfThere r).frame = b.frame := by
    unfold Block.unwaitIfThere
    split <;> rfl
  split at h <;> (try split at h) <;> cases h <;> simp [hu]

theorem settleN_frame (n : Nat) (b : Block) : (b.settleN n).frame = b.frame := by
  induction n generalizing b with
  | zero => rfl
  | succ n ih =>
    unfold Block.settleN
    split
    · rename_i b' h
      rw [ih, releaseReq_frame b b' h]
    · split
      · rename_i b' h
        rw [ih, releaseOne_frame b b' h]
      · rfl

/-! ### The engines of long packets -/

theorem mapOps_frame (b : Block) (g : LongOp → LongOp) (h : ∀ o, ((g o).src, (g o).pkt) = (o.src, o.pkt)) :
    ({ b with pkts := { b.pkts with ops := b.pkts.ops.map g } } : Block).frame = b.frame := by
  refine setOps_frame b _ ?_
  rw [List.map_map]
  exact List.map_congr_left (fun o _ => h o)

theorem setOp_frame (b : Block) (o : LongOp) (g : LongOp → LongOp) (h : ∀ o, ((g o).src, (g o).pkt) = (o.src, o.pkt)) :
    (b.setOp o g).frame = b.frame := by
  refine mapOps_frame b _ (fun x => ?_)
  split
  · exact h x
  · rfl

theorem copyStep_frame (b b' : Block) (c : Nat) (h : b.copyStep c = some b') : b'.frame = b.frame := by
  unfold Block.copyStep at h
  split at h
  · cases h
  · split at h
    · cases h
    · obtain ⟨e, -, rfl⟩ := Option.map_eq_some_iff.1 h
      extract_lets x skip
      have hs : skip.frame = b.frame := modChan_frame _ _ _ (fun _ => rfl)
      split
      · exact hs
      · split
        · exact hs
        · rw [issue_frame]
          exact modChan_frame _ _ _ (fun _ => rfl)

theorem discardPond_frame (b : Block) (p : Nat) : (b.discardPond p).frame = b.frame := by
  unfold Block.discardPond
  extract_lets pl b1
  rw [dropWbs_frame]
  rfl

theorem emptyPond_frame (b : Block) (p : Nat) : (b.emptyPond p).frame = b.frame :=
  discardPond_frame b p

theorem wipeStep_frame (b b' : Block) (o : LongOp) (h : b.wipeStep o = some b') : b'.frame = b.frame := by
  unfold Block.wipeStep at h
  extract_lets p ways b1 b2 at h
  split at h
  · cases h
  · cases h
    have h1 : b1.frame = b.frame := setOp_frame _ _ _ (fun _ => rfl)
    split
    · exact h1
    · have h2 : b2.frame = b.frame := (emptyPond_frame ..).trans h1
      split
      · exact h2
      · rw [clearTiles_frame, h2]

theorem preloadOne_frame (b : Block) (blk p w tag : Nat) (x : Block × Nat) (h : b.preloadOne blk p w tag = some x) :
    x.1.frame = b.frame := by
  unfold Block.preloadOne at h
  extract_lets key at h
  split at h
  · cases h; rfl
  · split at h
    · cases h
    · split at h
      · extract_lets free at h
        split at h <;> cases h <;> rfl
      · split at h
        · cases h; rfl
        · split at h
          · cases h
          · cases h
            exact issueFill_frame ..

theorem preloadStep_frame (b b' : Block) (o : LongOp) (h : b.preloadStep o = some b') : b'.frame = b.frame := by
  unfold Block.preloadStep at h
  extract_lets count blk at h
  split at h
  · cases h
  · split at h
    · cases h
      exact setOp_frame _ _ _ (fun _ => rfl)
    · obtain ⟨x, hx, rfl⟩ := Option.map_eq_some_iff.1 h
      rw [setOp_frame]
      · exact preloadOne_frame _ _ _ _ _ _ hx
      · intro; rfl

theorem relockStep_frame (b b' : Block) (h : b.relockStep = some b') : b'.frame = b.frame := by
  unfold Block.relockStep at h
  split at h
  · cases h
  · extract_lets i off at h
    split at h
    · cases h
    · split at h
      · cases h; rfl
      · split at h
        · cases h; rfl
        · obtain ⟨x, hx, rfl⟩ := Option.map_eq_some_iff.1 h
          exact preloadOne_frame _ _ _ _ _ _ hx

theorem unlockStep_frame (b b' : Block) (o : LongOp) (h : b.unlockStep o = some b') : b'.frame = b.frame := by
  unfold Block.unlockStep at h
  split at h
  · cases h
  · extract_lets past at h
    have hp : ∀ x n y, past x n = some y → y.frame = x.frame := by
      intro x n y hy
      cases hy
      exact setOp_frame _ _ _ (fun _ => rfl)
    split at h
    · split at h
      · exact hp _ _ _ h
      · split at h
        · cases h
        · split at h
          · rename_i hs
            rw [hp _ _ _ h, onCache_frame, allocate_frame _ _ _ _ hs]
            rfl
          · cases h
    · exact hp _ _ _ h

theorem rangeStep_frame (b b' : Block) (o : LongOp) (h : b.rangeStep o = some b') : b'.frame = b.frame := by
  unfold Block.rangeStep at h
  obtain ⟨blk, -, h⟩ := List.exists_of_findSome?_eq_some h
  extract_lets past at h
  have hp : ∀ x n y, past x n = some y → y.frame = x.frame := by
    intro x n y hy
    cases hy
    exact setOp_frame _ _ _ (fun _ => rfl)
  split at h
  · exact hp _ _ _ h
  · split at h
    · split at h
      · cases h
        simp
      · cases h
    · split at h
      · rw [hp _ _ _ h]
        rfl
      · exact hp _ _ _ h

end Sys2Proof.Machine
end

