-- ==== Sys2Proof/Laws/Settle.lean ====
section
/-! SUPPORT. What follows every command: settling leaves the frame of the block alone (its configuration too, unless a
POND_REBUILD is in progress), and does nothing to a block that rests. -/

namespace Sys2Proof.Machine

/-! ### Rebuilds -/

theorem sansCfg_of_frame {b b' : Block} (h : b'.frame = b.frame) : b'.frame.sansCfg = b.frame.sansCfg := congrArg Frame.sansCfg h

theorem setCfg_sansCfg (b : Block) (t : Tab Nat) : ({ b with cfg := t } : Block).frame.sansCfg = b.frame.sansCfg := rfl

theorem rebuildStep_frame (b b' : Block) (o : LongOp) (h : b.rebuildStep o = some b') : b'.frame.sansCfg = b.frame.sansCfg := by
  unfold Block.rebuildStep at h
  extract_lets p k size set none_ b1 b2 b3 at h
  split at h
  · cases h
  · rw [← Option.some.inj h]
    have h1 : b1.frame = b.frame := setOp_frame _ _ _ (fun _ => rfl)
    have h2 : b2.frame = b.frame := by
      unfold b2
      rw [clearTiles_frame, emptyPond_frame, h1]
    have h3 : b3.frame.sansCfg = b.frame.sansCfg := (setCfg_sansCfg b2 _).trans (sansCfg_of_frame h2)
    clear_value b3
    split
    · exact h3
    · split
      · exact h3
      · exact (sansCfg_of_frame (clearTiles_frame b3 p)).trans h3

/-! ### Engines -/

theorem opStep_sansCfg (b b' : Block) (o : LongOp) (h : b.opStep o = some b') : b'.frame.sansCfg = b.frame.sansCfg := by
  unfold Block.opStep at h
  split at h
  · exact rebuildStep_frame b b' o h
  · exact sansCfg_of_frame (wipeStep_frame b b' o h)
  · exact sansCfg_of_frame (preloadStep_frame b b' o h)
  · exact sansCfg_of_frame (unlockStep_frame b b' o h)
  · exact sansCfg_of_frame (rangeStep_frame b b' o h)
  · cases h

theorem opStep_frame (b b' : Block) (o : LongOp) (ho : (o.pkt.opcode == 0x30) = false) (h : b.opStep o = some b') :
    b'.frame = b.frame := by
  unfold Block.opStep at h
  split at h
  · rename_i hop
    have : o.pkt.opcode = 0x30 := BitVec.eq_of_toNat_eq hop
    simp [this] at ho
  · exact wipeStep_frame b b' o h
  · exact preloadStep_frame b b' o h
  · exact unlockStep_frame b b' o h
  · exact rangeStep_frame b b' o h
  · cases h

theorem engineStep_sansCfg (b b' : Block) (h : b.engineStep = some b') : b'.frame.sansCfg = b.frame.sansCfg := by
  unfold Block.engineStep at h
  split at h
  · rename_i hs
    obtain ⟨c, -, hc⟩ := List.exists_of_findSome?_eq_some hs
    cases h
    exact sansCfg_of_frame (copyStep_frame b _ c hc)
  · split at h
    · rename_i hs
      obtain ⟨o, -, ho⟩ := List.exists_of_findSome?_eq_some hs
      cases h
      exact opStep_sansCfg b _ o ho
    · exact sansCfg_of_frame (relockStep_frame b b' h)

theorem engineStep_frame (b b' : Block) (hn : b.noRebuild = true) (h : b.engineStep = some b') : b'.frame = b.frame := by
  unfold Block.engineStep at h
  split at h
  · rename_i hs
    obtain ⟨c, -, hc⟩ := List.exists_of_findSome?_eq_some hs
    cases h
    exact copyStep_frame b _ c hc
  · split at h
    · rename_i hs
      obtain ⟨o, hm, ho⟩ := List.exists_of_findSome?_eq_some hs
      cases h
      refine opStep_frame b _ o ?_ ho
      simpa using List.all_eq_true.1 hn o hm
    · exact relockStep_frame b b' h

theorem noRebuild_of_frame {b b' : Block} (h : b'.frame.sansCfg = b.frame.sansCfg) : b'.noRebuild = b.noRebuild := by
  have ho : b'.pkts.ops.map (fun o => (o.src, o.pkt)) = b.pkts.ops.map (fun o => (o.src, o.pkt)) := congrArg Frame.ops h
  have e : ∀ x : Block, x.noRebuild = (x.pkts.ops.map (fun o => (o.src, o.pkt))).all (fun e => !(e.2.opcode == 0x30)) := by
    intro x
    simp [Block.noRebuild, List.all_map, Function.comp_def]
  rw [e, e, ho]

theorem pumpEngines_sansCfg (n : Nat) (b : Block) : (b.pumpEngines n).frame.sansCfg = b.frame.sansCfg := by
  induction n generalizing b with
  | zero => rfl
  | succ n ih =>
    unfold Block.pumpEngines
    split
    · rfl
    · rename_i b' h
      rw [ih, engineStep_sansCfg b b' h]

theorem pumpEngines_frame (n : Nat) (b : Block) (hn : b.noRebuild = true) : (b.pumpEngines n).frame = b.frame := by
  induction n generalizing b with
  | zero => rfl
  | succ n ih =>
    unfold Block.pumpEngines
    split
    · rfl
    · rename_i b' h
      have hf := engineStep_frame b b' hn h
      rw [ih b' (by rw [noRebuild_of_frame (sansCfg_of_frame hf), hn]), hf]

/-! ### The end of settling -/

theorem endDrains_frame (b : Block) : b.endDrains.frame = b.frame :=
  foldl_keeps Block.frame _ (fun a _ => foldl_keeps Block.frame _ (fun a _ => by simp) _ a) _ b

theorem pushSnd_frame (b : Block) (r : Block512) : (b.pushSnd r).frame = b.frame := rfl

theorem drainHold_frame (b : Block) : b.drainHold.frame = b.frame := by
  unfold Block.drainHold
  extract_lets b'
  have h : b'.frame = b.frame := foldl_keeps Block.frame _ (fun a r => pushSnd_frame a r) _ b
  exact h

theorem dormFlush_frame (b : Block) : b.dormFlush.frame = b.frame := by
  unfold Block.dormFlush
  split
  · split
    · exact foldl_keeps Block.frame _ (fun a e => issueWb_frame ..) _ b
    · rfl
  · rfl

theorem zipIdx_map_frame (g : Inlet × Nat → Inlet) (h : ∀ e, (g e).frame = e.1.frame) (l : List Inlet) (k : Nat) :
    ((l.zipIdx k).map g).map Inlet.frame = l.map Inlet.frame := by
  induction l generalizing k with
  | nil => rfl
  | cons x l ih => simp [List.zipIdx_cons, h, ih]

theorem lowerIdle_frame (b : Block) : b.lowerIdle.frame = b.frame := by
  unfold Block.lowerIdle
  split
  · refine congrArg (fun l : List Inlet => ({ b.frame with rest := { b.frame.rest with inlets := l } } : Frame))
      (zipIdx_map_frame _ (fun e => ?_) _ _)
    split <;> rfl
  · rfl

/-- Settling leaves the frame of the block alone, less the configuration. -/
theorem settle_sansCfg (b : Block) : b.settle.frame.sansCfg = b.frame.sansCfg := by
  unfold Block.settle
  extract_lets b1 b2 b3
  have h1 : b1.frame.sansCfg = b.frame.sansCfg := (sansCfg_of_frame (pumpFill_frame ..)).trans (pumpEngines_sansCfg ..)
  have h2 : b2.frame.sansCfg = b.frame.sansCfg := (sansCfg_of_frame (settleN_frame ..)).trans h1
  have h3 : b3.frame.sansCfg = b.frame.sansCfg :=
    (sansCfg_of_frame (pumpFill_frame ..)).trans ((pumpEngines_sansCfg ..).trans h2)
  rw [lowerIdle_frame, drainHold_frame, endDrains_frame, dormFlush_frame, h3]

/-- Settling leaves the frame of the block alone where no POND_REBUILD is in progress. -/
theorem settle_frame (b : Block) (hn : b.noRebuild = true) : b.settle.frame = b.frame := by
  unfold Block.settle
  extract_lets b1 b2 b3
  have h1 : b1.frame = b.frame := (pumpFill_frame ..).trans (pumpEngines_frame _ _ hn)
  have h2 : b2.frame = b.frame := (settleN_frame ..).trans h1
  have hn2 : b2.noRebuild = true := by rw [noRebuild_of_frame (sansCfg_of_frame h2), hn]
  have h3 : b3.frame = b.frame := (pumpFill_frame ..).trans ((pumpEngines_frame _ _ hn2).trans h2)
  rw [lowerIdle_frame, drainHold_frame, endDrains_frame, dormFlush_frame, h3]

/-! ### A block that rests -/

theorem findSome_none {α β : Type} (l : List α) (f : α → Option β) (h : ∀ x ∈ l, f x = none) : l.findSome? f = none := by
  induction l with
  | nil => rfl
  | cons x l ih =>
    rw [List.findSome?_cons, h x (by simp)]
    exact ih (fun y hy => h y (List.mem_cons_of_mem _ hy))

theorem chan_mem_or (b : Block) (c : Nat) : b.chan c ∈ b.chans ∨ b.chan c = {} := by
  unfold Block.chan
  by_cases h : c < b.chans.length
  · left
    simp [List.getD_eq_getElem?_getD, h]
  · right
    simp [List.getD_eq_getElem?_getD, List.getElem?_eq_none (Nat.le_of_not_lt h)]

theorem queue_mem_or (ch : Chan) (q : Nat) : ch.queue q ∈ ch.queues ∨ ch.queue q = {} := by
  unfold Chan.queue
  by_cases h : q < ch.queues.length
  · left
    simp [List.getD_eq_getElem?_getD, h]
  · right
    simp [List.getD_eq_getElem?_getD, List.getElem?_eq_none (Nat.le_of_not_lt h)]

theorem releaseReq_none (b : Block) (h : b.reqs.all Req.waitsNot = true) : b.releaseReq = none := by
  refine findSome_none _ _ (fun r hr => ?_)
  have hw := List.all_eq_true.1 h r hr
  cases hs : r.stage <;> simp_all [Req.waitsNot]

/-- Settling does nothing to a block that rests. -/
theorem opStep_none (b : Block) (o : LongOp) (h : selfRunning.contains o.pkt.opcode.toNat = false) : b.opStep o = none := by
  unfold Block.opStep
  split <;> rename_i he <;> first | (rw [he] at h; exact absurd h (by decide)) | rfl

theorem settle_of_resting (b : Block) (h : b.resting = true) : b.settle = b := by
  simp only [Block.resting, Bool.and_eq_true, List.all_eq_true, List.isEmpty_iff, Option.isNone_iff_eq_none,
    Bool.not_eq_true'] at h
  obtain ⟨⟨⟨⟨⟨⟨⟨⟨⟨hch, hops⟩, hrl⟩, htf⟩, hj⟩, hr⟩, hd⟩, hp⟩, hh⟩, hv⟩ := h
  have hcopy : ∀ c, (b.chan c).copy = none := by
    intro c
    rcases chan_mem_or b c with hc | hc
    · exact (hch _ hc).1
    · rw [hc]
  have hrel : ∀ c q, ((b.chan c).queue q).released = none := by
    intro c q
    rcases queue_mem_or (b.chan c) q with hq | hq
    · rcases chan_mem_or b c with hc | hc
      · exact (hch _ hc).2 _ hq
      · rw [hc] at hq ⊢
        revert hq
        simp only [Chan.queue]
        intro hq
        rcases q with _ | _ | q <;> rfl
    · rw [hq]; rfl
  have he : ∀ n, b.pumpEngines n = b := by
    intro n
    cases n with
    | zero => rfl
    | succ n =>
      have : b.engineStep = none := by
        unfold Block.engineStep
        rw [findSome_none _ _ (fun c _ => by simp [Block.copyStep, hcopy c])]
        rw [findSome_none _ _ (fun o ho => opStep_none b o (hops o ho))]
        simp [Block.relockStep, hrl]
      simp [Block.pumpEngines, this]
  have hf : ∀ n, b.pumpFill n = b := by
    intro n
    cases n with
    | zero => rfl
    | succ n => simp [Block.pumpFill, Block.tileStep, htf, hj]
  have hsn : ∀ n, b.settleN n = b := by
    intro n
    cases n with
    | zero => rfl
    | succ n =>
      have h1 : b.releaseReq = none := releaseReq_none b (List.all_eq_true.2 hr)
      have h2 : b.releaseOne = none :=
        findSome_none _ _ (fun c _ => findSome_none _ _ (fun q _ => by simp [hrel c q]))
      simp [Block.settleN, h1, h2]
  have hdf : b.dormFlush = b := by
    unfold Block.dormFlush
    split
    · rename_i hx
      rw [hx] at hd
      cases hd
    · rfl
  have hed : b.endDrains = b := by
    unfold Block.endDrains
    have : ∀ (l : Tab PondRt) (x : Block), (∀ e ∈ l, e.2.draining = []) →
        l.foldl (fun (b : Block) e =>
          (e.2.draining.filter (fun d => b.drained e.1 d.1)).foldl (fun (b : Block) d =>
            (b.modPond e.1 (fun r => { r with draining := r.draining.filter (fun x => !(x == d)) })).emitPond 0x73
              (encFields [(1, e.1), (4, sat32 ((b.clk.ns - d.2) / 1000))]) none) b) x = x := by
      intro l
      induction l with
      | nil => intros; rfl
      | cons e l ih =>
        intro x hl
        rw [List.foldl_cons, hl e (by simp)]
        exact ih x (fun e he => hl e (List.mem_cons_of_mem _ he))
    exact this _ _ hp
  have hdh : b.drainHold = b := by
    unfold Block.drainHold
    simp only [hh, List.foldl_nil]
    rw [← hh]
  have hli : b.lowerIdle = b := by
    unfold Block.lowerIdle
    split
    · rename_i hs
      have hv : ∀ n ∈ b.inlets, n.reqVoid = false := by
        simp only [Bool.and_eq_true] at hs
        simpa [hs.1] using hv
      have : ∀ (l : List Inlet) (k : Nat), (∀ n ∈ l, n.reqVoid = false) → (l.zipIdx k).map (fun e =>
          if e.1.reqVoid && !(b.reqs.any (fun r => r.inlet.map (·.val) == some e.2)) then
            { e.1 with reqVoid := false, reqCred := 512 } else e.1) = l := by
        intro l
        induction l with
        | nil => intros; rfl
        | cons n l ih =>
          intro k hl
          rw [List.zipIdx_cons, List.map_cons, ih (k + 1) (fun n hn => hl n (List.mem_cons_of_mem _ hn))]
          simp [hl n (by simp)]
      rw [this b.inlets 0 hv]
    · rfl
  simp only [Block.settle, he, hf, hsn, hdf, hed, hdh, hli]

end Sys2Proof.Machine
end

