-- ==== Sys2Proof/Laws/State.lean ====
section
/-! SUPPORT. One lemma for each accessor and update of the state, and what `run`, `does` and a resting block come to. -/

namespace Sys2Proof.Machine

/-! ### Channels, inlets, slots, ponds -/

theorem getD_modify_self {α : Type} (l : List α) (i : Nat) (g : α → α) (d : α) (h : i < l.length) :
    (l.modify i g).getD i d = g (l.getD i d) := by
  simp [List.getD_eq_getElem?_getD, h]

theorem getD_modify_ne {α : Type} (l : List α) (i j : Nat) (g : α → α) (d : α) (h : i ≠ j) :
    (l.modify i g).getD j d = l.getD j d := by
  simp [List.getD_eq_getElem?_getD, h]

theorem chan_modChan_self (b : Block) (c : Nat) (g : Chan → Chan) (h : c < b.chans.length) : (b.modChan c g).chan c = g (b.chan c) :=
  getD_modify_self b.chans c g {} h

theorem chan_modChan_ne (b : Block) (c k : Nat) (g : Chan → Chan) (h : c ≠ k) : (b.modChan c g).chan k = b.chan k :=
  getD_modify_ne b.chans c k g {} h

theorem inlet_modInlet_self (b : Block) (i : Nat) (g : Inlet → Inlet) (h : i < b.inlets.length) :
    (b.modInlet i g).inlet i = g (b.inlet i) := getD_modify_self b.inlets i g {} h

theorem inlet_modInlet_ne (b : Block) (i k : Nat) (g : Inlet → Inlet) (h : i ≠ k) : (b.modInlet i g).inlet k = b.inlet k :=
  getD_modify_ne b.inlets i k g {} h

theorem queue_modQueue_self (ch : Chan) (q : Nat) (g : Queue → Queue) (h : q < ch.queues.length) :
    (ch.modQueue q g).queue q = g (ch.queue q) := getD_modify_self ch.queues q g {} h

theorem queue_modQueue_ne (ch : Chan) (q k : Nat) (g : Queue → Queue) (h : q ≠ k) : (ch.modQueue q g).queue k = ch.queue k :=
  getD_modify_ne ch.queues q k g {} h

@[simp] theorem modChan_inlets (b : Block) (c : Nat) (g : Chan → Chan) : (b.modChan c g).inlets = b.inlets := rfl
@[simp] theorem modChan_cfg (b : Block) (c : Nat) (g : Chan → Chan) : (b.modChan c g).cfg = b.cfg := rfl
@[simp] theorem modChan_reqs (b : Block) (c : Nat) (g : Chan → Chan) : (b.modChan c g).reqs = b.reqs := rfl
@[simp] theorem modChan_clk (b : Block) (c : Nat) (g : Chan → Chan) : (b.modChan c g).clk = b.clk := rfl
@[simp] theorem modChan_mode (b : Block) (c : Nat) (g : Chan → Chan) : (b.modChan c g).mode = b.mode := rfl
@[simp] theorem modChan_f (b : Block) (c : Nat) (g : Chan → Chan) (i n k : Nat) : (b.modChan c g).f i n k = b.f i n k := rfl
@[simp] theorem modInlet_chans (b : Block) (i : Nat) (g : Inlet → Inlet) : (b.modInlet i g).chans = b.chans := rfl
@[simp] theorem modInlet_reqs (b : Block) (i : Nat) (g : Inlet → Inlet) : (b.modInlet i g).reqs = b.reqs := rfl
@[simp] theorem modInlet_mode (b : Block) (i : Nat) (g : Inlet → Inlet) : (b.modInlet i g).mode = b.mode := rfl
@[simp] theorem modInlet_pkts (b : Block) (i : Nat) (g : Inlet → Inlet) : (b.modInlet i g).pkts = b.pkts := rfl
@[simp] theorem modInlet_clk (b : Block) (i : Nat) (g : Inlet → Inlet) : (b.modInlet i g).clk = b.clk := rfl

/-! ### Outcomes -/

theorem run_next (s : State) (g : Block → Block) : s.run g = .next { s with blk := g s.blk } := rfl

theorem does_next (s : State) (g : Block → Block) : s.does g = .next { s with blk := (g s.blk).settle } := rfl

theorem does_resting (s : State) (g : Block → Block) (h : (g s.blk).resting = true) : s.does g = .next { s with blk := g s.blk } := by
  rw [does_next, settle_of_resting _ h]

/-! ### What an event leaves alone -/

@[simp] theorem event_clk (b : Block) (code : Nat) (l : List (Nat × Nat)) : (b.event code l).clk = b.clk :=
  (congrArg Block.clk (event_sansLog b code l) :)
@[simp] theorem event_pins (b : Block) (code : Nat) (l : List (Nat × Nat)) : (b.event code l).pins = b.pins :=
  (congrArg Block.pins (event_sansLog b code l) :)
@[simp] theorem event_net (b : Block) (code : Nat) (l : List (Nat × Nat)) : (b.event code l).net = b.net :=
  (congrArg Block.net (event_sansLog b code l) :)
@[simp] theorem event_mode (b : Block) (code : Nat) (l : List (Nat × Nat)) : (b.event code l).mode = b.mode :=
  (congrArg Block.mode (event_sansLog b code l) :)
@[simp] theorem event_drain (b : Block) (code : Nat) (l : List (Nat × Nat)) : (b.event code l).drain = b.drain :=
  (congrArg Block.drain (event_sansLog b code l) :)
@[simp] theorem event_lc (b : Block) (code : Nat) (l : List (Nat × Nat)) : (b.event code l).lc = b.lc :=
  (congrArg Block.lc (event_sansLog b code l) :)
@[simp] theorem event_boot (b : Block) (code : Nat) (l : List (Nat × Nat)) : (b.event code l).boot = b.boot :=
  (congrArg Block.boot (event_sansLog b code l) :)
@[simp] theorem event_dbg (b : Block) (code : Nat) (l : List (Nat × Nat)) : (b.event code l).dbg = b.dbg :=
  (congrArg Block.dbg (event_sansLog b code l) :)
@[simp] theorem event_slots (b : Block) (code : Nat) (l : List (Nat × Nat)) : (b.event code l).slots = b.slots :=
  (congrArg Block.slots (event_sansLog b code l) :)
@[simp] theorem event_reqs (b : Block) (code : Nat) (l : List (Nat × Nat)) : (b.event code l).reqs = b.reqs :=
  (congrArg Block.reqs (event_sansLog b code l) :)
@[simp] theorem event_nextId (b : Block) (code : Nat) (l : List (Nat × Nat)) : (b.event code l).nextId = b.nextId :=
  (congrArg Block.nextId (event_sansLog b code l) :)
@[simp] theorem event_chans (b : Block) (code : Nat) (l : List (Nat × Nat)) : (b.event code l).chans = b.chans :=
  (congrArg Block.chans (event_sansLog b code l) :)
@[simp] theorem event_ponds (b : Block) (code : Nat) (l : List (Nat × Nat)) : (b.event code l).ponds = b.ponds :=
  (congrArg Block.ponds (event_sansLog b code l) :)
@[simp] theorem event_tiles (b : Block) (code : Nat) (l : List (Nat × Nat)) : (b.event code l).tiles = b.tiles :=
  (congrArg Block.tiles (event_sansLog b code l) :)
@[simp] theorem event_tileFills (b : Block) (code : Nat) (l : List (Nat × Nat)) : (b.event code l).tileFills = b.tileFills :=
  (congrArg Block.tileFills (event_sansLog b code l) :)
@[simp] theorem event_tileWait (b : Block) (code : Nat) (l : List (Nat × Nat)) : (b.event code l).tileWait = b.tileWait :=
  (congrArg Block.tileWait (event_sansLog b code l) :)
@[simp] theorem event_jobs (b : Block) (code : Nat) (l : List (Nat × Nat)) : (b.event code l).jobs = b.jobs :=
  (congrArg Block.jobs (event_sansLog b code l) :)
@[simp] theorem event_dredge (b : Block) (code : Nat) (l : List (Nat × Nat)) : (b.event code l).dredge = b.dredge :=
  (congrArg Block.dredge (event_sansLog b code l) :)
@[simp] theorem event_poisonPending (b : Block) (code : Nat) (l : List (Nat × Nat)) : (b.event code l).poisonPending = b.poisonPending :=
  (congrArg Block.poisonPending (event_sansLog b code l) :)
@[simp] theorem event_cache (b : Block) (code : Nat) (l : List (Nat × Nat)) : (b.event code l).cache = b.cache :=
  (congrArg Block.cache (event_sansLog b code l) :)
@[simp] theorem event_preloads (b : Block) (code : Nat) (l : List (Nat × Nat)) : (b.event code l).preloads = b.preloads :=
  (congrArg Block.preloads (event_sansLog b code l) :)
@[simp] theorem event_keys (b : Block) (code : Nat) (l : List (Nat × Nat)) : (b.event code l).keys = b.keys :=
  (congrArg Block.keys (event_sansLog b code l) :)
@[simp] theorem event_cfg (b : Block) (code : Nat) (l : List (Nat × Nat)) : (b.event code l).cfg = b.cfg :=
  (congrArg Block.cfg (event_sansLog b code l) :)
@[simp] theorem event_sluice (b : Block) (code : Nat) (l : List (Nat × Nat)) : (b.event code l).sluice = b.sluice :=
  (congrArg Block.sluice (event_sansLog b code l) :)
@[simp] theorem event_restore (b : Block) (code : Nat) (l : List (Nat × Nat)) : (b.event code l).restore = b.restore :=
  (congrArg Block.restore (event_sansLog b code l) :)
@[simp] theorem event_report (b : Block) (code : Nat) (l : List (Nat × Nat)) : (b.event code l).report = b.report :=
  (congrArg Block.report (event_sansLog b code l) :)
@[simp] theorem event_ids (b : Block) (code : Nat) (l : List (Nat × Nat)) : (b.event code l).ids = b.ids :=
  (congrArg Block.ids (event_sansLog b code l) :)
@[simp] theorem event_spares (b : Block) (code : Nat) (l : List (Nat × Nat)) : (b.event code l).spares = b.spares :=
  (congrArg Block.spares (event_sansLog b code l) :)
@[simp] theorem event_ret (b : Block) (code : Nat) (l : List (Nat × Nat)) : (b.event code l).ret = b.ret :=
  (congrArg Block.ret (event_sansLog b code l) :)
@[simp] theorem event_dorm (b : Block) (code : Nat) (l : List (Nat × Nat)) : (b.event code l).dorm = b.dorm :=
  (congrArg Block.dorm (event_sansLog b code l) :)
@[simp] theorem event_wipe (b : Block) (code : Nat) (l : List (Nat × Nat)) : (b.event code l).wipe = b.wipe :=
  (congrArg Block.wipe (event_sansLog b code l) :)
@[simp] theorem event_tail (b : Block) (code : Nat) (l : List (Nat × Nat)) : (b.event code l).tail = b.tail :=
  (congrArg Block.tail (event_sansLog b code l) :)
@[simp] theorem event_snd (b : Block) (code : Nat) (l : List (Nat × Nat)) : (b.event code l).snd = b.snd :=
  (congrArg Block.snd (event_sansLog b code l) :)
@[simp] theorem event_stat (b : Block) (code : Nat) (l : List (Nat × Nat)) : (b.event code l).stat = b.stat :=
  (congrArg Block.stat (event_sansLog b code l) :)
@[simp] theorem event_free (b : Block) (code : Nat) (l : List (Nat × Nat)) : (b.event code l).free = b.free :=
  (congrArg Block.free (event_sansLog b code l) :)
@[simp] theorem event_f (b : Block) (code : Nat) (l : List (Nat × Nat)) (i n k : Nat) : (b.event code l).f i n k = b.f i n k := by
  simp [Block.f]
@[simp] theorem event_chan (b : Block) (code : Nat) (l : List (Nat × Nat)) (c : Nat) : (b.event code l).chan c = b.chan c := by
  simp [Block.chan]
@[simp] theorem event_slot (b : Block) (code : Nat) (l : List (Nat × Nat)) (k : Nat) : (b.event code l).slot k = b.slot k := by
  simp [Block.slot]
@[simp] theorem event_queue (b : Block) (code : Nat) (l : List (Nat × Nat)) : (b.event code l).pkts.queue = b.pkts.queue :=
  (congrArg (fun x : Block => x.pkts.queue) (event_sansLog b code l) :)
@[simp] theorem event_ops (b : Block) (code : Nat) (l : List (Nat × Nat)) : (b.event code l).pkts.ops = b.pkts.ops :=
  (congrArg (fun x : Block => x.pkts.ops) (event_sansLog b code l) :)
@[simp] theorem event_replies (b : Block) (code : Nat) (l : List (Nat × Nat)) : (b.event code l).pkts.replies = b.pkts.replies :=
  (congrArg (fun x : Block => x.pkts.replies) (event_sansLog b code l) :)
@[simp] theorem event_replyLevel (b : Block) (code : Nat) (l : List (Nat × Nat)) (src : Src) (rq : Nat) :
    (b.event code l).replyLevel src rq = b.replyLevel src rq := by
  cases src <;> simp [Block.replyLevel]

/-! ### Resting blocks -/

/-- What `resting` reads, less the inlets. -/
theorem resting_congr {b b' : Block} (h1 : b'.chans = b.chans) (h2 : b'.pkts.ops = b.pkts.ops) (h3 : b'.cache = b.cache)
    (h4 : b'.tileFills = b.tileFills) (h5 : b'.jobs = b.jobs) (h6 : b'.reqs = b.reqs) (h7 : b'.dorm = b.dorm)
    (h8 : b'.ponds = b.ponds) (h9 : b'.snd = b.snd) (h10 : b'.mode = b.mode)
    (h11 : b'.inlets.map Inlet.reqVoid = b.inlets.map Inlet.reqVoid) : b'.resting = b.resting := by
  have e : ∀ (l : List Inlet), l.all (fun n => !n.reqVoid) = (l.map Inlet.reqVoid).all (fun x => !x) := by
    intro l; simp [List.all_map, Function.comp_def]
  simp only [Block.resting, Block.serving, h1, h2, h3, h4, h5, h6, h7, h8, h9, h10, e, h11]

theorem resting_of_sansLog {b b' : Block} (h : b'.sansLog = b.sansLog) : b'.resting = b.resting := by
  have hi := congrArg Block.inlets h
  have hv : b'.inlets.map Inlet.reqVoid = b.inlets.map Inlet.reqVoid := by
    have := congrArg (List.map Inlet.reqVoid) hi
    simpa [Block.sansLog, Function.comp_def, Inlet.sansDropped] using this
  have hp : b'.sansLog.pkts.ops = b.sansLog.pkts.ops := by rw [h]
  exact resting_congr (congrArg Block.chans h :) hp (congrArg Block.cache h :) (congrArg Block.tileFills h :)
    (congrArg Block.jobs h :) (congrArg Block.reqs h :) (congrArg Block.dorm h :) (congrArg Block.ponds h :)
    (congrArg Block.snd h :) (congrArg Block.mode h :) hv

@[simp] theorem event_resting (b : Block) (code : Nat) (fields : List (Nat × Nat)) : (b.event code fields).resting = b.resting :=
  resting_of_sansLog (event_sansLog b code fields)

@[simp] theorem count_resting (b : Block) (ev : Nat) (cls rq : Option Nat) (n : Nat) : (b.count ev cls rq n).resting = b.resting :=
  resting_of_sansLog (count_sansLog b ev cls rq n)

@[simp] theorem countC_resting (b : Block) (c ev : Nat) (cls rq sc : Option Nat) (n : Nat) :
    (b.countC c ev cls rq sc n).resting = b.resting := resting_of_sansLog (countC_sansLog b c ev cls rq sc n)

theorem modInlet_resting (b : Block) (i : Nat) (g : Inlet → Inlet) (h : ∀ n, (g n).reqVoid = n.reqVoid) :
    (b.modInlet i g).resting = b.resting :=
  resting_congr rfl rfl rfl rfl rfl rfl rfl rfl rfl rfl (map_modify Inlet.reqVoid g h b.inlets i)

/-- A channel that keeps its copier and its queues leaves the block as restful as it was. -/
theorem modChan_resting (b : Block) (c : Nat) (g : Chan → Chan) (h : ∀ ch, (g ch).copy = ch.copy ∧ (g ch).queues = ch.queues) :
    (b.modChan c g).resting = b.resting := by
  have e : (b.modChan c g).chans.map (fun ch => (ch.copy, ch.queues)) = b.chans.map (fun ch => (ch.copy, ch.queues)) :=
    map_modify (fun ch : Chan => (ch.copy, ch.queues)) g (fun ch => by rw [(h ch).1, (h ch).2]) b.chans c
  have e2 : ∀ l : List Chan, l.all (fun ch => ch.copy.isNone && ch.queues.all (fun k => k.released.isNone)) =
      (l.map (fun ch => (ch.copy, ch.queues))).all (fun x => x.1.isNone && x.2.all (fun k => k.released.isNone)) := by
    intro l; simp [List.all_map, Function.comp_def]
  have e3 : (b.modChan c g).chans.all (fun ch => ch.copy.isNone && ch.queues.all (fun k => k.released.isNone)) =
      b.chans.all (fun ch => ch.copy.isNone && ch.queues.all (fun k => k.released.isNone)) := by rw [e2, e2, e]
  unfold Block.resting
  rw [e3]
  rfl

end Sys2Proof.Machine
end

