-- ==== Sys2Proof/Laws/Packets.lean ====
section
/-! SUPPORT. A packet that is next and passes its checks is executed on the block it has been taken from, and what replies change. -/

namespace Sys2Proof.Machine

theorem settle_settlesTo (e : Block) : e.settlesTo e.settle := ⟨settle_sansCfg e, settle_frame e, settle_of_resting e⟩

theorem does_settlesTo (s : State) (g : Block → Block) : ∃ b, s.does g = .next { s with blk := b } ∧ (g s.blk).settlesTo b :=
  ⟨_, rfl, settle_settlesTo _⟩

theorem dequeue_passes (b : Block) (q : QPkt) (h : b.passes q = true) (act : Block → Src → Packet → Block) :
    (b.dequeue q).check q act = act (b.dequeue q) q.src q.pkt := by
  simp only [Block.passes, Bool.and_eq_true, Bool.not_eq_true', beq_iff_eq] at h
  obtain ⟨⟨hp, hf⟩, hk⟩ := h
  have hf' : (b.dequeue q).framing q = 0 := hf
  unfold Block.check
  extract_lets p rq op head d
  have hd : d = 0 := hf'
  have hpb : q.parityBad = false := hp
  simp only [hpb, hd]
  cases hi : opInfo op with
  | none =>
    have hi' : opInfo q.pkt.opcode.toNat = none := hi
    rw [hi'] at hk
    cases hk
  | some k =>
    have hi' : opInfo q.pkt.opcode.toNat = some k := hi
    rw [hi'] at hk
    simp only [Bool.and_eq_true, Bool.or_eq_true, beq_iff_eq, decide_eq_true_eq, Bool.not_eq_true'] at hk
    obtain ⟨⟨⟨h1, h2⟩, h3⟩, h4⟩ := hk
    have h2' : (b.dequeue q).privileged q k.priv = true := h2
    have h4' : (b.dequeue q).blocked q.src p = false := h4
    have hl : (!(op == 0x01) && decide ((b.dequeue q).senderLevel q < k.level)) = false := by
      rcases h1 with h1 | h1
      · have : op = 1 := by simp only [op, p, h1]; rfl
        simp [this]
      · have : ¬ ((b.dequeue q).senderLevel q < k.level) := Nat.not_lt.2 h1
        simp [this]
    have h3' : k.modes.contains (if (b.dequeue q).drain then 6 else (b.dequeue q).mode.code) = true := h3
    simp only [hl, h2', h3', h4']
    rfl

theorem packet_of_clears (b : Block) (src : Src) (p : Packet) (act : Block → Src → Packet → Block) (h : b.clears src p = true) :
    b.packet src p act = act (b.taken src p) src p := by
  simp only [Block.clears, Bool.and_eq_true, Bool.not_eq_true', beq_eq_false_iff_ne] at h
  obtain ⟨hm, hq⟩ := h
  unfold Block.packet
  rw [if_neg (by simpa using hm)]
  change (match (b.offered src p).nextPacket with
    | none => b.offered src p
    | some q => if q.src == src && q.pkt == p then ((b.offered src p).dequeue q).check q act else b.offered src p) = _
  unfold Block.taken
  cases hn : (b.offered src p).nextPacket with
  | none => rw [hn] at hq; cases hq
  | some q =>
    rw [hn] at hq
    simp only [Bool.and_eq_true] at hq
    obtain ⟨⟨h1, h2⟩, h3⟩ := hq
    simp only [h1, h2, Bool.and_self, if_true]
    rw [dequeue_passes _ q h3 act]
    rw [beq_iff_eq] at h1 h2
    rw [h1, h2]

/-- A packet command whose packet is executed. -/
theorem packet_settles (s : State) (op : Nat) (src : Src) (p : Packet) (act : Block → Src → Packet → Block)
    (ho : p.opcode = BitVec.ofNat 8 op) (h : s.blk.clears src p = true) :
    ∃ b, s.packet op src p act = .next { s with blk := b } ∧ (act (s.blk.taken src p) src p).settlesTo b := by
  have hp : ({ p with opcode := BitVec.ofNat 8 op } : Packet) = p := by rw [← ho]
  unfold State.packet
  rw [hp, ← packet_of_clears s.blk src p act h]
  exact does_settlesTo s _

theorem Block.settlesTo.mode_eq {e b : Block} (h : e.settlesTo b) : b.mode = e.mode := congrArg (fun x : Frame => x.rest.mode) h.1
theorem Block.settlesTo.drain_eq {e b : Block} (h : e.settlesTo b) : b.drain = e.drain := congrArg (fun x : Frame => x.rest.drain) h.1
theorem Block.settlesTo.dorm_eq {e b : Block} (h : e.settlesTo b) : b.dorm = e.dorm := congrArg (fun x : Frame => x.rest.dorm) h.1
theorem Block.settlesTo.clk_eq {e b : Block} (h : e.settlesTo b) : b.clk = e.clk := congrArg (fun x : Frame => x.rest.clk) h.1
theorem Block.settlesTo.keys_eq {e b : Block} (h : e.settlesTo b) : b.keys = e.keys := congrArg (fun x : Frame => x.rest.keys) h.1
theorem Block.settlesTo.lc_eq {e b : Block} (h : e.settlesTo b) : b.lc = e.lc := congrArg (fun x : Frame => x.rest.lc) h.1
theorem Block.settlesTo.sluice_eq {e b : Block} (h : e.settlesTo b) : b.sluice = e.sluice := congrArg (fun x : Frame => x.rest.sluice) h.1
theorem Block.settlesTo.pins_eq {e b : Block} (h : e.settlesTo b) : b.pins = e.pins := congrArg (fun x : Frame => x.rest.pins) h.1
theorem Block.settlesTo.boot_eq {e b : Block} (h : e.settlesTo b) : b.boot = e.boot := congrArg (fun x : Frame => x.rest.boot) h.1
theorem Block.settlesTo.restore_eq {e b : Block} (h : e.settlesTo b) : b.restore = e.restore := congrArg (fun x : Frame => x.rest.restore) h.1
theorem Block.settlesTo.net_eq {e b : Block} (h : e.settlesTo b) : b.net = e.net := congrArg (fun x : Frame => x.rest.net) h.1
theorem Block.settlesTo.stat_eq {e b : Block} (h : e.settlesTo b) : b.stat = e.stat := congrArg (fun x : Frame => x.rest.stat) h.1
theorem Block.settlesTo.ret_eq {e b : Block} (h : e.settlesTo b) : b.ret = e.ret := congrArg (fun x : Frame => x.rest.ret) h.1
theorem Block.settlesTo.tail_eq {e b : Block} (h : e.settlesTo b) : b.tail = e.tail := congrArg (fun x : Frame => x.rest.tail) h.1
theorem Block.settlesTo.wipe_eq {e b : Block} (h : e.settlesTo b) : b.wipe = e.wipe := congrArg (fun x : Frame => x.rest.wipe) h.1
theorem Block.settlesTo.report_eq {e b : Block} (h : e.settlesTo b) : b.report = e.report := congrArg (fun x : Frame => x.rest.report) h.1
theorem Block.settlesTo.ids_eq {e b : Block} (h : e.settlesTo b) : b.ids = e.ids := congrArg (fun x : Frame => x.rest.ids) h.1
theorem Block.settlesTo.spares_eq {e b : Block} (h : e.settlesTo b) : b.spares = e.spares := congrArg (fun x : Frame => x.rest.spares) h.1
theorem Block.settlesTo.queue_eq {e b : Block} (h : e.settlesTo b) : b.pkts.queue = e.pkts.queue := congrArg (fun x : Frame => x.rest.pkts.queue) h.1
theorem Block.settlesTo.replies_eq {e b : Block} (h : e.settlesTo b) : b.pkts.replies = e.pkts.replies := congrArg (fun x : Frame => x.rest.pkts.replies) h.1
theorem Block.settlesTo.txns_eq {e b : Block} (h : e.settlesTo b) : b.pkts.txns = e.pkts.txns := congrArg (fun x : Frame => x.rest.pkts.txns) h.1
theorem Block.settlesTo.detachers_eq {e b : Block} (h : e.settlesTo b) : b.pkts.detachers = e.pkts.detachers := congrArg (fun x : Frame => x.rest.pkts.detachers) h.1
theorem Block.settlesTo.resetDue_eq {e b : Block} (h : e.settlesTo b) : b.pkts.resetDue = e.pkts.resetDue := congrArg (fun x : Frame => x.rest.pkts.resetDue) h.1

theorem Block.settlesTo.chans_eq {e b : Block} (h : e.settlesTo b) : b.chans.map Chan.frame = e.chans.map Chan.frame :=
  congrArg (fun x : Frame => x.rest.chans) h.1

theorem chan_frame_of {l l' : List Chan} (h : l'.map Chan.frame = l.map Chan.frame) (c : Nat) :
    (l'.getD c {}).frame = (l.getD c {}).frame := by
  have := congrArg (fun x => x.getD c ({} : Chan).frame) h
  simpa [List.getD_eq_getElem?_getD, List.getElem?_map, Option.getD_map] using this

theorem Block.settlesTo.chan_eq {e b : Block} (h : e.settlesTo b) (c : Nat) : (b.chan c).frame = (e.chan c).frame :=
  chan_frame_of h.chans_eq c

theorem Block.settlesTo.state_eq {e b : Block} (h : e.settlesTo b) (c : Nat) : (b.chan c).state = (e.chan c).state :=
  (congrArg Chan.state (h.chan_eq c) :)

theorem Block.settlesTo.inlets_eq {e b : Block} (h : e.settlesTo b) : b.inlets.map Inlet.frame = e.inlets.map Inlet.frame :=
  congrArg (fun x : Frame => x.rest.inlets) h.1

theorem Block.settlesTo.voids_eq {e b : Block} (h : e.settlesTo b) : b.inlets.map Inlet.cmdVoid = e.inlets.map Inlet.cmdVoid := by
  have := congrArg (List.map Inlet.cmdVoid) h.inlets_eq
  simpa [Function.comp_def, Inlet.frame] using this

/-! ### Replies -/

/-- A reply that is put in line changes the replies and the counters alone. -/
theorem pushReply_only (b : Block) (src : Src) (p : Packet) (busy : Bool) (objs : List Nat) :
    ∃ c, b.pushReply src p busy objs =
      { b with ctr := c, pkts := { b.pkts with replies := b.pkts.replies ++ [⟨src, p, busy, objs⟩] } } := by
  obtain ⟨c, h⟩ : ∃ c, (if busy = true then (b.count 0x10 none (some p.requester.toNat) 1).count 0x11 none (some p.requester.toNat) 1
      else b.count 0x10 none (some p.requester.toNat) 1) = { b with ctr := c } := by
    obtain ⟨c1, h1⟩ := count_only b 0x10 none (some p.requester.toNat) 1
    split
    · obtain ⟨c2, h2⟩ := count_only (b.count 0x10 none (some p.requester.toNat) 1) 0x11 none (some p.requester.toNat) 1
      exact ⟨c2, by rw [h2, h1]⟩
    · exact ⟨c1, h1⟩
  exact ⟨c, congrArg (fun x : Block => ({ x with pkts := { x.pkts with replies := x.pkts.replies ++ [⟨src, p, busy, objs⟩] } } : Block)) h⟩

theorem replyHold_only (b : Block) (src : Src) (p : Packet) (objs : List Nat) (st detail p0 : Nat) (body : List Byte) :
    ∃ c, b.replyHold src p objs st detail p0 body = { b with
      ctr := c
      pkts := { b.pkts with replies := b.pkts.replies ++
        [⟨src, mkReply (b.replyLevel src p.requester.toNat) p st detail p0 body, false, objs⟩] } } :=
  pushReply_only b src _ false objs

theorem reply_only (b : Block) (src : Src) (p : Packet) (st detail p0 : Nat) (body : List Byte) :
    ∃ c, b.reply src p st detail p0 body = { b with
      ctr := c
      pkts := { b.pkts with replies := b.pkts.replies ++
        [⟨src, mkReply (b.replyLevel src p.requester.toNat) p st detail p0 body, false, []⟩] } } :=
  pushReply_only b src _ false []

@[simp] theorem pushReply_resting (b : Block) (src : Src) (p : Packet) (busy : Bool) (objs : List Nat) :
    (b.pushReply src p busy objs).resting = b.resting := by
  obtain ⟨c, h⟩ := pushReply_only b src p busy objs
  rw [h]; rfl

theorem wakeClocks_only (b : Block) : ∃ k d, b.wakeClocks = { b with clk := k, dorm := d } := by
  unfold Block.wakeClocks; split
  · exact ⟨_, _, rfl⟩
  · exact ⟨b.clk, b.dorm, rfl⟩

/-- Taking a packet changes the queue, BUSY replies, the clocks of a sleeping block, and what events change. -/
theorem taken_sansLog (b : Block) (src : Src) (p : Packet) :
    ∃ k d q r, (b.taken src p).sansLog =
      ({ b with clk := k, dorm := d, pkts := { b.pkts with queue := q, replies := r } } : Block).sansLog := by
  have ho : ∃ k d q r, (b.offered src p).sansLog =
      ({ b with clk := k, dorm := d, pkts := { b.pkts with queue := q, replies := r } } : Block).sansLog := by
    unfold Block.offered Block.bring
    split
    · exact ⟨b.clk, b.dorm, b.pkts.queue, b.pkts.replies, rfl⟩
    · extract_lets o
      split
      · unfold Block.arrive
        obtain ⟨k, d, hw⟩ := wakeClocks_only b
        rw [hw]
        extract_lets b0 all b1
        split
        · obtain ⟨c, hc⟩ := pushReply_only b1 src (mkReply (b1.replyLevel src p.requester.toNat) p stBusy 0 1000 []) true []
          rw [hc]
          have e : b1.sansLog = b0.sansLog := event_sansLog b0 _ _
          refine ⟨k, d, b.pkts.queue,
            b1.pkts.replies ++ [⟨src, mkReply (b1.replyLevel src p.requester.toNat) p stBusy 0 1000 [], true, []⟩], ?_⟩
          have e2 := congrArg (fun x : Block => ({ x with pkts := { x.pkts with replies :=
            b1.pkts.replies ++ [⟨src, mkReply (b1.replyLevel src p.requester.toNat) p stBusy 0 1000 [], true, []⟩] } } : Block)) e
          exact e2
        · exact ⟨k, d, _, b.pkts.replies, rfl⟩
      · exact ⟨b.clk, b.dorm, b.pkts.queue, b.pkts.replies, rfl⟩
  unfold Block.taken
  split
  · obtain ⟨k, d, q, r, h⟩ := ho
    rename_i x _
    refine ⟨k, d, ((b.offered src p).dequeue x).pkts.queue, r, ?_⟩
    have e2 := congrArg (fun y : Block => ({ y with pkts := { y.pkts with queue := ((b.offered src p).dequeue x).pkts.queue } } : Block)) h
    exact e2
  · exact ho

/-! ### Arrival (R118) -/

theorem wakeClocks_awake (b : Block) (h : b.mode ≠ .dormant) : b.wakeClocks = b := by
  unfold Block.wakeClocks; rw [if_neg]; simp [h]

/-- A packet of an inlet that finds room takes an entry of the queue. -/
theorem arrive_room (b : Block) (i : Fin 4) (p : Packet) (n : Nat) (bad : Bool) (hd : b.mode ≠ .dormant)
    (ha : b.entries (fun _ => true) < 64) (hi : b.entries (fun x => !(x == .mgmt)) < 60) :
    b.arrive (.inlet i) p n bad =
      { b with pkts := { b.pkts with queue := b.pkts.queue ++ [⟨.inlet i, p, n, bad, b.isLate (.inlet i) p⟩] } } := by
  unfold Block.arrive
  rw [wakeClocks_awake b hd]
  extract_lets b0 all
  rw [if_neg]
  have e : all = b.entries (fun _ => true) := rfl
  have h1 : decide (64 ≤ all) = false := decide_eq_false (by omega)
  have h2 : decide (60 ≤ b.entries (fun x => !(x == .mgmt))) = false := decide_eq_false (by omega)
  rw [h1, h2]; simp

/-- A packet of an inlet that finds no room is answered BUSY. -/
theorem arrive_busy (b : Block) (i : Fin 4) (p : Packet) (n : Nat) (bad : Bool) (hd : b.mode ≠ .dormant)
    (h : 64 ≤ b.entries (fun _ => true) ∨ 60 ≤ b.entries (fun x => !(x == .mgmt))) :
    b.arrive (.inlet i) p n bad =
      (b.event 0x22 [(1, i.val + 1), (1, p.requester.toNat), (1, p.opcode.toNat), (1, b.entries (fun _ => true))]).pushReply
        (.inlet i) (mkReply (b.replyLevel (.inlet i) p.requester.toNat) p stBusy 0 1000 []) true [] := by
  unfold Block.arrive
  rw [wakeClocks_awake b hd]
  extract_lets b0 all b1
  have e : all = b.entries (fun _ => true) := rfl
  rw [if_pos]
  · rw [event_replyLevel]; rfl
  · have hs : (!(Src.inlet i == Src.mgmt)) = true := rfl
    rw [hs]
    rcases h with h | h
    · rw [decide_eq_true (show 64 ≤ all from h)]; simp
    · rw [decide_eq_true h]; simp


end Sys2Proof.Machine
end

