-- ==== Sys2Proof/Laws/Outline.lean ====
section
/-! SUPPORT. What the sluice, the sensors, drift samples and serving entry leave alone. -/

namespace Sys2Proof.Machine

/-- Modes, pins, keys, life cycle, restore, image, packets and the states of the channels. -/
structure Outline where
  mode : Mode
  drain : Bool
  lc : Lc
  keys : List (BitVec 128)
  dorm : Dorm
  pins : Pins
  boot : Boot
  restore : Restore
  ret : Option Image
  ids : List DimmId
  spares : List SpareRec
  reqs : List Req
  ops : List LongOp
  queue : List QPkt
  replies : List Reply
  wipe : Option Wipe
  tail : Option Tail
  states : List Nat
  voids : List (Bool × Nat)

/-- The outline of a block. -/
def Block.outline (b : Block) : Outline :=
  { mode := b.mode, drain := b.drain, lc := b.lc, keys := b.keys, dorm := b.dorm, pins := b.pins, boot := b.boot, restore := b.restore,
    ret := b.ret, ids := b.ids, spares := b.spares, reqs := b.reqs, ops := b.pkts.ops, queue := b.pkts.queue, replies := b.pkts.replies,
    wipe := b.wipe, tail := b.tail, states := b.chans.map Chan.state, voids := b.inlets.map (fun n => (n.cmdVoid, n.cmdCred)) }

theorem outline_of_sansLog {b b' : Block} (h : b'.sansLog = b.sansLog) : b'.outline = b.outline := by
  have hi := congrArg Block.inlets h
  have hv : b'.inlets.map (fun n => (n.cmdVoid, n.cmdCred)) = b.inlets.map (fun n => (n.cmdVoid, n.cmdCred)) := by
    have := congrArg (List.map (fun n : Inlet => (n.cmdVoid, n.cmdCred))) hi
    simpa [Block.sansLog, Function.comp_def, Inlet.sansDropped] using this
  have e : b'.sansLog.outline = b.sansLog.outline := by rw [h]
  have e1 : ∀ x : Block, x.outline = { x.sansLog.outline with voids := x.inlets.map (fun n => (n.cmdVoid, n.cmdCred)) } := fun x => rfl
  rw [e1 b', e1 b, e, hv]

@[simp] theorem event_outline (b : Block) (code : Nat) (l : List (Nat × Nat)) : (b.event code l).outline = b.outline :=
  outline_of_sansLog (event_sansLog b code l)

theorem modChan_outline (b : Block) (c : Nat) (g : Chan → Chan) (h : ∀ ch, (g ch).state = ch.state) : (b.modChan c g).outline = b.outline := by
  have : (b.modChan c g).chans.map Chan.state = b.chans.map Chan.state := map_modify Chan.state g h b.chans c
  have e1 : ∀ x : Block, x.outline = { ({ x with chans := [] } : Block).outline with states := x.chans.map Chan.state } := fun x => rfl
  rw [e1 (b.modChan c g), e1 b, this]; rfl

theorem foldl_outline {α : Type} (g : Block → α → Block) (h : ∀ b x, (g b x).outline = b.outline) (l : List α) (b : Block) :
    (l.foldl g b).outline = b.outline := foldl_keeps Block.outline g h l b

@[simp] theorem setF_outline (b : Block) (i n k v : Nat) : (b.setF i n k v).outline = b.outline := rfl

@[simp] theorem lateCause_outline (b : Block) (n : Nat) : (b.lateCause n).outline = b.outline := by
  have : (b.lateCause n).chans.map Chan.state = b.chans.map Chan.state := by
    simp [Block.lateCause, Function.comp_def]
  have e1 : ∀ x : Block, x.outline = { ({ x with chans := [] } : Block).outline with states := x.chans.map Chan.state } := fun x => rfl
  rw [e1 (b.lateCause n), e1 b, this]; rfl

@[simp] theorem realignChans_outline (b : Block) (mask : Nat) : (b.realignChans mask).outline = b.outline := by
  unfold Block.realignChans
  extract_lets cs lost won b1 bits b2
  have h1 : b1.outline = b.outline := by
    refine foldl_outline _ ?_ cs b
    intro x c
    exact modChan_outline x c _ (fun ch => rfl)
  have h2 : b2.outline = b.outline := by
    show (if lost.isEmpty = true then b1 else _).outline = _
    split
    · exact h1
    · rw [event_outline, h1]
  split
  · exact h2
  · rw [event_outline, h2]

@[simp] theorem rearm_outline (b : Block) (now : Int) (st : Bool) : (b.rearm now st).outline = b.outline := by
  unfold Block.rearm
  extract_lets
  split
  · unfold Block.armList
    extract_lets want a b1
    split
    · rw [event_outline]; rfl
    · rfl
  · rfl

@[simp] theorem sluiceStarted_outline (b : Block) : b.sluiceStarted.outline = b.outline := by
  unfold Block.sluiceStarted; simp

@[simp] theorem startSluice_outline (b : Block) : b.startSluice.outline = b.outline := rfl

@[simp] theorem stopSluice_outline (b : Block) : b.stopSluice.outline = b.outline := by
  unfold Block.stopSluice; rw [realignChans_outline]; rfl

@[simp] theorem startDredge_outline (b : Block) (d : Bool) : (b.startDredge d).outline = b.outline := by
  unfold Block.startDredge
  split
  · rfl
  · refine foldl_outline _ ?_ _ b
    intro x e
    rfl

@[simp] theorem startRelock_outline (b : Block) (n : Nat) : (b.startRelock n).outline = b.outline := rfl

@[simp] theorem modPhy_outline (b : Block) (c : Nat) (g : Phy → Phy) : (b.modPhy c g).outline = b.outline :=
  modChan_outline b c _ (fun _ => rfl)

/-! ### Sensors and drift samples -/

@[simp] theorem pollOne_outline (b : Block) (c k : Nat) (t : Option (BitVec 16)) : (b.pollOne c k t).outline = b.outline := by
  unfold Block.pollOne
  split
  · rfl
  · extract_lets h put old
    have hp : ∀ x bad good temp, (put x bad good temp).outline = x.outline := fun x bad good temp => modPhy_outline x c _
    split
    · split
      · exact hp b _ _ _
      · exact hp b _ _ _
    · split
      · exact hp b _ _ _
      · split
        · exact hp b _ _ _
        · rw [event_outline]; exact hp b _ _ _

@[simp] theorem doubleEvent_outline (b : Block) (c n : Nat) (t : Nat × Nat) (on : Bool) : (b.doubleEvent c n t on).outline = b.outline :=
  event_outline b _ _

@[simp] theorem setDoubled_outline (b : Block) (c : Nat) (on : Bool) (x : Option Stopping) : (b.setDoubled c on x).outline = b.outline :=
  modChan_outline b c _ (fun _ => rfl)

@[simp] theorem ddr4Double_outline (b : Block) (c : Nat) : (b.ddr4Double c).outline = b.outline := by
  unfold Block.ddr4Double
  split
  · rfl
  · extract_lets on h rd top w b1
    clear_value top
    have h1 : b1.outline = b.outline := setDoubled_outline b c true none
    split
    · rfl
    · split
      · split
        · exact h1
        · exact (doubleEvent_outline b1 c _ _ _).trans h1
      · split
        · exact setDoubled_outline b c true _
        · rfl

@[simp] theorem thermal_outline (b : Block) (c : Nat) : (b.thermal c).outline = b.outline := by
  unfold Block.thermal
  split
  · rfl
  · extract_lets ph w cr set enter leave cross rearm b1 b2
    have h1 : b1.outline = b.outline := modChan_outline b c _ (fun _ => rfl)
    have h2 : b2.outline = b.outline := by
      show (if cross = true then _ else b1).outline = _
      split
      · rw [event_outline, h1]
      · exact h1
    split
    · rw [event_outline, h2]
    · split
      · rw [event_outline, h2]
      · exact h2

@[simp] theorem pollSensors_outline (b : Block) (c : Nat) (rs : List (Option (BitVec 16))) : (b.pollSensors c rs).outline = b.outline := by
  unfold Block.pollSensors
  extract_lets b1
  rw [thermal_outline, ddr4Double_outline]
  exact foldl_outline _ (fun x e => pollOne_outline x c _ _) _ b

@[simp] theorem driftNibble_outline (b : Block) (c u k : Nat) (l : List Nat) (n : Nat) : (b.driftNibble c u k l n).outline = b.outline := by
  unfold Block.driftNibble
  extract_lets i word base old new b1 b2
  split
  · rfl
  · have h1 : b1.outline = b.outline := by
      refine foldl_outline _ ?_ l b
      intro x e
      rfl
    split
    · rw [event_outline]; exact h1
    · exact h1

@[simp] theorem driftLane_outline (b : Block) (c u n : Nat) (r : Bool × Bool) : (b.driftLane c u n r).outline = b.outline := by
  unfold Block.driftLane
  extract_lets i bit v b1 key fails b2
  have h1 : b1.outline = b.outline := by
    show (if (r.2 && !r.1) = true then _ else if (r.1 && !r.2) = true then _ else b).outline = _
    split
    · rfl
    · split <;> rfl
  have h2 : b2.outline = b.outline := by
    refine Eq.trans ?_ h1
    exact modChan_outline b1 c _ (fun _ => rfl)
  split
  · rw [event_outline, h2]
  · exact h2

@[simp] theorem driftSample_outline (b : Block) (c : Nat) (r : DriftRead) : (b.driftSample c r).outline = b.outline := by
  unfold Block.driftSample
  extract_lets u b1
  have h1 : b1.outline = b.outline := modChan_outline b c _ (fun _ => rfl)
  split
  · refine (foldl_outline _ ?_ _ b1).trans h1
    intro x e
    split
    · exact driftLane_outline x _ _ _ _
    · rfl
  · refine (foldl_outline _ ?_ _ b1).trans h1
    intro x e
    exact driftNibble_outline x _ _ _ _ _

/-! ### Modes -/

/-- A change of mode changes the mode, its time and what an event changes. -/
theorem changeMode_outline (b : Block) (m : Mode) (cause us : Nat) : (b.changeMode m cause us).outline = { b.outline with mode := m } := by
  unfold Block.changeMode
  extract_lets old b1 b2
  split
  · rfl
  · rw [event_outline]; rfl

@[simp] theorem changeMode_mode (b : Block) (m : Mode) (cause us : Nat) : (b.changeMode m cause us).mode = m :=
  congrArg Outline.mode (changeMode_outline b m cause us)

/-! ### Long packets that end -/

theorem foldl_mem_replies {β : Type} (g : Block → β → Block) (r : Reply) (h : ∀ b x, r ∈ b.pkts.replies → r ∈ (g b x).pkts.replies)
    (l : List β) (b : Block) (hb : r ∈ b.pkts.replies) : r ∈ (l.foldl g b).pkts.replies := by
  induction l generalizing b with
  | nil => exact hb
  | cons x l ih => exact ih _ (h b x hb)

theorem endOps_keep (b : Block) (sel : LongOp → Bool) (st d : Nat) (p0 : LongOp → Nat) (body : LongOp → List Byte) (r : Reply)
    (hr : r ∈ b.pkts.replies) : r ∈ (b.endOps sel st d p0 body).pkts.replies := by
  unfold Block.endOps
  extract_lets out sr b1
  refine foldl_mem_replies _ r ?_ out b1 hr
  intro x o hx
  obtain ⟨c, hc⟩ := replyHold_only x o.src o.pkt o.objs st d (p0 o) (body o)
  rw [hc]; exact List.mem_append_left _ hx

theorem endOps_reply (b : Block) (sel : LongOp → Bool) (st d : Nat) (p0 : LongOp → Nat) (body : LongOp → List Byte) (o : LongOp)
    (ho : o ∈ b.pkts.ops) (hs : sel o = true) :
    ∃ lvl, (⟨o.src, mkReply lvl o.pkt st d (p0 o) (body o), false, o.objs⟩ : Reply) ∈ (b.endOps sel st d p0 body).pkts.replies := by
  unfold Block.endOps
  extract_lets out sr b1
  have ho' : o ∈ out := List.mem_filter.2 ⟨ho, hs⟩
  clear_value out
  clear_value b1
  induction out generalizing b1 with
  | nil => cases ho'
  | cons a l ih =>
    rw [List.foldl_cons]
    rcases List.mem_cons.1 ho' with rfl | hm
    · obtain ⟨c, hc⟩ := replyHold_only b1 o.src o.pkt o.objs st d (p0 o) (body o)
      refine ⟨b1.replyLevel o.src o.pkt.requester.toNat, ?_⟩
      refine foldl_mem_replies _ _ ?_ l _ ?_
      · intro x o' hx
        obtain ⟨c, hc⟩ := replyHold_only x o'.src o'.pkt o'.objs st d (p0 o') (body o')
        rw [hc]; exact List.mem_append_left _ hx
      · rw [hc]; exact List.mem_append_right _ (List.mem_singleton.2 rfl)
    · exact ih _ hm

theorem endOps_outline (b : Block) (sel : LongOp → Bool) (st d : Nat) (p0 : LongOp → Nat) (body : LongOp → List Byte) :
    ∃ ops reps, (b.endOps sel st d p0 body).outline = { b.outline with ops := ops, replies := reps } := by
  unfold Block.endOps
  extract_lets out sr b1
  have : ∀ (l : List LongOp) (x : Block), ∃ reps, (l.foldl (fun (b : Block) o => b.replyHold o.src o.pkt o.objs st d (p0 o) (body o)) x).outline =
      { x.outline with replies := reps } := by
    intro l
    induction l with
    | nil => intro x; exact ⟨x.pkts.replies, rfl⟩
    | cons o l ih =>
      intro x
      obtain ⟨c, hc⟩ := replyHold_only x o.src o.pkt o.objs st d (p0 o) (body o)
      obtain ⟨r, hr⟩ := ih (x.replyHold o.src o.pkt o.objs st d (p0 o) (body o))
      refine ⟨r, ?_⟩
      rw [List.foldl_cons, hr, hc]; rfl
  obtain ⟨r, hr⟩ := this out b1
  exact ⟨_, r, hr⟩

theorem endOps_sluice (b : Block) (sel : LongOp → Bool) (st d : Nat) (p0 : LongOp → Nat) (body : LongOp → List Byte) :
    (b.endOps sel st d p0 body).sluice = b.sluice := by
  unfold Block.endOps
  extract_lets out sr b1
  refine (foldl_keeps Block.sluice _ ?_ out b1).trans rfl
  intro x o
  obtain ⟨c, hc⟩ := replyHold_only x o.src o.pkt o.objs st d (p0 o) (body o)
  rw [hc]

theorem realign_sluice (b : Block) (m : Nat) : (b.realignChans m).sluice = b.sluice := by
  unfold Block.realignChans
  extract_lets cs lost won b1 bits b2
  have h1 : b1.sluice = b.sluice := by
    refine foldl_keeps Block.sluice _ ?_ cs b
    intro x c; rfl
  have h2 : b2.sluice = b.sluice := by
    show (if lost.isEmpty = true then b1 else _).sluice = _
    split
    · exact h1
    · rw [event_sluice, h1]
  split
  · exact h2
  · rw [event_sluice, h2]

theorem stopSluice_sluice (b : Block) : b.stopSluice.sluice = { running := false, leadIn := false, boundary := 0 } := by
  unfold Block.stopSluice; rw [realign_sluice]

theorem state_of_outline {b b' : Block} (h : b'.outline.states = b.outline.states) (c : Nat) : (b'.chan c).state = (b.chan c).state := by
  have e : ∀ x : Block, (x.chan c).state = x.outline.states.getD c 0 := by
    intro x
    simp only [Block.outline, Block.chan, List.getD_eq_getElem?_getD, List.getElem?_map]
    cases x.chans[c]? <;> rfl
  rw [e, e, h]

/-! ### DORMANT entry -/

@[simp] theorem countC_outline (b : Block) (c ev : Nat) (cls rq sc : Option Nat) (n : Nat) : (b.countC c ev cls rq sc n).outline = b.outline :=
  outline_of_sansLog (countC_sansLog b c ev cls rq sc n)

theorem modQueue_outline (b : Block) (c q : Nat) (g : Queue → Queue) : (b.modQueue c q g).outline = b.outline :=
  modChan_outline b c _ (fun _ => rfl)

@[simp] theorem charge_outline (b : Block) (c : Nat) (k : CmdKind) : (b.charge c k).outline = b.outline := by
  unfold Block.charge
  split
  · rfl
  · extract_lets pj acc
    rw [countC_outline]
    exact modChan_outline b c _ (fun _ => rfl)

@[simp] theorem turnCmd_outline (b : Block) (c u : Nat) (k : CmdKind) (n : Nat) : (b.turnCmd c u k n).outline = b.outline := by
  unfold Block.turnCmd
  extract_lets p x
  refine (modChan_outline _ c (fun ch => ch.used u n) (fun _ => rfl)).trans ?_
  rw [modQueue_outline, charge_outline]

@[simp] theorem raaFall_outline (b : Block) (c u : Nat) : (b.raaFall c u).outline = b.outline := by
  unfold Block.raaFall
  exact modQueue_outline b c _ _

@[simp] theorem claim_outline (b : Block) (c : Nat) : (b.claim c).outline = b.outline := by
  unfold Block.claim
  extract_lets n b1 b2
  have h1 : b1.outline = b.outline := foldl_outline _ (fun x u => by
    rw [modChan_outline _ c (fun ch => ch.exited u) (fun _ => rfl), turnCmd_outline]) _ b
  refine (modChan_outline b2 c (fun ch => { ch with tenure := none, pd := [], turn := { ch.turn with stalled := true } }) (fun _ => rfl)).trans
    (Eq.trans ?_ h1)
  refine foldl_outline _ (fun x u => ?_) _ b1
  dsimp only
  split
  · rw [modQueue_outline, countC_outline, turnCmd_outline]
  · rfl

@[simp] theorem lastRefresh_outline (b : Block) (c : Nat) : (b.lastRefresh c).outline = b.outline := by
  unfold Block.lastRefresh
  split
  · rfl
  · extract_lets b1 n
    refine (foldl_outline _ (fun x u => ?_) _ b1).trans (claim_outline b c)
    rw [raaFall_outline, countC_outline, turnCmd_outline]

theorem sleep_state (ch : Chan) (h : ch.state = 3 ∨ ch.state = 4) : ch.sleep.state = 6 := by
  unfold Chan.sleep
  rw [if_pos (by rcases h with h | h <;> simp [h])]; rfl

theorem replyHold_mode (b : Block) (src : Src) (p : Packet) (o : List Nat) (st d p0 : Nat) (body : List Byte) :
    (b.replyHold src p o st d p0 body).mode = b.mode := by
  obtain ⟨c, h⟩ := replyHold_only b src p o st d p0 body
  rw [h]

theorem serveFrom_mode (b : Block) (m : Mode) (cause us : Nat) : (b.serveFrom m cause us).mode = m := by
  unfold Block.serveFrom
  extract_lets d b1 b2
  have h : b2.mode = m := changeMode_mode _ _ _ _
  have h1 := congrArg Outline.mode (sluiceStarted_outline ((b2.lowerReq.lowerCmd).startDredge d))
  have h2 := congrArg Outline.mode (startDredge_outline (b2.lowerReq.lowerCmd) d)
  exact (h1.trans h2).trans h

/-! ### Serving entry and DORMANT exit -/

theorem emptyShapers_outline (b : Block) : b.emptyShapers.outline = b.outline := by
  have : b.emptyShapers.chans.map Chan.state = b.chans.map Chan.state := by simp [Block.emptyShapers, Function.comp_def]
  have e1 : ∀ x : Block, x.outline = { ({ x with chans := [] } : Block).outline with states := x.chans.map Chan.state } := fun x => rfl
  rw [e1 b.emptyShapers, e1 b, this]; rfl

theorem restartReserve_outline (b : Block) : b.restartReserve.outline = b.outline := by
  have : b.restartReserve.chans.map Chan.state = b.chans.map Chan.state := by simp [Block.restartReserve, Function.comp_def]
  have e1 : ∀ x : Block, x.outline = { ({ x with chans := [] } : Block).outline with states := x.chans.map Chan.state } := fun x => rfl
  rw [e1 b.restartReserve, e1 b, this]; rfl

/-- Entry into SERVE or DEGRADED changes the mode and lowers every VOID. -/
theorem serveFrom_outline (b : Block) (m : Mode) (cause us : Nat) :
    ∃ v, (b.serveFrom m cause us).outline = { b.outline with mode := m, voids := v } ∧ ∀ x ∈ v, x.1 = false := by
  unfold Block.serveFrom
  extract_lets d b1 b2
  have h0 : b1.outline = b.outline := by
    show (if d = true then b.restartReserve else b.emptyShapers.restartReserve).outline = _
    split
    · exact restartReserve_outline b
    · exact (restartReserve_outline _).trans (emptyShapers_outline b)
  have h2 : b2.outline = { b.outline with mode := m } := by
    show (b1.startSluice.changeMode m cause us).outline = _
    rw [changeMode_outline, startSluice_outline, h0]
  rw [sluiceStarted_outline, startDredge_outline]
  refine ⟨b2.lowerReq.lowerCmd.outline.voids, ?_, ?_⟩
  · have : b2.lowerReq.lowerCmd.outline = { b2.outline with voids := b2.lowerReq.lowerCmd.outline.voids } := rfl
    rw [this, h2]
  · intro x hx
    simp only [Block.outline, Block.lowerCmd, List.map_map, List.mem_map, Function.comp_apply] at hx
    obtain ⟨n, _, hn⟩ := hx
    rw [← hn]
    cases hc : n.cmdVoid <;> simp [hc]

theorem foldl_modify_getD (f : Nat → Nat) (cs l : List Nat) (c : Nat) (hlt : c < l.length) :
    (cs.foldl (fun l k => l.modify k (fun _ => f k)) l).getD c 0 = if c ∈ cs then f c else l.getD c 0 := by
  induction cs generalizing l with
  | nil => simp
  | cons k cs ih =>
    rw [List.foldl_cons, ih _ (by simpa using hlt)]
    by_cases hk : k = c
    · subst hk
      rw [getD_modify_self l k _ 0 hlt]
      simp
    · rw [getD_modify_ne l k c _ 0 hk]
      simp [Ne.symm hk]

theorem map_modify_map {α β : Type} (l : List α) (c : Nat) (g : α → α) (f : α → β) (h : β → β)
    (hg : ∀ a, f (g a) = h (f a)) : (l.modify c g).map f = (l.map f).modify c h := by
  induction l generalizing c with
  | nil => simp
  | cons a l ih => cases c with
    | zero => simp [hg]
    | succ c => simp [ih]

/-- Channels that leave self-refresh read state 3 or 4, and nothing else of the outline changes. -/
theorem wakeChans_outline (cs : List Nat) (b : Block) :
    (b.wakeChans cs).outline = { b.outline with
      states := cs.foldl (fun l c => l.modify c (fun _ => if b.ddr4 c then 4 else 3)) b.outline.states } := by
  have step : ∀ (x : Block) (c : Nat) (g : Chan → Chan), (∀ ch, (g ch).state = ch.state) →
      ((x.makeReady c).modChan c g).outline =
        { x.outline with states := x.outline.states.modify c (fun _ => if x.ddr4 c then 4 else 3) } ∧
      ((x.makeReady c).modChan c g).cfg = x.cfg := by
    intro x c g hg
    refine ⟨?_, rfl⟩
    rw [modChan_outline _ _ _ hg]
    have e1 : ∀ y : Block, y.outline = { ({ y with chans := [] } : Block).outline with states := y.chans.map Chan.state } := fun y => rfl
    have : (x.makeReady c).chans.map Chan.state = (x.chans.map Chan.state).modify c (fun _ => if x.ddr4 c then 4 else 3) := by
      unfold Block.makeReady Block.modChan
      exact map_modify_map _ _ _ _ _ (fun _ => rfl)
    rw [e1 (x.makeReady c), this]; rfl
  unfold Block.wakeChans
  induction cs generalizing b with
  | nil => rfl
  | cons c cs ih =>
    rw [List.foldl_cons, ih]
    obtain ⟨h1, h2⟩ := step b c (fun ch => { ch with queues := ch.queues.map (fun (k : Queue) =>
      { k with banks := k.banks.map (fun e => (e.1, { e.2 with raa := 0 })) }) }) (fun _ => rfl)
    have hd : ∀ k, ((b.makeReady c).modChan c (fun ch => { ch with queues := ch.queues.map (fun (k : Queue) =>
      { k with banks := k.banks.map (fun e => (e.1, { e.2 with raa := 0 })) }) })).ddr4 k = b.ddr4 k := by
      intro k; simp only [Block.ddr4, Block.flag, Block.f, h2]
    rw [h1]
    simp only [hd]
    rfl

end Sys2Proof.Machine
end

