-- ==== Sys2Proof/Laws/Fences.lean ====
section
/-! SUPPORT. What a fence does to the mode and to the states of the channels, and what alerts and replays leave alone. -/

namespace Sys2Proof.Machine

/-- The mode and the states of the channels. -/
def Block.modeStates (b : Block) : Mode × List Nat := (b.mode, b.chans.map Chan.state)

theorem modeStates_of_frame {b b' : Block} (h : b'.frame.sansCfg = b.frame.sansCfg) : b'.modeStates = b.modeStates := by
  have h1 : b'.mode = b.mode := congrArg (fun x : Frame => x.rest.mode) h
  have h2 : b'.chans.map Chan.frame = b.chans.map Chan.frame := congrArg (fun x : Frame => x.rest.chans) h
  have h3 := congrArg (List.map Chan.state) h2
  simp only [List.map_map] at h3
  exact congrArg₂ Prod.mk h1 h3

theorem modeStates_of_outline {b b' : Block} (h : b'.outline = b.outline) : b'.modeStates = b.modeStates :=
  congrArg₂ Prod.mk (congrArg Outline.mode h) (congrArg Outline.states h)

@[simp] theorem event_modeStates (b : Block) (code : Nat) (l : List (Nat × Nat)) : (b.event code l).modeStates = b.modeStates :=
  modeStates_of_outline (event_outline b code l)

theorem modChan_modeStates (b : Block) (c : Nat) (g : Chan → Chan) (h : ∀ ch, (g ch).state = ch.state) :
    (b.modChan c g).modeStates = b.modeStates := modeStates_of_outline (modChan_outline b c g h)

theorem modChan_to (b : Block) (c n : Nat) (g : Chan → Chan) (h : ∀ ch, (g ch).state = n) :
    (b.modChan c g).modeStates = (b.mode, (b.chans.map Chan.state).modify c (fun _ => n)) :=
  congrArg₂ Prod.mk rfl (map_modify_map b.chans c g Chan.state (fun _ => n) h)

theorem foldl_modeStates {α : Type} (g : Block → α → Block) (h : ∀ b x, (g b x).modeStates = b.modeStates) (l : List α) (b : Block) :
    (l.foldl g b).modeStates = b.modeStates := foldl_keeps Block.modeStates g h l b

theorem failPond_modeStates (b : Block) (p st : Nat) : (b.failPond p st).modeStates = b.modeStates := by
  unfold Block.failPond
  extract_lets ids b1 keep src src2 b2
  have h1 : b1.modeStates = b.modeStates :=
    foldl_modeStates _ (fun x id => modeStates_of_frame (sansCfg_of_frame (finish_frame x id st none))) ids b
  have h2 : b2.modeStates = b1.modeStates := by
    refine congrArg₂ Prod.mk ?_ ?_
    · exact congrArg (fun x : Frame => x.rest.mode) (discardPond_frame b1 p)
    · show List.map Chan.state (List.map _ b1.chans) = _
      rw [List.map_map]; rfl
  have h3 : b2.recountJobs.modeStates = b2.modeStates := rfl
  exact h3.trans (h2.trans h1)

theorem losePond_modeStates (b : Block) (p cause mask : Nat) : (b.losePond p cause mask).modeStates = b.modeStates := by
  unfold Block.losePond
  split
  · rfl
  · extract_lets b1 b2
    have h : (b2.emitPond 0x70 (encFields [(1, p), (1, (b2.place p).set), (1, cause), (1, mask)]) (some p)).modeStates = b2.modeStates :=
      modeStates_of_frame (sansCfg_of_frame (emitPond_frame _ _ _ _))
    exact h.trans (failPond_modeStates b1 p stPondLost)

theorem losePonds_modeStates (b : Block) (c cause : Nat) : (b.losePonds c cause).modeStates = b.modeStates := by
  refine foldl_modeStates _ ?_ _ b
  intro x p
  split
  · exact losePond_modeStates x p cause _
  · rfl

theorem endOps_modeStates (b : Block) (sel : LongOp → Bool) (st d : Nat) (p0 : LongOp → Nat) (body : LongOp → List Byte) :
    (b.endOps sel st d p0 body).modeStates = b.modeStates := by
  obtain ⟨ops, reps, h⟩ := endOps_outline b sel st d p0 body
  exact congrArg₂ Prod.mk (congrArg Outline.mode h) (congrArg Outline.states h)

theorem abandon_modeStates (b : Block) (n : Nat) : (b.abandon n).modeStates = b.modeStates := by
  unfold Block.abandon
  split
  · rw [endOps_modeStates, event_modeStates]; rfl
  · rfl

theorem changeMode_modeStates (b : Block) (m : Mode) (cause us : Nat) : (b.changeMode m cause us).modeStates = (m, b.modeStates.2) := by
  have h := changeMode_outline b m cause us
  exact congrArg₂ Prod.mk (congrArg Outline.mode h) (congrArg Outline.states h)

/-- A fence of a channel that is not fenced: it reads state 5, no other state changes, and SERVE becomes DEGRADED (R246). -/
theorem fence_modeStates (b : Block) (c cause : Nat) (pre : Block → Block) (hp : ∀ x, (pre x).modeStates = x.modeStates)
    (hs : (b.chan c).state ≠ 5) :
    (b.fence c cause pre).modeStates =
      (if b.mode = .serve then .degraded else b.mode, (b.chans.map Chan.state).modify c (fun _ => 5)) := by
  unfold Block.fence
  rw [if_neg (by simpa using hs)]
  extract_lets b1 b2 b3 b4 s b5
  have h1 : b1.modeStates = (b.mode, (b.chans.map Chan.state).modify c (fun _ => 5)) := modChan_to b c 5 _ (fun _ => rfl)
  have h2 : b2.modeStates = (if b.mode = .serve then .degraded else b.mode, (b.chans.map Chan.state).modify c (fun _ => 5)) := by
    show (if b1.mode == .serve then b1.changeMode .degraded 2 0 else b1).modeStates = _
    by_cases hm : b.mode = .serve
    · have : b1.mode = .serve := hm
      rw [if_pos (by simp [this]), changeMode_modeStates, h1, if_pos hm]
    · have : ¬ b1.mode = .serve := hm
      rw [if_neg (by simpa using this), h1, if_neg hm]
  have h4 : b4.modeStates = b2.modeStates := by
    show (pre _).modeStates = _
    rw [hp, losePonds_modeStates]; exact abandon_modeStates b2 1
  have h5 : b5.modeStates = b4.modeStates := by
    show (Block.event _ _ _).modeStates = _
    rw [event_modeStates]
    show (b4.setNumber c).1.modeStates = _
    unfold Block.setNumber
    split <;> rfl
  have h6 : ((b5.dropCopy c).modChan c (fun ch => ch.stop 5)).modeStates = b5.modeStates := by
    have hd : (b5.dropCopy c).modeStates = b5.modeStates := endOps_modeStates _ _ _ _ _ _
    rw [modChan_to _ c 5 _ (fun _ => rfl)]
    have he : ((b5.dropCopy c).chans.map Chan.state) = (b.chans.map Chan.state).modify c (fun _ => 5) :=
      congrArg Prod.snd (hd.trans (h5.trans (h4.trans h2)))
    have hm : (b5.dropCopy c).mode = b5.mode := congrArg Prod.fst hd
    have hb5 : b5.modeStates.2 = (b.chans.map Chan.state).modify c (fun _ => 5) := congrArg Prod.snd (h5.trans (h4.trans h2))
    rw [he, hm]
    refine congrArg₂ Prod.mk rfl ?_
    show _ = b5.modeStates.2
    rw [hb5, List.modify_modify_eq]; rfl
  have h7 : (((b5.dropCopy c).modChan c (fun ch => ch.stop 5)).recountJobs).modeStates = ((b5.dropCopy c).modChan c (fun ch => ch.stop 5)).modeStates := rfl
  rw [h7, h6, h5, h4, h2]

theorem state_of_modeStates (b : Block) (c : Nat) : (b.chan c).state = b.modeStates.2.getD c 0 := by
  unfold Block.modeStates Block.chan
  simp only [List.getD_eq_getElem?_getD, List.getElem?_map]
  cases b.chans[c]? <;> rfl

theorem settlesTo_modeStates {e b : Block} (h : e.settlesTo b) : b.modeStates = e.modeStates := modeStates_of_frame h.1

theorem getD_set (l : List Nat) (c n : Nat) (h : c < l.length) : (l.modify c (fun _ => n)).getD c 0 = n := by
  simp [h]

/-- After a fence the channel reads state 5 and the others what they read. -/
theorem fence_settled {b e : Block} {c : Fin 8} {cause : Nat} {pre : Block → Block} (hp : ∀ x, (pre x).modeStates = x.modeStates)
    (hs : (b.chan c).state ≠ 5) (hl : b.chans.length = 8) (h : (b.fence c cause pre).settlesTo e) :
    (e.chan c).state = 5 ∧ e.mode = (if b.mode = .serve then .degraded else b.mode) ∧
      ∀ k : Fin 8, k ≠ c → (e.chan k).state = (b.chan k).state := by
  have h1 := (settlesTo_modeStates h).trans (fence_modeStates b c cause pre hp hs)
  have h2 : e.modeStates.2 = (b.chans.map Chan.state).modify c (fun _ => 5) := congrArg Prod.snd h1
  refine ⟨?_, congrArg Prod.fst h1, ?_⟩
  · rw [state_of_modeStates, h2, getD_set _ _ _ (by simp [hl])]
  · intro k hk
    have hk' : c.val ≠ k.val := fun hh => hk (Fin.ext hh.symm)
    rw [state_of_modeStates, h2, getD_modify_ne _ _ _ _ _ hk', state_of_modeStates]; rfl

end Sys2Proof.Machine
end

