-- ==== Sys2Proof/Laws/Standing.lean ====
section
/-! SUPPORT. What the bring-up of channels, the seeds and the reports of RESTORE leave alone. -/

namespace Sys2Proof.Machine

/-- The block less its channels, configuration, report, counts and log, and less the progress of bring-up. -/
def Block.standing (b : Block) : Block :=
  { b.sansLog with
    chans := [], cfg := [], report := [], free := 0, snd := {}
    boot := { b.boot with phase := 0, trained := 0, failed := 0 }
    restore := { b.restore with up := false, upDone := 0, camDone := 0, late := [] } }

theorem standing_of_sansLog {b b' : Block} (h : b'.sansLog = b.sansLog) : b'.standing = b.standing := by
  have e : ∀ x : Block, x.standing = { x.sansLog with
      chans := [], cfg := [], report := [], free := 0, snd := {}
      boot := { x.sansLog.boot with phase := 0, trained := 0, failed := 0 }
      restore := { x.sansLog.restore with up := false, upDone := 0, camDone := 0, late := [] } } := fun _ => rfl
  rw [e b', e b, h]

@[simp] theorem event_standing (b : Block) (code : Nat) (l : List (Nat × Nat)) : (b.event code l).standing = b.standing :=
  standing_of_sansLog (event_sansLog b code l)

theorem foldl_standing {α : Type} (g : Block → α → Block) (h : ∀ b x, (g b x).standing = b.standing) (l : List α) (b : Block) :
    (l.foldl g b).standing = b.standing := foldl_keeps Block.standing g h l b

@[simp] theorem events_standing (b : Block) (l : List Ev) : (b.events l).standing = b.standing := by
  unfold Block.events
  refine foldl_standing _ ?_ _ b
  intro x e; exact event_standing _ _ _

@[simp] theorem modChan_standing (b : Block) (c : Nat) (g : Chan → Chan) : (b.modChan c g).standing = b.standing := rfl
@[simp] theorem modPhy_standing (b : Block) (c : Nat) (g : Phy → Phy) : (b.modPhy c g).standing = b.standing := rfl
@[simp] theorem setF_standing (b : Block) (i n k v : Nat) : (b.setF i n k v).standing = b.standing := rfl
@[simp] theorem phase_standing (b : Block) (n : Nat) : (b.phase n).standing = b.standing := rfl
@[simp] theorem reloadSampling_standing (b : Block) : b.reloadSampling.standing = b.standing := rfl

@[simp] theorem addReport_standing (b : Block) (r c : Nat) (es : List RepEnt) : (b.addReport r c es).standing = b.standing := by
  unfold Block.addReport; split <;> rfl

@[simp] theorem judge_standing (b : Block) (c : Nat) : (b.judge c).1.standing = b.standing := by
  unfold Block.judge
  split
  · rfl
  · extract_lets slots es b1 b2
    have h1 : b1.standing = b.standing := by
      refine foldl_standing _ ?_ _ b
      intro x u; rfl
    clear_value b1
    have h2 : b2.standing = b1.standing := modPhy_standing _ _ _
    clear_value b2
    show (b2.addReport 0 c es).standing = _
    rw [addReport_standing, h2, h1]

@[simp] theorem startBringUp_standing (b : Block) : b.startBringUp.standing = b.standing := by
  unfold Block.startBringUp
  extract_lets cs b1 a
  rw [events_standing]
  have : ∀ (l : List Nat) (x : Block × List Ev), (l.foldl (fun (a : Block × List Ev) c =>
      let b := a.1.modChan c (fun ch => { ch with state := 2 })
      if (b.chan c).phy.sbMode = 0 then (b, a.2)
      else
        let j := b.judge c
        (j.1, a.2 ++ j.2)) x).1.standing = x.1.standing := by
    intro l x
    refine foldl_keeps (fun x : Block × List Ev => x.1.standing) _ ?_ l x
    intro a c
    dsimp only
    split
    · rfl
    · show (Block.judge _ c).1.standing = _
      rw [judge_standing, modChan_standing]
  exact this cs (b1, [])

@[simp] theorem tryBringUp_standing (b : Block) : b.tryBringUp.standing = b.standing := by
  unfold Block.tryBringUp
  dsimp only
  split
  · exact startBringUp_standing b
  · rfl

@[simp] theorem seedEvent_standing (b : Block) (l : List Nat) : (b.seedEvent l).standing = b.standing := by
  unfold Block.seedEvent; split
  · rfl
  · exact event_standing _ _ _

@[simp] theorem debugSeeds_standing (b : Block) : b.debugSeeds.standing = b.standing := by
  unfold Block.debugSeeds Block.startSampling
  extract_lets cs b1
  have h1 : b1.standing = b.standing := by
    refine foldl_standing _ ?_ _ b
    intro x c; rfl
  split
  · rw [reloadSampling_standing, seedEvent_standing, h1]
  · rw [seedEvent_standing, h1]

/-- The end of the check of the image: only DONE and the time of the report change. -/
theorem imageTaken_standing (b : Block) (rep : List RepEnt) : (b.imageTaken rep).standing =
    ({ b with stat := { b.stat with reportAt := b.stamp64 }, restore := { b.restore with imageDone := true } } : Block).standing := by
  unfold Block.imageTaken
  extract_lets s1 b1 b2
  have h2 : b2.standing = b1.standing := events_standing _ _
  clear_value b2
  rw [tryBringUp_standing]
  have h3 : b1.standing = ({ b with stat := { b.stat with reportAt := b.stamp64 }, restore := { b.restore with imageDone := true } } : Block).standing := rfl
  split
  · rw [debugSeeds_standing, h2, h3]
  · rw [h2, h3]

/-- The seed: the keys, the valid-tile map and DONE change. -/
theorem takeSeed_standing (b : Block) (seed : BitVec 128) : (b.takeSeed seed).standing =
    ({ b with keys := (List.range 16).map (Config.keyOf seed), tiles := [], restore := { b.restore with seedDone := true } } : Block).standing := by
  unfold Block.takeSeed
  extract_lets b1 b2
  rw [tryBringUp_standing]
  split
  · rw [debugSeeds_standing]; rfl
  · rfl

theorem restoreSpare_standing (c slot : Nat) (a : Block × List Ev) (e : Nat × SpareRec) :
    (Block.restoreSpare c slot a e).1.standing = a.1.standing := by
  unfold Block.restoreSpare
  extract_lets b x
  split
  · rfl
  · exact addReport_standing _ _ _ _

theorem rebuildCam_standing (b : Block) (c : Nat) : (b.rebuildCam c).1.standing = b.standing := by
  unfold Block.rebuildCam
  split
  · rfl
  · extract_lets b1 b2
    refine (foldl_keeps (fun x : Block × List Ev => x.1.standing) _ ?_ _ (b2, [])).trans rfl
    intro a slot
    dsimp only
    split
    · rfl
    · exact foldl_keeps (fun x : Block × List Ev => x.1.standing) _ (restoreSpare_standing c slot) _ a

theorem becomeReady_standing (b : Block) (c : Nat) : (b.becomeReady c).1.standing = b.standing := by
  unfold Block.becomeReady
  rw [rebuildCam_standing]; rfl

theorem fullRead_standing (b : Block) (c : Nat) (l : List SlotInfo) : (b.fullRead c l).standing = b.standing := rfl

theorem put_standing (a : Raise) (id c bit v : Nat) : (a.put id c bit v).blk.standing = a.blk.standing := by
  unfold Raise.put
  dsimp only
  split <;> rfl

theorem putFold_standing (id c : Nat) (v : Nat → Nat) (l : List Nat) (a : Raise) :
    (l.foldl (fun (a : Raise) bit => a.put id c bit (v bit)) a).blk.standing = a.blk.standing :=
  foldl_keeps (fun x : Raise => x.blk.standing) _ (fun a _ => put_standing a _ _ _ _) l a

theorem spdRaise_standing (b : Block) (c : Nat) (spd : List SpdInfo) : (b.spdRaise c spd).blk.standing = b.standing := by
  unfold Block.spdRaise
  extract_lets ddr5 a0 a1 a2 refi a3 t k x3 a4
  have h1 : a1.blk.standing = b.standing := put_standing a0 _ _ _ _
  clear_value a1
  have h2 : a2.blk.standing = a1.blk.standing := putFold_standing _ _ _ _ _
  clear_value a2
  have h3 : a3.blk.standing = a2.blk.standing := put_standing _ _ _ _ _
  have h4 : a4.blk.standing = a3.blk.standing := rfl
  have h : a4.blk.standing = b.standing := by rw [h4, h3, h2, h1]
  clear_value a4
  split
  · extract_lets imt mmt a5
    rw [put_standing, put_standing]
    exact (put_standing _ _ _ _ _).trans h
  · exact h

theorem spdCheck_standing (b : Block) (c : Nat) (spd : List SpdInfo) : (b.spdCheck c spd).1.standing = b.standing := by
  unfold Block.spdCheck
  split
  · rfl
  · dsimp only
    split
    · show (Block.addReport _ _ _ _).standing = _
      rw [addReport_standing, spdRaise_standing]
    · exact spdRaise_standing _ _ _

theorem trainUnit_standing (b : Block) (c ext : Nat) (u : UnitTrain) : (b.trainUnit c ext u).standing = b.standing := by
  unfold Block.trainUnit
  extract_lets i fields b1 base eyes
  have h1 : b1.standing = b.standing := by
    refine foldl_standing _ ?_ _ b
    intro x e
    split <;> rfl
  clear_value b1
  rw [modPhy_standing, h1]

theorem trainChan_standing (b : Block) (c ext : Nat) (r : TrainRes) : (b.trainChan c ext r).standing = b.standing := by
  unfold Block.trainChan
  extract_lets us b1 b2
  have h1 : b1.standing = b.standing := by
    refine foldl_standing _ ?_ _ b
    intro x e; rfl
  clear_value b1
  have h2 : b2.standing = b1.standing := by
    refine foldl_standing _ ?_ _ b1
    intro x e; exact trainUnit_standing _ _ _ _
  clear_value b2
  split
  · refine (foldl_standing _ ?_ us b2).trans (h2.trans h1)
    intro x e; rfl
  · exact h2.trans h1

theorem upFailed_standing (b : Block) (c : Nat) : (b.upFailed c).standing = b.standing := rfl

theorem upChecked_standing (b : Block) (c : Nat) (r : BringUp) : (b.upChecked c r).1.standing = b.standing := by
  unfold Block.upChecked
  extract_lets train k t
  have ht : ∀ (x : Block) (res : TrainRes) (last : Option VerifyFail), (train x res last).1.standing = x.standing := by
    intro x res last
    unfold train
    dsimp only
    split
    · rw [becomeReady_standing, trainChan_standing]; rfl
    · show (Block.upFailed _ _).standing = _
      rw [upFailed_standing, trainChan_standing]; rfl
  split
  · have hk : k.1.standing = b.standing := spdCheck_standing _ _ _
    have h1 : t.1.standing = b.standing := (ht _ _ _).trans hk
    clear_value t k train
    split
    · exact h1
    · show (k.1.upFailed c).standing = _
      rw [upFailed_standing, hk]
  · split
    · exact becomeReady_standing _ _
    · exact ht _ _ _

theorem bringUpDone_standing (b : Block) (c : Nat) (r : BringUp) : (b.bringUpDone c r).standing = b.standing := by
  unfold Block.bringUpDone
  split
  · rfl
  · extract_lets b1 b2 j u
    have h2 : b2.standing = b.standing := rfl
    split
    · rw [events_standing, modChan_standing, h2]
    · have hj : j.1.standing = b2.standing := by
        unfold j; split
        · exact judge_standing _ _
        · rfl
      have hu : u.1.standing = j.1.standing := upChecked_standing _ _ _
      rw [events_standing, hu, hj, h2]

theorem discover_standing (b : Block) (full : Bool) (l : List SlotInfo) : (b.discover full l).standing = b.standing := by
  unfold Block.discover
  rw [events_standing]
  refine foldl_standing _ ?_ _ b
  intro x c
  unfold Block.discoverChan
  dsimp only
  split <;> rfl

end Sys2Proof.Machine
end

