-- ==== Sys2Proof/Laws/BringUp.lean ====
section
/-! SUPPORT. What the bring-up, training and judging of channels do to the states of the channels. -/

namespace Sys2Proof.Machine

theorem states_sansLog {b b' : Block} (h : b'.sansLog = b.sansLog) : b'.chans = b.chans := (congrArg Block.chans h :)

theorem events_chans (b : Block) (l : List Ev) : (b.events l).chans = b.chans := by
  unfold Block.events
  refine foldl_keeps Block.chans (fun (x : Block) (e : Ev) => x.event e.1 e.2) (fun x e => states_sansLog (event_sansLog x e.1 e.2)) _ b

theorem modChan_states (b : Block) (c : Nat) (g : Chan → Chan) (h : ∀ ch, (g ch).state = ch.state) :
    (b.modChan c g).chans.map Chan.state = b.chans.map Chan.state := map_modify Chan.state g h b.chans c

theorem addReport_chans (b : Block) (r c : Nat) (es : List RepEnt) : (b.addReport r c es).chans = b.chans := by
  unfold Block.addReport; split <;> rfl

/-- The states of the channels. -/
def Block.sts (b : Block) : List Nat := b.chans.map Chan.state

theorem restoreSpare_sts (c slot : Nat) (a : Block × List Ev) (e : Nat × SpareRec) :
    (Block.restoreSpare c slot a e).1.sts = a.1.sts := by
  unfold Block.restoreSpare
  extract_lets b x
  split
  · exact modChan_states _ _ (fun ch => { ch with cam := insCam _ ch.cam }) (fun _ => rfl)
  · exact congrArg (List.map Chan.state) (addReport_chans _ _ _ _)

theorem rebuildCam_sts (b : Block) (c : Nat) : (b.rebuildCam c).1.sts = b.sts := by
  unfold Block.rebuildCam
  split
  · rfl
  · extract_lets b1 b2
    refine (foldl_keeps (fun x : Block × List Ev => x.1.sts) _ ?_ _ (b2, [])).trans (modChan_states _ _ (fun ch => { ch with cam := [] }) (fun _ => rfl))
    intro a slot
    dsimp only
    split
    · rfl
    · exact foldl_keeps (fun x : Block × List Ev => x.1.sts) _ (restoreSpare_sts c slot) _ a

/-- The state of a channel that is ready. -/
def readyState (b : Block) (c : Nat) : Nat := if b.ddr4 c then 4 else 3

theorem makeReady_sts (b : Block) (c : Nat) : (b.makeReady c).sts = b.sts.modify c (fun _ => readyState b c) := by
  unfold Block.makeReady Block.sts
  extract_lets st quiet
  exact map_modify_map b.chans c _ Chan.state (fun _ => readyState b c) (fun _ => rfl)

theorem becomeReady_sts (b : Block) (c : Nat) : (b.becomeReady c).1.sts = b.sts.modify c (fun _ => readyState b c) := by
  unfold Block.becomeReady
  rw [rebuildCam_sts, makeReady_sts]

theorem modPhy_sts (b : Block) (c : Nat) (g : Phy → Phy) : (b.modPhy c g).sts = b.sts :=
  modChan_states b c (fun ch => { ch with phy := g ch.phy }) (fun _ => rfl)

theorem upFailed_sts (b : Block) (c : Nat) : (b.upFailed c).sts = b.sts.modify c (fun _ => 7) := by
  unfold Block.upFailed Block.sts
  exact map_modify_map b.chans c _ Chan.state (fun _ => 7) (fun _ => rfl)

theorem put_chans (a : Raise) (id c bit v : Nat) : (a.put id c bit v).blk.chans = a.blk.chans := by
  unfold Raise.put
  dsimp only
  split <;> rfl

theorem spdRaise_chans (b : Block) (c : Nat) (spd : List SpdInfo) : (b.spdRaise c spd).blk.chans = b.chans := by
  unfold Block.spdRaise
  extract_lets ddr5 a0 a1 a2 refi a3 t k x3 a4
  have h1 : a1.blk.chans = b.chans := put_chans a0 _ _ _ _
  clear_value a1
  have h2 : a2.blk.chans = a1.blk.chans :=
    foldl_keeps (fun x : Raise => x.blk.chans) _ (fun a _ => put_chans a _ _ _ _) (spdFields ddr5) a1
  clear_value a2
  have h3 : a3.blk.chans = a2.blk.chans := put_chans _ _ _ _ _
  have h : a4.blk.chans = b.chans := h3.trans (h2.trans h1)
  clear_value a4
  split
  · extract_lets imt mmt a5
    rw [put_chans, put_chans]
    exact (put_chans _ _ _ _ _).trans h
  · exact h

theorem spdCheck_chans (b : Block) (c : Nat) (spd : List SpdInfo) : (b.spdCheck c spd).1.chans = b.chans := by
  unfold Block.spdCheck
  split
  · rfl
  · dsimp only
    split
    · exact (addReport_chans _ _ _ _).trans (spdRaise_chans _ _ _)
    · exact spdRaise_chans _ _ _

theorem trainUnit_sts (b : Block) (c ext : Nat) (u : UnitTrain) : (b.trainUnit c ext u).sts = b.sts := by
  unfold Block.trainUnit
  extract_lets i fields b1 base eyes
  have h1 : b1.sts = b.sts := by
    refine foldl_keeps Block.sts _ ?_ _ b
    intro x e
    split <;> rfl
  clear_value b1
  rw [modPhy_sts, h1]

theorem trainChan_sts (b : Block) (c ext : Nat) (r : TrainRes) : (b.trainChan c ext r).sts = b.sts := by
  unfold Block.trainChan
  extract_lets us b1 b2
  have h1 : b1.sts = b.sts := by
    refine foldl_keeps Block.sts _ ?_ _ b
    intro x e; rfl
  clear_value b1
  have h2 : b2.sts = b1.sts := by
    refine foldl_keeps Block.sts _ ?_ _ b1
    intro x e; exact trainUnit_sts _ _ _ _
  clear_value b2
  split
  · refine (foldl_keeps Block.sts _ ?_ us b2).trans (h2.trans h1)
    intro x e; rfl
  · exact h2.trans h1

theorem upChecked_sts (b : Block) (c : Nat) (r : BringUp) : ∃ n ∈ [3, 4, 7], (b.upChecked c r).1.sts = b.sts.modify c (fun _ => n) := by
  have hready : ∀ x : Block, readyState x c ∈ [3, 4, 7] := by
    intro x; unfold readyState; split <;> simp
  unfold Block.upChecked
  extract_lets train k t
  have ht : ∀ (x : Block) (res : TrainRes) (last : Option VerifyFail), ∃ n ∈ [3, 4, 7], (train x res last).1.sts = x.sts.modify c (fun _ => n) := by
    intro x res last
    unfold train
    dsimp only
    split
    · generalize hy : Block.trainChan _ c 1 _ = y
      have hys : y.sts = x.sts := by rw [← hy, trainChan_sts]; rfl
      refine ⟨readyState y c, hready y, ?_⟩
      rw [becomeReady_sts, hys]
    · refine ⟨7, by simp, ?_⟩
      show (Block.upFailed _ _).sts = _
      rw [upFailed_sts, trainChan_sts]; rfl
  split
  · have hk : k.1.sts = b.sts := (congrArg (List.map Chan.state) (spdCheck_chans _ _ _)).trans (modPhy_sts _ _ _)
    obtain ⟨n, h0, h1⟩ := ht k.1 r.train none
    have h1' : t.1.sts = b.sts.modify c (fun _ => n) := h1.trans (by rw [hk])
    clear_value t k train
    split
    · exact ⟨n, h0, h1'⟩
    · refine ⟨7, by simp, ?_⟩
      show (k.1.upFailed c).sts = _
      rw [upFailed_sts, hk]
  · split
    · exact ⟨_, hready _, becomeReady_sts _ _⟩
    · exact ht _ _ _

theorem judge_sts (b : Block) (c : Nat) : (b.judge c).1.sts = b.sts := by
  unfold Block.judge
  split
  · exact modPhy_sts _ _ _
  · extract_lets slots es b1 b2
    have h1 : b1.sts = b.sts := by
      refine foldl_keeps Block.sts _ ?_ _ b
      intro x u; rfl
    clear_value b1
    have h2 : b2.sts = b1.sts := modPhy_sts _ _ _
    clear_value b2
    show (b2.addReport 0 c es).sts = _
    exact (congrArg (List.map Chan.state) (addReport_chans _ _ _ _)).trans (h2.trans h1)

theorem sts_state (b : Block) (c : Nat) : (b.chan c).state = b.sts.getD c 0 := state_of_modeStates b c

theorem sts_modify_self {b e : Block} {c n : Nat} (h : e.sts = b.sts.modify c (fun _ => n)) (hc : c < b.chans.length) : (e.chan c).state = n := by
  rw [sts_state, h]
  exact getD_set _ _ _ (by unfold Block.sts; simpa using hc)

theorem sts_modify_ne {b e : Block} {c n k : Nat} (h : e.sts = b.sts.modify c (fun _ => n)) (hk : k ≠ c) : (e.chan k).state = (b.chan k).state := by
  rw [sts_state, sts_state, h]
  exact getD_modify_ne _ _ _ _ _ (Ne.symm hk)

end Sys2Proof.Machine
end

