-- ==== Sys2Proof/Laws/Config.lean ====
section
/-! SUPPORT. What setting, clearing and copying fields does to the configuration table. -/

namespace Sys2Proof.Machine

theorem aget_cons {α : Type} (i k : Nat) (w : α) (t : List (Nat × α)) : aget ((i, w) :: t) k = if i = k then some w else aget t k := by
  unfold aget
  by_cases h : i = k
  · simp [h]
  · simp [h]

theorem aget_aput {α : Type} (t : List (Nat × α)) (k j : Nat) (v : α) : aget (aput t k v) j = if k = j then some v else aget t j := by
  induction t with
  | nil => unfold aput; rw [aget_cons]
  | cons e t ih =>
    obtain ⟨i, w⟩ := e
    unfold aput
    split
    · rw [aget_cons]
    · split
      · rename_i h; subst h
        rw [aget_cons, aget_cons]
        split <;> rfl
      · rename_i h
        rw [aget_cons, ih, aget_cons]
        by_cases h1 : i = j
        · subst h1; simp [h]
        · simp [h1]

theorem aget_filter {α : Type} (t : List (Nat × α)) (p : Nat × α → Bool) (k : Nat) (h : ∀ v, p (k, v) = true) :
    aget (t.filter p) k = aget t k := by
  induction t with
  | nil => rfl
  | cons e t ih =>
    obtain ⟨i, w⟩ := e
    rw [List.filter_cons]
    by_cases hp : p (i, w) = true
    · rw [if_pos hp, aget_cons, aget_cons, ih]
    · rw [if_neg hp, aget_cons, ih]
      split
      · rename_i h1; subst h1; exact absurd (h w) hp
      · rfl

theorem aget_filter_none {α : Type} (t : List (Nat × α)) (p : Nat × α → Bool) (k : Nat) (h : ∀ v, p (k, v) = false) :
    aget (t.filter p) k = none := by
  unfold aget
  rw [Option.map_eq_none_iff, List.find?_eq_none]
  rintro ⟨i, w⟩ hx
  rw [List.mem_filter] at hx
  intro hk
  have : i = k := by simpa using hk
  subst this
  rw [h] at hx; cases hx.2

theorem cfgKey_inj {id inst bit id' inst' bit' : Nat} (hi : inst < 2 ^ 12) (hb : bit < 2 ^ 16) (hi' : inst' < 2 ^ 12) (hb' : bit' < 2 ^ 16)
    (h : cfgKey id inst bit = cfgKey id' inst' bit') : id = id' ∧ inst = inst' ∧ bit = bit' := by
  unfold cfgKey at h; omega

/-- A field of the table after a field is set. -/
theorem cfgGet_cfgSet (t : Tab Nat) {id inst bit id' inst' bit' : Nat} (v : Nat) (hi : inst < 2 ^ 12) (hb : bit < 2 ^ 16)
    (hi' : inst' < 2 ^ 12) (hb' : bit' < 2 ^ 16) :
    cfgGet (cfgSet t id inst bit v) id' inst' bit' = if id = id' ∧ inst = inst' ∧ bit = bit' then v else cfgGet t id' inst' bit' := by
  unfold cfgSet
  split
  · rename_i hd
    by_cases h : id = id' ∧ inst = inst' ∧ bit = bit'
    · obtain ⟨rfl, rfl, rfl⟩ := h
      rw [if_pos ⟨rfl, rfl, rfl⟩]
      unfold cfgGet adel
      rw [aget_filter_none _ _ _ (by simp)]
      exact hd.symm
    · rw [if_neg h]
      unfold cfgGet adel
      rw [aget_filter]
      intro w
      have : cfgKey id' inst' bit' ≠ cfgKey id inst bit := by
        intro hk
        obtain ⟨h1, h2, h3⟩ := cfgKey_inj hi' hb' hi hb hk
        exact h ⟨h1.symm, h2.symm, h3.symm⟩
      simp [this]
  · unfold cfgGet
    rw [aget_aput]
    by_cases h : id = id' ∧ inst = inst' ∧ bit = bit'
    · obtain ⟨rfl, rfl, rfl⟩ := h
      simp
    · rw [if_neg h, if_neg]
      intro hk
      exact h (cfgKey_inj hi hb hi' hb' hk)

/-- A field of the table after a record is put back to its defaults. -/
theorem cfgGet_cfgReset (t : Tab Nat) {id inst id' inst' bit' : Nat} (hi : inst < 2 ^ 12)
    (hi' : inst' < 2 ^ 12) (hb' : bit' < 2 ^ 16) :
    cfgGet (cfgReset t id inst) id' inst' bit' = if id = id' ∧ inst = inst' then fieldDefault id' inst' bit' else cfgGet t id' inst' bit' := by
  unfold cfgGet cfgReset
  have hk : cfgKey id' inst' bit' / 2 ^ 16 = id' * 2 ^ 12 + inst' := by unfold cfgKey; omega
  by_cases h : id = id' ∧ inst = inst'
  · obtain ⟨rfl, rfl⟩ := h
    rw [aget_filter_none]
    · simp
    · intro v; simpa using hk
  · rw [if_neg h, aget_filter]
    intro v
    simp only [hk, Bool.not_eq_true', beq_eq_false_iff_ne]
    intro hh
    exact h (by omega)

/-- What copying the pending records of an ELB into the active ones leaves in each field. -/
theorem foldCopy (l : Tab Nat) (t : Tab Nat) (hr : risingKeys l = true) (hl : ∀ e ∈ l, e.1 / 2 ^ 16 = 0x0700 * 2 ^ 12) {id inst bit : Nat}
    (hi : inst < 2 ^ 12) (hb : bit < 2 ^ 16) :
    cfgGet (l.foldl (fun t e => cfgSet t 0x0701 0 (e.1 % 2 ^ 16) e.2) t) id inst bit =
      if id = 0x0701 ∧ inst = 0 then (match aget l (cfgKey 0x0700 0 bit) with | some v => v | none => cfgGet t id inst bit)
      else cfgGet t id inst bit := by
  induction l generalizing t with
  | nil => simp [aget]
  | cons e l ih =>
    obtain ⟨i, w⟩ := e
    have hrr := (risingKeys_cons.1 hr)
    rw [List.foldl_cons, ih _ hrr.2 (fun e he => hl e (List.mem_cons_of_mem _ he)), aget_cons]
    have hi0 : i / 2 ^ 16 = 0x0700 * 2 ^ 12 := hl (i, w) (by simp)
    rw [cfgGet_cfgSet t w (by decide) (Nat.mod_lt _ (by decide)) hi hb]
    by_cases h : id = 0x0701 ∧ inst = 0
    · obtain ⟨rfl, rfl⟩ := h
      by_cases hk : i = cfgKey 0x0700 0 bit
      · have hbit : i % 65536 = bit := by rw [hk]; unfold cfgKey; omega
        have hn : aget l (cfgKey 0x0700 0 bit) = none := by
          unfold aget
          rw [Option.map_eq_none_iff, List.find?_eq_none]
          rintro e he hh
          have h1 := hrr.1 e he
          have h2 : e.1 = cfgKey 0x0700 0 bit := by simpa using hh
          have h3 : (i, w).1 = i := rfl
          omega
        rw [hn]
        simp only [hk, if_true, show (2:Nat) ^ 16 = 65536 from rfl, and_self, true_and]
        rw [hk] at hbit
        simp [hbit]
      · have hbit : i % 65536 ≠ bit := by
          intro hh; apply hk; unfold cfgKey; omega
        simp [hk, hbit]
    · rw [if_neg h, if_neg h, if_neg]
      rintro ⟨h1, h2, _⟩
      exact h ⟨h1.symm, h2.symm⟩

theorem copyList_get (t : Tab Nat) (hr : risingKeys t = true) {id inst bit : Nat} (hi : inst < 2 ^ 12) (hb : bit < 2 ^ 16) :
    cfgGet (copyList t) id inst bit =
      if id = 0x0701 ∧ inst = 0 then (if bit = 16 then 0 else cfgGet t 0x0700 0 bit)
      else if id = 0x0700 ∧ inst = 0 ∧ bit = 16 then 0 else cfgGet t id inst bit := by
  unfold copyList
  extract_lets pend t1 t2
  have hp : risingKeys pend = true := filter_rising hr
  have hl : ∀ e ∈ pend, e.1 / 2 ^ 16 = 0x0700 * 2 ^ 12 := by
    intro e he; simpa using (List.mem_filter.1 he).2
  have h2 : ∀ id inst bit, inst < 2 ^ 12 → bit < 2 ^ 16 → cfgGet t2 id inst bit = if id = 0x0701 ∧ inst = 0 then cfgGet t 0x0700 0 bit else cfgGet t id inst bit := by
    intro id inst bit hi hb
    rw [show t2 = _ from rfl, foldCopy pend t1 hp hl hi hb]
    have hk : cfgKey 0x0700 0 bit / 2 ^ 16 = 0x0700 * 2 ^ 12 := by unfold cfgKey; omega
    have hpa : aget pend (cfgKey 0x0700 0 bit) = aget t (cfgKey 0x0700 0 bit) := aget_filter _ _ _ (by intro v; simpa using hk)
    rw [hpa, show t1 = cfgReset t 0x0701 0 from rfl, cfgGet_cfgReset t (by decide) hi hb]
    by_cases h : id = 0x0701 ∧ inst = 0
    · obtain ⟨rfl, rfl⟩ := h
      simp only [and_self, if_true]
      have hf : fieldDefault 0x0701 0 bit = fieldDefault 0x0700 0 bit := rfl
      rw [hf]; rfl
    · have h' : ¬ (0x0701 = id ∧ 0 = inst) := fun hh => h ⟨hh.1.symm, hh.2.symm⟩
      rw [if_neg h, if_neg h, if_neg h']
  rw [cfgGet_cfgSet _ 0 (by decide) (by decide) hi hb, cfgGet_cfgSet _ 0 (by decide) (by decide) hi hb, h2 id inst bit hi hb]
  by_cases h : id = 0x0701 ∧ inst = 0
  · obtain ⟨rfl, rfl⟩ := h
    simp [eq_comm]
  · simp only [if_neg h]
    have h' : ¬ (0x0701 = id ∧ 0 = inst ∧ 16 = bit) := fun hh => h ⟨hh.1.symm, hh.2.1.symm⟩
    rw [if_neg h']
    simp only [eq_comm]

end Sys2Proof.Machine
end

