-- ==== Sys2Proof/Laws/Requests.lean ====
section
/-! SUPPORT. What comes of a memory request when it is taken: the checks of R87 in order, completion, CANCEL, and stages 2 and 3. -/

namespace Sys2Proof.Machine

/-- A request that completed: what of it changed. -/
def okEnd (q0 q : Req) (st : Nat) (d : Option Block512) : Prop :=
  q.fixed = q0.fixed ∧ q.id = q0.id ∧ q.stage = .ready ∧ q.status = st ∧ q.rdata = (if carriesData q0.op st then some (d.getD 0) else none) ∧ q.cancelHit = q0.cancelHit

theorem find_last {α : Type} (p : α → Bool) (l : List α) (a : α) (hl : ∀ x ∈ l, p x = false) (ha : p a = true) : (l ++ [a]).find? p = some a := by
  induction l with
  | nil => simp [ha]
  | cons x l ih =>
    rw [List.cons_append, List.find?_cons, hl x (by simp)]
    exact ih (fun y hy => hl y (List.mem_cons_of_mem _ hy))

theorem map_last (l : List Req) (a : Req) (n : Nat) (g : Req → Req) (hl : ∀ x ∈ l, x.id ≠ n) (ha : a.id = n) :
    (l ++ [a]).map (fun r => if r.id == n then g r else r) = l ++ [g a] := by
  rw [List.map_append]
  congr 1
  · rw [List.map_congr_left (g := id)]
    · simp
    · intro x hx; simp [hl x hx]
  · simp [ha]

theorem modReq_last (y : Block) (l : List Req) (a : Req) (n : Nat) (g : Req → Req) (hy : y.reqs = l ++ [a]) (hl : ∀ x ∈ l, x.id ≠ n) (ha : a.id = n) :
    (y.modReq n g).reqs = l ++ [g a] := by
  show y.reqs.map _ = _
  rw [hy]; exact map_last l a n g hl ha

theorem finish_last (y : Block) (l : List Req) (a : Req) (n : Nat) (i : Fin 4) (st : Nat) (d : Option Block512) (hy : y.reqs = l ++ [a])
    (hl : ∀ x ∈ l, x.id ≠ n) (ha : a.id = n) (hi : a.inlet = some i) (hs : a.stage ≠ .ready) :
    ∃ q, (y.finish n st d).reqs = l ++ [q] ∧ okEnd a q st d := by
  have hr : y.req? n = some a := by
    unfold Block.req?
    rw [hy]; exact find_last _ l a (fun x hx => by simp [hl x hx]) (by simp [ha])
  unfold Block.finish
  rw [hr]
  dsimp only
  rw [if_neg hs, hi]
  dsimp only
  refine ⟨_, modReq_last y l a n _ hy hl ha, ?_⟩
  exact ⟨rfl, rfl, rfl, rfl, rfl, rfl⟩

/-- What decides a request's way through the stages. -/
def setting (b : Block) : (Tab Nat × Bool × Tab PondRt × Tab Slot) × (Clk × Tab Bool × List Chan × Cache) := ((b.cfg, b.drain, b.ponds, b.slots), (b.clk, b.tiles, b.chans, b.cache))

theorem setting_sans {x y : Block} (h : x.sansLog = y.sansLog) : setting x = setting y := by
  have := congrArg setting h; exact this

theorem sample_keeps (b : Block) (op : Op) (c : Nat) (f : Bool) : ∃ sn, (b.sample op c f).1 = { b with snd := sn } := by
  unfold Block.sample
  split
  · exact ⟨b.snd, rfl⟩
  · split
    · exact ⟨_, rfl⟩
    · split
      · exact ⟨b.snd, rfl⟩
      · split
        · exact ⟨_, rfl⟩
        · exact ⟨_, rfl⟩

/-- A request taken, after its credit, its count and its sampling. -/
def goTake (m : Block) (r : Req) (i : Fin 4) (h : Hdr) (f : SramFault) : Block :=
  match m.steps1to7 i.val h with
  | some (step, st, reason) =>
    let r := { r with tracked := step == 5 || step == 7, dup := step == 6 }
    let b := { m with reqs := m.reqs ++ [r] }.finish r.id st none
    if reason == 0 then b else b.event 0x2B [(1, i.val), (1, h.requester), (1, reason), (2, h.tag)]
  | none =>
    let r := { r with tracked := true, counted := !(r.op == .cancel) }
    { m with reqs := m.reqs ++ [r] }.admitReq r f

/-- The block once the credit is spent and the request counted. -/
def preTake (b : Block) (i : Fin 4) (h : Hdr) : Block :=
  (b.modInlet i.val (fun n => { n with reqCred := n.reqCred - (if n.reqVoid then 0 else 1) })).count 0x01 (some h.cls) (some h.requester) 1

/-- The sampling of a request (R446). -/
def smp (b : Block) (i : Fin 4) (h : Hdr) (data : Block512) (mask : BitVec 64) : Block × Bool × Bool :=
  if h.parityOk && h.op ≤ 2 then b.sample (b.newReq i h data mask).op h.cls h.force else (b, false, false)

theorem take_go (b : Block) (i : Fin 4) (h : Hdr) (data : Block512) (mask : BitVec 64) (f : SramFault) :
    b.take i h data mask f = goTake { (smp (preTake b i h) i h data mask).1 with nextId := (preTake b i h).nextId + 1 }
      { (preTake b i h).newReq i h data mask with snd := { sampled := (smp (preTake b i h) i h data mask).2.1, forced := (smp (preTake b i h) i h data mask).2.2 } } i h f := rfl

/-- The block before the request is admitted. -/
theorem take_shape (b : Block) (i : Fin 4) (hd : Hdr) (data : Block512) (mask : BitVec 64) (f : SramFault) :
    ∃ (m : Block) (sn : Sound), m.reqs = b.reqs ∧ setting m = setting b ∧ m.frame = b.frame ∧
      b.take i hd data mask f = goTake m { b.newReq i hd data mask with snd := sn } i hd f := by
  rw [take_go]
  obtain ⟨c, hc⟩ : ∃ c, preTake b i hd = { b.modInlet i.val (fun n => { n with reqCred := n.reqCred - (if n.reqVoid then 0 else 1) }) with ctr := c } := count_only _ 0x01 (some hd.cls) (some hd.requester) 1
  generalize preTake b i hd = y at hc
  obtain ⟨sn, hs⟩ : ∃ sn, (smp y i hd data mask).1 = { y with snd := sn } := by
    unfold smp
    split
    · exact sample_keeps _ _ _ _
    · exact ⟨y.snd, rfl⟩
  generalize smp y i hd data mask = z at hs
  have hr : y.newReq i hd data mask = b.newReq i hd data mask := by rw [hc]; rfl
  rw [hr]
  refine ⟨_, _, ?_, ?_, ?_, rfl⟩
  · rw [hs, hc]; rfl
  · rw [hs, hc]; rfl
  · rw [hs, hc]
    exact modInlet_frame b i.val _ (fun n => rfl)

/-- The first check of steps 1 to 7 of R87 that fails, with its status and reason code. -/
def checks (b : Block) (i : Fin 4) (hd : Hdr) : Option (Bool × Nat × Nat) :=
  [(!hd.parityOk, stBadRequest, 1), (decide (4 < hd.op), stBadRequest, 2),
        (decide (128 ≤ hd.requester) || b.level hd.requester == 0, stBadRequest, 3), (!(b.boundTo hd.requester i), stBadRequest, 4),
        (decide (b.level hd.requester < hd.level), stUnsupported, 0),
        (b.reqs.any (fun r => r.tracked && r.requester == hd.requester && r.tag == hd.tag), stBadRequest, 5),
        (!(hd.op == 3) && decide (b.f 0x0401 hd.requester 0 ≤ b.outstanding hd.requester), stBadRequest, 6)].find? (·.1)

theorem steps_checks (b : Block) (i : Fin 4) (hd : Hdr) :
    (b.steps1to7 i.val hd).map (fun x => (true, x.2.1, x.2.2)) = checks b i hd ∧
      ∀ x, b.steps1to7 i.val hd = some x → (x.1 == 6) = (x.2.2 == 5) ∧ 0x10 ≤ x.2.1 := by
  unfold Block.steps1to7 checks
  simp only [List.find?_cons, List.find?_nil]
  cases (!hd.parityOk)
  · rw [if_neg (by decide)]
    cases hq : decide (4 < hd.op)
    · rw [if_neg (by simpa using hq)]
      cases h3 : (decide (128 ≤ hd.requester) || b.level hd.requester == 0)
      · rw [if_neg (by decide)]
        cases (!(b.boundTo hd.requester i))
        · rw [if_neg (by decide)]
          cases h5 : decide (b.level hd.requester < hd.level)
          · rw [if_neg (by simpa using h5)]
            cases (b.reqs.any (fun r => r.tracked && r.requester == hd.requester && r.tag == hd.tag))
            · rw [if_neg (by decide)]
              cases (!(hd.op == 3) && decide (b.f 0x0401 hd.requester 0 ≤ b.outstanding hd.requester))
              · rw [if_neg (by decide)]; exact ⟨rfl, fun x h => (by cases h)⟩
              · rw [if_pos rfl]; exact ⟨rfl, fun x h => (by cases h; decide)⟩
            · rw [if_pos rfl]; exact ⟨rfl, fun x h => (by cases h; decide)⟩
          · rw [if_pos (by simpa using h5)]; exact ⟨rfl, fun x h => (by cases h; decide)⟩
        · rw [if_pos rfl]; exact ⟨rfl, fun x h => (by cases h; decide)⟩
      · rw [if_pos rfl]; exact ⟨rfl, fun x h => (by cases h; decide)⟩
    · rw [if_pos (by simpa using hq)]; exact ⟨rfl, fun x h => (by cases h; decide)⟩
  · rw [if_pos rfl]; exact ⟨rfl, fun x h => (by cases h; decide)⟩

theorem fold_setting {m b : Block} (h : setting m = setting b) : m.cfg = b.cfg ∧ m.drain = b.drain ∧ m.ponds = b.ponds ∧ m.slots = b.slots ∧
    m.clk = b.clk ∧ m.tiles = b.tiles ∧ m.chans = b.chans ∧ m.cache = b.cache := by
  unfold setting at h
  simp only [Prod.mk.injEq] at h
  obtain ⟨⟨h1, h2, h3, h4⟩, h5, h6, h7, h8⟩ := h
  exact ⟨h1, h2, h3, h4, h5, h6, h7, h8⟩

theorem steps_same {m b : Block} (h : setting m = setting b) (hr : m.reqs = b.reqs) (i : Nat) (hd : Hdr) : m.steps1to7 i hd = b.steps1to7 i hd := by
  obtain ⟨h1, h2, h3, h4, h5, h6, h7, h8⟩ := fold_setting h
  unfold Block.steps1to7 Block.level Block.boundTo Block.outstanding Block.f Block.slot
  rw [h1, h4, hr]

theorem steps2_same {m b : Block} (h : setting m = setting b) (r : Req) : m.steps8to12 r = b.steps8to12 r := by
  obtain ⟨h1, h2, h3, h4, h5, h6, h7, h8⟩ := fold_setting h
  unfold Block.steps8to12 Block.access Block.pondRt Block.flag Block.f
  rw [h1, h2, h3]

/-- The first of steps 8 to 12 of R87 that fails, with its status. -/
def refuses (b : Block) (op : Op) (hd : Hdr) : Option (Bool × Nat) :=
  let write := op == .writeFull || op == .writePartial
  let pond := pondOf b.cfg hd.addr
  [(b.drain && decide (2 ≤ hd.cls), stShed), (pond == none, stAddressInvalid),
        (pond.any (fun p => (b.pondRt p).lost || (b.pondRt p).marked), stPondLost),
        (pond.any (fun p => b.access hd.requester p == 0 || write && !(b.access hd.requester p == 2)), stAccessDenied),
        (pond.any (fun p => write && b.flag 0x0300 p 48), stWriteProtected)].find? (·.1)

theorem steps2_refuses (b : Block) (r : Req) (hd : Hdr) (hc : r.cls = hd.cls) (hb : r.blk = hd.addr) (hi : r.inlet.isSome = true)
    (hq : r.requester = hd.requester) :
    (∀ st, b.steps8to12 r = .inl st → refuses b r.op hd = some (true, st) ∧ 0x10 ≤ st) ∧
    (∀ p, b.steps8to12 r = .inr p → refuses b r.op hd = none ∧ pondOf b.cfg hd.addr = some p) := by
  unfold Block.steps8to12 refuses Req.isWrite
  rw [hc, hb, hi, hq]
  simp only [List.find?_cons, List.find?_nil, Bool.true_and]
  cases h1 : (b.drain && decide (2 ≤ hd.cls))
  · rw [if_neg (by simp)]
    cases h2 : pondOf b.cfg hd.addr with
    | none => exact ⟨fun st h => (by cases h; exact ⟨rfl, by decide⟩), fun p h => (by cases h)⟩
    | some p =>
      simp only [Option.any_some, show ((some p == none) = false) from rfl]
      cases h3 : ((b.pondRt p).lost || (b.pondRt p).marked)
      · rw [if_neg (by decide)]
        cases h4 : (b.access hd.requester p == 0 || (r.op == Op.writeFull || r.op == Op.writePartial) && !(b.access hd.requester p == 2))
        · rw [if_neg (by decide)]
          cases h5 : ((r.op == Op.writeFull || r.op == Op.writePartial) && b.flag 768 p 48)
          · rw [if_neg (by decide)]
            exact ⟨fun st h => (by cases h), fun q h => (by cases h; exact ⟨rfl, rfl⟩)⟩
          · rw [if_pos rfl]
            exact ⟨fun st h => (by cases h; exact ⟨rfl, by decide⟩), fun p h => (by cases h)⟩
        · rw [if_pos rfl]
          exact ⟨fun st h => (by cases h; exact ⟨rfl, by decide⟩), fun p h => (by cases h)⟩
      · rw [if_pos rfl]
        exact ⟨fun st h => (by cases h; exact ⟨rfl, by decide⟩), fun p h => (by cases h)⟩
  · rw [if_pos rfl]
    exact ⟨fun st h => (by cases h; exact ⟨rfl, by decide⟩), fun p h => (by cases h)⟩

theorem carries_high (op : Op) (st : Nat) (h : 0x10 ≤ st) : carriesData op st = false := by
  unfold carriesData stOk stCorrected stUnwritten
  have h1 : (st == 0) = false := by simp; omega
  have h2 : (st == 1) = false := by simp; omega
  have h3 : (st == 2) = false := by simp; omega
  rw [h1, h2, h3]; simp

theorem unwait_frame (b : Block) (id : Nat) : (b.unwait id).frame = b.frame := rfl

theorem unwait_reqs (b : Block) (id : Nat) : (b.unwait id).reqs = b.reqs := rfl

theorem leaveFill_frame (b : Block) (id : Nat) : (b.leaveFill id).1.frame = b.frame := by
  unfold Block.leaveFill
  split
  · rfl
  · extract_lets started
    clear_value started
    split
    · rfl
    · split
      · dsimp only; rw [withdraw_frame]; rfl
      · rfl

theorem removeReq_frame (b : Block) (r : Req) : (b.removeReq r).1.frame = b.frame := by
  unfold Block.removeReq
  extract_lets gone
  have hg : ∀ x : Block × Bool, x.1.frame = b.frame → (gone x).1.frame = b.frame := by
    intro x hx
    show (if x.2 = true then (x.1.finish r.id stCancelled none, true) else (b, false)).1.frame = _
    split
    · rw [finish_frame, hx]
    · rfl
  split
  · rfl
  · split
    · rfl
    · exact hg _ (withdraw_frame _ _)
  · exact hg _ (leaveFill_frame _ _)
  · exact hg _ (unwait_frame _ _)

theorem cancel_frame (b : Block) (id rq tg : Nat) : (b.cancel id rq tg).frame = b.frame := by
  unfold Block.cancel
  split
  · exact finish_frame _ _ _ _
  · dsimp only
    rw [finish_frame]
    refine (modReq_frame _ _ _ ?_).trans (removeReq_frame _ _)
    intro _; rfl

theorem admit_frame (b : Block) (r : Req) (f : SramFault) : (b.admitReq r f).frame = b.frame := by
  unfold Block.admitReq
  split
  · rw [finish_frame, parity_frame]
  · split
    · exact cancel_frame _ _ _ _
    · exact stageTo_frame _ _ _
    · extract_lets bad b1 sr
      have h1 : b1.frame = b.frame := by
        show (if bad = true then _ else b).frame = _
        split
        · refine (modReq_frame _ _ _ ?_).trans (parity_frame _ _ _ _ _)
          intro _; rfl
        · rfl
      clear_value b1
      split
      · exact h1
      · rw [stage2_frame, h1]

theorem mem_of_ledger (e : Block) (l : List Req) (q0 : Req) (h : e.ledger = l ++ [q0.fixed]) : ∃ q ∈ e.reqs, q.fixed = q0.fixed := by
  have : q0.fixed ∈ e.ledger := by rw [h]; simp
  unfold Block.ledger at this
  obtain ⟨q, hq, he⟩ := List.mem_map.1 this
  exact ⟨q, (List.mem_filter.1 hq).1, he⟩

/-- A FENCE of the requester is in the list. -/
def fence0 (l : List Req) (rq : Nat) : Bool := l.any (fun x => x.requester == rq && x.stage == .fencing)

theorem before_last (y : Block) (l : List Req) (a : Req) (hy : y.reqs = l ++ [a]) (hl : ∀ x ∈ l, x.id ≠ a.id) : y.before a.id = l := by
  unfold Block.before
  rw [hy, List.takeWhile_append_of_pos]
  · simp
  · intro x hx; simp [hl x hx]

theorem parity_reqs (b : Block) (m r t o : Nat) : (b.parity m r t o).reqs = b.reqs := by
  unfold Block.parity
  rw [event_reqs]

theorem parity_setting (b : Block) (m r t o : Nat) : setting (b.parity m r t o) = setting b := by
  unfold Block.parity
  exact (setting_sans (event_sansLog _ _ _)).trans rfl

theorem modReq_setting (b : Block) (n : Nat) (g : Req → Req) : setting (b.modReq n g) = setting b := rfl

theorem police_off (b : Block) (rq i cls cost : Nat) (h : (polOf b.cfg rq).mode = 0) : (b.police rq i cls cost).2 = .off ∧
    (b.police rq i cls cost).1.reqs = b.reqs ∧ (b.police rq i cls cost).1.placeAt = b.placeAt ∧ (b.police rq i cls cost).1.tiles = b.tiles ∧ (b.police rq i cls cost).1.drain = b.drain := by
  unfold Block.police
  extract_lets p r b1 ev b2
  have hr : r = (b.slot rq, .off) := by
    show Slot.police _ _ _ _ _ = _
    unfold Slot.police; rw [if_pos h]
  obtain ⟨c, hc⟩ := count_only b1 ev (some cls) (some rq) 1
  have h2 : b2 = { b1 with ctr := c } := hc
  rw [if_neg (by rw [hr]; show ¬ (Colour.off = Colour.red); decide)]
  refine ⟨by rw [hr], ?_, ?_, ?_, ?_⟩
  · show b2.reqs = _; rw [h2]; rfl
  · show b2.placeAt = _; rw [h2]; rfl
  · show b2.tiles = _; rw [h2]; rfl
  · show b2.drain = _; rw [h2]; rfl

theorem servedClass_off (p : Pol) (c : Nat) : servedClass p c .off = c := rfl

theorem written_of (x y : Block) (h1 : x.placeAt = y.placeAt) (h2 : x.tiles = y.tiles) (p k : Nat) : x.written p k = y.written p k := by
  unfold Block.written; rw [h1, h2]

/-- Stage 3 on the last request, unpoliced. -/
theorem stage3_last (y : Block) (l : List Req) (a : Req) (i : Fin 4) (f : SramFault) (p : Nat) (hy : ∃ a', y.reqs = l ++ [a'] ∧ a'.id = a.id ∧ a'.inlet = some i ∧ a'.stage ≠ .ready ∧ a'.fixed = a.fixed)
    (hl : ∀ x ∈ l, x.id ≠ a.id) (hi : a.inlet = some i) (hp : a.pond = some p) (h63 : p ≠ 63) (hm : (polOf y.cfg a.requester).mode = 0)
    (hd : y.drain = true → a.cls < 2) :
    (a.op = .read → y.written p a.blk = false → ∃ q, (y.stage3 a f).reqs = l ++ [q] ∧ q.fixed = a.fixed ∧ q.stage = .ready ∧ q.status = stUnwritten ∧ q.rdata = some 0) ∧
    (a.op = .writePartial → a.mask = 0 → a.status ≠ stErrorInternal → ∃ q, (y.stage3 a f).reqs = l ++ [q] ∧ q.fixed = a.fixed ∧ q.stage = .ready ∧ q.status = stOk) := by
  obtain ⟨a', e1, e2, e3, e4, e5⟩ := hy
  obtain ⟨p1, p2, p3, p4, p5⟩ := police_off y a.requester i.val a.cls a.op.cost hm
  unfold Block.stage3
  rw [hi]
  dsimp only
  generalize y.police a.requester i.val a.cls a.op.cost = x at p1 p2 p3 p4 p5
  rw [p1, servedClass_off]
  have hnr : ¬ (Colour.off = Colour.red) := by decide
  rw [if_neg hnr]
  obtain ⟨a2, f1, f2, f3, f4, f5⟩ : ∃ a2, (x.1.modReq a.id (fun r => { r with
      colour := .off, coloured := true, served := a.cls, snd := { r.snd with tPolice := some y.clk.cclk } })).reqs = l ++ [a2] ∧ a2.id = a.id ∧ a2.inlet = some i ∧ a2.stage ≠ .ready ∧ a2.fixed = a.fixed :=
    ⟨_, modReq_last x.1 l a' a.id _ (p2.trans e1) hl e2, e2, e3, e4, e5⟩
  generalize hz : x.1.modReq a.id _ = z at *
  have z3 : z.placeAt = y.placeAt := by rw [← hz, ← p3]; rfl
  have z4 : z.tiles = y.tiles := by rw [← hz, ← p4]; rfl
  have z5 : z.drain = y.drain := by rw [← hz, ← p5]; rfl
  rw [if_neg (by
    intro h
    rw [Bool.and_eq_true, decide_eq_true_eq] at h
    have := hd (by rw [← z5]; exact h.1)
    omega)]
  have fin : ∀ st d, ∃ q, (z.finish a.id st d).reqs = l ++ [q] ∧ okEnd a2 q st d := by
    intro st d
    exact finish_last z l a2 a.id i st d f1 hl f2 f3 f4
  have h63' : ((p == 63) = false) := by simpa using h63
  refine ⟨?_, ?_⟩
  · intro ho hw
    unfold Block.after3
    dsimp only
    rw [hp, Option.getD_some, if_pos (by rw [written_of z y z3 z4, hw, h63', ho]; rfl)]
    obtain ⟨q, q1, q2, q3, q4, q5, q6, q7⟩ := fin stUnwritten (some 0)
    refine ⟨q, q1, q2.trans f5, q4, q5, ?_⟩
    have : a2.op = a.op := (congrArg Req.op f5 :)
    rw [q6, this, ho]; rfl
  · intro ho hmk hst
    unfold Block.after3
    dsimp only
    rw [if_neg (by rw [ho]; simp), if_pos (by unfold Req.idle; rw [ho, hmk]; rfl)]
    have hg : (Req.good { a with colour := .off, coloured := true, served := a.cls } stOk) = stOk := if_neg hst
    obtain ⟨q, q1, q2, q3, q4, q5, q6, q7⟩ := fin stOk none
    have q1' : (z.finish a.id (Req.good { a with colour := .off, coloured := true, served := a.cls } stOk) none).reqs = l ++ [q] := by rw [hg]; exact q1
    exact ⟨q, q1', q2.trans f5, q4, q5⟩

theorem stage2_last (y : Block) (l : List Req) (a a' : Req) (i : Fin 4) (f : SramFault) (hd : Hdr) (hy : y.reqs = l ++ [a']) (h1 : a'.id = a.id)
    (h2 : a'.inlet = some i) (h3 : a'.stage ≠ .ready) (h4 : a'.fixed = a.fixed)
    (hl : ∀ x ∈ l, x.id ≠ a.id) (hi : a.inlet = some i) (hc : a.cls = hd.cls) (hb : a.blk = hd.addr) (hq : a.requester = hd.requester) :
    (∀ c, refuses y a.op hd = some c → ∃ q, (y.stage2 a f).reqs = l ++ [q] ∧ q.fixed = a.fixed ∧ q.stage = .ready ∧ q.status = c.2) ∧
    (refuses y a.op hd = none → (∀ r ∈ l, r.requester = hd.requester → r.blk ≠ hd.addr) → (polOf y.cfg hd.requester).mode = 0 →
      ∀ p, pondOf y.cfg hd.addr = some p → p ≠ 63 →
      (a.op = .read → y.written p hd.addr = false → ∃ q, (y.stage2 a f).reqs = l ++ [q] ∧ q.fixed = a.fixed ∧ q.stage = .ready ∧ q.status = stUnwritten ∧ q.rdata = some 0) ∧
      (a.op = .writePartial → a.mask = 0 → a.status ≠ stErrorInternal → ∃ q, (y.stage2 a f).reqs = l ++ [q] ∧ q.fixed = a.fixed ∧ q.stage = .ready ∧ q.status = stOk)) := by
  obtain ⟨r1, r2⟩ := steps2_refuses y a hd hc hb (by rw [hi]; rfl) hq
  refine ⟨?_, ?_⟩
  · intro c hcc
    unfold Block.stage2
    cases hs : y.steps8to12 a with
    | inr p => rw [(r2 p hs).1] at hcc; cases hcc
    | inl st =>
      rw [(r1 st hs).1] at hcc
      cases hcc
      dsimp only
      obtain ⟨q, q1, q2, q3, q4, q5, q6, q7⟩ := finish_last y l a' a.id i st none hy hl h1 h2 h3
      exact ⟨q, q1, q2.trans h4, q4, q5⟩
  · intro hn hsep hm p hp h63
    unfold Block.stage2
    cases hs : y.steps8to12 a with
    | inl st => rw [(r1 st hs).1] at hn; cases hn
    | inr p' =>
      have hp' : p' = p := by
        have := (r2 p' hs).2
        rw [hp] at this; exact (Option.some.inj this).symm
      subst hp'
      dsimp only
      have hdr : y.drain = true → a.cls < 2 := by
        intro hdr
        by_contra hh
        have : refuses y a.op hd = some (true, stShed) := by
          unfold refuses
          simp only [List.find?_cons]
          rw [hdr, decide_eq_true (show 2 ≤ hd.cls by omega)]; rfl
        rw [this] at hn; cases hn
      have hz : (y.modReq a.id (fun r => { r with pond := some p' })).reqs = l ++ [{ a' with pond := some p' }] := modReq_last y l a' a.id _ hy hl h1
      have z1 : (y.modReq a.id (fun r => { r with pond := some p' })).cfg = y.cfg := rfl
      have z2 : (y.modReq a.id (fun r => { r with pond := some p' })).drain = y.drain := rfl
      have z3 : ∀ k, (y.modReq a.id (fun r => { r with pond := some p' })).written p' k = y.written p' k := fun k => written_of (y.modReq a.id (fun r => { r with pond := some p' })) y rfl rfl p' k
      generalize y.modReq a.id (fun r => { r with pond := some p' }) = z at *
      have hbef : z.before a.id = l := before_last z l { a' with pond := some p' } hz (by intro x hx; rw [h1]; exact hl x hx) |> (h1 ▸ ·)
      rw [if_neg (by
        unfold Block.ordered?
        show ¬ ((z.before a.id).any _) = true
        rw [hbef, List.any_eq_true]
        rintro ⟨x, hx, hxx⟩
        simp only [Bool.and_eq_true, beq_iff_eq] at hxx
        exact hsep x hx (hxx.1.1.1.trans hq) (hxx.1.1.2.trans hb))]
      have hst := stage3_last z l { a with pond := some p' } i f p' ⟨_, hz, h1, h2, h3, h4⟩ hl hi rfl h63 (by rw [z1]; show (polOf y.cfg a.requester).mode = 0; rw [hq]; exact hm) (by rw [z2]; exact hdr)
      refine ⟨?_, ?_⟩
      · intro ho hw
        have e : z.stage2t { a with pond := some p' } f = z.stage3 { a with pond := some p' } f := by
          unfold Block.stage2t
          dsimp only
          rw [if_neg]
          unfold Req.isWrite
          rw [ho]; simp
        rw [e]
        exact hst.1 ho (by rw [z3]; show y.written p' a.blk = false; rw [hb]; exact hw)
      · intro ho hmk hstt
        have e : z.stage2t { a with pond := some p' } f = z.stage3 { a with pond := some p' } f := by
          unfold Block.stage2t
          dsimp only
          rw [if_neg]
          unfold Req.isWrite Req.idle
          rw [ho, hmk]; simp
        rw [e]
        exact hst.2 ho hmk hstt

theorem removeReq_none (b : Block) (t : Req) (h : t.stage = .ready) : b.removeReq t = (b, false) := by
  unfold Block.removeReq
  rw [h]

theorem removeReq_waits (b : Block) (t : Req) (h1 : t.stage ≠ .ready) (h2 : t.stage ≠ .chan) (h3 : t.stage ≠ .joined) :
    b.removeReq t = ((b.unwait t.id).finish t.id stCancelled none, true) := by
  unfold Block.removeReq
  split
  · rename_i h; exact absurd h h1
  · rename_i h; exact absurd h h2
  · rename_i h; exact absurd h h3
  · rfl

theorem req?_mem {b : Block} {n : Nat} {r : Req} (h : b.req? n = some r) : r ∈ b.reqs ∧ r.id = n := by
  unfold Block.req? at h
  exact ⟨List.mem_of_find?_eq_some h, by simpa using List.find?_some h⟩

/-- A finished request, wherever it stands. -/
theorem finish_at (y : Block) (r : Req) (st : Nat) (d : Option Block512) (hm : r ∈ y.reqs) (hn : (y.reqs.map Req.id).Nodup) (hs : r.stage ≠ .ready) :
    ((y.finish r.id st d).reqs.map Req.id).Sublist (y.reqs.map Req.id) ∧
    (∀ x ∈ (y.finish r.id st d).reqs, x.id = r.id → x.stage = .ready ∧ x.status = st) ∧
    (∀ x ∈ y.reqs, x.id ≠ r.id → x ∈ (y.finish r.id st d).reqs) ∧ (∀ x ∈ (y.finish r.id st d).reqs, x.id ≠ r.id → x ∈ y.reqs) := by
  have uniq : ∀ x ∈ y.reqs, x.id = r.id → x = r := fun x hx he => List.inj_on_of_nodup_map hn hx hm he
  have hr : y.req? r.id = some r := by
    cases h : y.req? r.id with
    | none =>
      unfold Block.req? at h
      have := List.find?_eq_none.1 h r hm
      simp at this
    | some x => rw [uniq x (req?_mem h).1 (req?_mem h).2]
  unfold Block.finish
  rw [hr]
  dsimp only
  rw [if_neg hs]
  cases hi : r.inlet with
  | some i =>
    dsimp only
    refine ⟨?_, ?_, ?_, ?_⟩
    · show (List.map Req.id (y.reqs.map _)).Sublist _
      rw [List.map_map]
      have : (Req.id ∘ fun x : Req => if x.id == r.id then { x with stage := .ready, status := st, rdata := if carriesData r.op st then some (d.getD 0) else none, snd := if (r.op == Op.writeFull || r.op == Op.writePartial) && st < 0x20 then { x.snd with tData := some y.clk.cclk } else x.snd } else x) = Req.id := by
        funext x
        simp only [Function.comp]
        split <;> rfl
      rw [this]
    · intro x hx he
      obtain ⟨z, hz, rfl⟩ := List.mem_map.1 hx
      by_cases hzz : (z.id == r.id) = true
      · rw [if_pos hzz]; exact ⟨rfl, rfl⟩
      · rw [if_neg hzz] at he; simp [he] at hzz
    · intro x hx he
      refine List.mem_map.2 ⟨x, hx, ?_⟩
      rw [if_neg (by simpa using he)]
    · intro x hx he
      obtain ⟨z, hz, rfl⟩ := List.mem_map.1 hx
      by_cases hzz : (z.id == r.id) = true
      · rw [if_pos hzz] at he
        exfalso; apply he
        simpa using hzz
      · rw [if_neg hzz]; exact hz
  | none =>
    dsimp only
    refine ⟨?_, ?_, ?_, ?_⟩
    · exact (List.filter_sublist (l := y.reqs)).map _
    · intro x hx he
      obtain ⟨hx1, hx2⟩ := List.mem_filter.1 hx
      rw [uniq x hx1 he, hi] at hx2
      simp at hx2
    · intro x hx he
      refine List.mem_filter.2 ⟨hx, ?_⟩
      simp [he]
    · intro x hx _
      exact (List.mem_filter.1 hx).1

theorem shRefund_reqs (b : Block) (c k n : Nat) : (b.shRefund c k n).reqs = b.reqs := by
  unfold Block.shRefund; split <;> rfl

theorem arbAdd_reqs (b : Block) (c rq k n : Nat) : (b.arbAdd c rq k n).reqs = b.reqs := by
  unfold Block.arbAdd Block.visAdd
  split
  · dsimp only
    split
    · split <;> rfl
    · rfl
  · rfl

theorem countC_reqs (b : Block) (c ev : Nat) (x y z : Option Nat) (n : Nat) : (b.countC c ev x y z n).reqs = b.reqs := by
  obtain ⟨k, h⟩ := countC_only b c ev x y z n
  rw [h]

theorem withdraw_reqs (b : Block) (id : Nat) : (b.withdraw id).1.reqs = b.reqs := by
  unfold Block.withdraw
  split
  · rfl
  · extract_lets gone b1 b2 b3
    have hg : ∀ x : Block, (gone x).reqs = x.reqs := fun _ => rfl
    split
    · exact hg b
    · exact hg b
    · have h1 : b1.reqs = b.reqs := by
        show (if _ then _ else b).reqs = _
        split
        · exact shRefund_reqs _ _ _ _
        · rfl
      have h2 : b2.reqs = b1.reqs := by
        show (Block.countC _ _ _ _ _ _ _).reqs = _
        rw [countC_reqs, arbAdd_reqs]
      exact (hg b2).trans (h2.trans h1)
    · split
      · rfl
      · exact hg b

theorem leaveFill_reqs (b : Block) (id : Nat) : (b.leaveFill id).1.reqs = b.reqs := by
  unfold Block.leaveFill
  split
  · rfl
  · extract_lets started
    clear_value started
    split
    · rfl
    · split
      · dsimp only; rw [withdraw_reqs]; rfl
      · rfl

theorem removeReq_mem (y : Block) (r a : Req) (hm : r ∈ y.reqs) (hn : (y.reqs.map Req.id).Nodup) (ha : a ∈ y.reqs) (hne : a.id ≠ r.id) :
    a ∈ (y.removeReq r).1.reqs ∧ ((y.removeReq r).1.reqs.map Req.id).Nodup := by
  by_cases hs : r.stage = .ready
  · rw [removeReq_none y r hs]; exact ⟨ha, hn⟩
  · unfold Block.removeReq
    extract_lets gone
    have hg : ∀ x : Block × Bool, x.1.reqs = y.reqs → a ∈ (gone x).1.reqs ∧ ((gone x).1.reqs.map Req.id).Nodup := by
      intro x hx
      show a ∈ (if x.2 = true then (x.1.finish r.id stCancelled none, true) else (y, false)).1.reqs ∧ ((if x.2 = true then (x.1.finish r.id stCancelled none, true) else (y, false)).1.reqs.map Req.id).Nodup
      split
      · obtain ⟨g1, g2, g3, g4⟩ := finish_at x.1 r stCancelled none (by rw [hx]; exact hm) (by rw [hx]; exact hn) hs
        exact ⟨g3 a (by rw [hx]; exact ha) hne, g1.nodup (by rw [hx]; exact hn)⟩
      · exact ⟨ha, hn⟩
    split
    · exact ⟨ha, hn⟩
    · split
      · exact ⟨ha, hn⟩
      · exact hg _ (withdraw_reqs _ _)
    · exact hg _ (leaveFill_reqs _ _)
    · exact hg _ (unwait_reqs _ _)

/-- A finish of the request that holds this number. -/
theorem finish_self (z : Block) (a : Req) (i : Fin 4) (v : Bool) (hm : a ∈ z.reqs) (hn : (z.reqs.map Req.id).Nodup) (hs : a.stage ≠ .ready) (hi : a.inlet = some i) :
    let w := (z.modReq a.id (fun x => { x with cancelHit := v })).finish a.id stOk none
    (∃ q ∈ w.reqs, q.fixed = a.fixed ∧ q.id = a.id ∧ q.stage = .ready ∧ q.status = stOk ∧ q.cancelHit = v) ∧ ∀ x ∈ w.reqs, x.id ≠ a.id → x ∈ z.reqs := by
  intro w
  have hm' : { a with cancelHit := v } ∈ (z.modReq a.id (fun x => { x with cancelHit := v })).reqs :=
    List.mem_map.2 ⟨a, hm, by simp⟩
  have hid : (z.modReq a.id (fun x => { x with cancelHit := v })).reqs.map Req.id = z.reqs.map Req.id := by
    show List.map Req.id (z.reqs.map _) = _
    rw [List.map_map]
    congr 1
    funext x
    simp only [Function.comp]
    split <;> rfl
  obtain ⟨k1, k2, k3, k4⟩ := finish_at _ _ stOk none hm' (by rw [hid]; exact hn) hs
  have hother : ∀ x ∈ (z.modReq a.id (fun x => { x with cancelHit := v })).reqs, x.id ≠ a.id → x ∈ z.reqs := by
    intro x hx hne
    obtain ⟨u, hu, rfl⟩ := List.mem_map.1 hx
    by_cases hww : (u.id == a.id) = true
    · rw [if_pos hww] at hne
      exfalso; apply hne
      simpa using hww
    · rw [if_neg hww]; exact hu
  have hq : ∃ q ∈ w.reqs, q.fixed = a.fixed ∧ q.id = a.id ∧ q.cancelHit = v := by
    have hr : (z.modReq a.id (fun x => { x with cancelHit := v })).req? a.id = some { a with cancelHit := v } := by
      cases h : (z.modReq a.id (fun x => { x with cancelHit := v })).req? a.id with
      | none =>
        unfold Block.req? at h
        have := List.find?_eq_none.1 h _ hm'
        simp at this
      | some x =>
        have := List.inj_on_of_nodup_map (by rw [hid]; exact hn) (req?_mem h).1 hm' (req?_mem h).2
        rw [this]
    show ∃ q ∈ (Block.finish _ _ _ _).reqs, _
    unfold Block.finish
    rw [hr]
    dsimp only
    rw [if_neg hs, hi]
    dsimp only
    exact ⟨_, List.mem_map.2 ⟨_, hm', if_pos (by simp)⟩, rfl, rfl, rfl⟩
  obtain ⟨q, q1, q2, q3, q4⟩ := hq
  refine ⟨⟨q, q1, q2, q3, (k2 q q1 q3).1, (k2 q q1 q3).2, q4⟩, ?_⟩
  intro x hx hxa
  exact hother x (k4 x hx hxa) hxa

theorem cancel_last (y : Block) (l : List Req) (a : Req) (i : Fin 4) (rq tg : Nat) (hy : y.reqs = l ++ [a]) (hl : ∀ x ∈ l, x.id ≠ a.id)
    (hn : (l.map Req.id).Nodup) (hi : a.inlet = some i) (hs : a.stage ≠ .ready) (_ : a.op = .cancel) (hh : a.cancelHit = false) :
    let target := l.find? (fun r => r.requester == rq && r.tag == tg && r.tracked && !(r.op == .cancel))
    ∃ q ∈ (y.cancel a.id rq tg).reqs, q.fixed = a.fixed ∧ q.id = a.id ∧ q.stage = .ready ∧ q.status = stOk ∧
      (target = none → (y.cancel a.id rq tg).reqs = l ++ [q] ∧ q.cancelHit = false) ∧
      (∀ r, target = some r →
        (r.stage = .ready → (y.cancel a.id rq tg).reqs = l ++ [q] ∧ q.cancelHit = false) ∧
        (r.stage ≠ .ready → r.stage ≠ .chan → r.stage ≠ .joined → q.cancelHit = true ∧ ∀ x ∈ (y.cancel a.id rq tg).reqs, x.id = r.id → x.stage = .ready ∧ x.status = stCancelled) ) := by
  intro target
  have hf : y.reqs.find? (fun r => r.requester == rq && r.tag == tg && r.tracked && !(r.op == .cancel) && !(r.id == a.id)) = target := by
    rw [hy, List.find?_append]
    have : l.find? (fun r => r.requester == rq && r.tag == tg && r.tracked && !(r.op == .cancel) && !(r.id == a.id)) = target := by
      show List.find? _ l = List.find? _ l
      have : ∀ (m : List Req), (∀ x ∈ m, x.id ≠ a.id) → m.find? (fun r => r.requester == rq && r.tag == tg && r.tracked && !(r.op == .cancel) && !(r.id == a.id)) = m.find? (fun r => r.requester == rq && r.tag == tg && r.tracked && !(r.op == .cancel)) := by
        intro m hm
        induction m with
        | nil => rfl
        | cons x m ih =>
          rw [List.find?_cons, List.find?_cons, ih (fun y hy => hm y (List.mem_cons_of_mem _ hy))]
          have : (!(x.id == a.id)) = true := by simpa using hm x (by simp)
          rw [this, Bool.and_true]
      exact this l hl
    rw [this]
    have : ([a] : List Req).find? (fun r => r.requester == rq && r.tag == tg && r.tracked && !(r.op == .cancel) && !(r.id == a.id)) = none := by
      simp
    rw [this, Option.or_none]
  cases ht : target with
  | none =>
    have e : y.cancel a.id rq tg = y.finish a.id stOk none := by
      unfold Block.cancel
      rw [hf, ht]
    obtain ⟨q, q1, q2, q3, q4, q5, q6, q7⟩ := finish_last y l a a.id i stOk none hy hl rfl hi hs
    rw [e]
    exact ⟨q, by rw [q1]; simp, q2, q3, q4, q5, fun _ => ⟨q1, q7.trans hh⟩, fun r hr => (by cases hr)⟩
  | some r =>
    have e : y.cancel a.id rq tg = ((y.removeReq r).1.modReq a.id (fun x => { x with cancelHit := (y.removeReq r).2 })).finish a.id stOk none := by
      unfold Block.cancel
      rw [hf, ht]
    have hrm : r ∈ l := List.mem_of_find?_eq_some ht
    have hra : r.id ≠ a.id := hl r hrm
    have hnd : (y.reqs.map Req.id).Nodup := by
      rw [hy, List.map_append]
      refine List.Nodup.append hn (by simp) ?_
      intro x hx hx2
      obtain ⟨z, hz, rfl⟩ := List.mem_map.1 hx
      simp at hx2
      exact hl z hz hx2
    by_cases hrr : r.stage = .ready
    · rw [removeReq_none y r hrr] at e
      have hz : (y.modReq a.id (fun x => { x with cancelHit := false })).reqs = l ++ [{ a with cancelHit := false }] := modReq_last y l a a.id _ hy hl rfl
      obtain ⟨q, q1, q2, q3, q4, q5, q6, q7⟩ := finish_last _ l _ a.id i stOk none hz hl rfl hi hs
      rw [e]
      refine ⟨q, by dsimp only; rw [q1]; simp, q2, q3, q4, q5, fun h => (by cases h), ?_⟩
      intro r' hr'
      cases hr'
      exact ⟨fun _ => ⟨q1, q7⟩, fun h => absurd hrr h⟩
    · obtain ⟨m1, m2⟩ := removeReq_mem y r a (by rw [hy]; exact List.mem_append_left _ hrm) hnd (by rw [hy]; simp) (Ne.symm hra)
      obtain ⟨⟨q, q1, q2, q3, q4, q5, q6⟩, k⟩ := finish_self (y.removeReq r).1 a i (y.removeReq r).2 m1 m2 hs hi
      rw [e]
      refine ⟨q, q1, q2, q3, q4, q5, fun h => (by cases h), ?_⟩
      intro r' hr'
      cases hr'
      refine ⟨fun h => absurd h hrr, fun _ h2 h3 => ⟨?_, ?_⟩⟩
      · rw [q6, removeReq_waits y r hrr h2 h3]
      · intro x hx hxr
        have hxz := k x hx (by rw [hxr]; exact hra)
        rw [removeReq_waits y r hrr h2 h3] at hxz
        exact (finish_at (y.unwait r.id) r stCancelled none (by rw [unwait_reqs, hy]; exact List.mem_append_left _ hrm) hnd hrr).2.1 x hxz hxr

/-- What an accepted request comes to. -/
theorem admit_is (b : Block) (l : List Req) (a : Req) (i : Fin 4) (hd : Hdr) (f : SramFault) (hy : b.reqs = l ++ [a]) (hl : ∀ x ∈ l, x.id ≠ a.id)
    (hn : (l.map Req.id).Nodup) (hi : a.inlet = some i) (hs : a.stage = .fenceHeld) (hh : a.cancelHit = false) (hst : a.status = 0)
    (hc : a.cls = hd.cls) (hb : a.op ≠ .cancel → a.blk = hd.addr) (hb2 : a.op = .cancel → a.blk = hd.addr % 2 ^ 11) (hq : a.requester = hd.requester) :
    ∃ q ∈ (b.admitReq a f).reqs, q.fixed = a.fixed ∧
      (f = .header → q.stage = .ready ∧ q.status = stErrorInternal) ∧
      (f ≠ .header → (a.op = .fence → q.stage = .fencing) ∧
        (a.op = .cancel → (q.stage = .ready ∧ q.status = stOk) ∧
          (l.find? (fun r => r.requester == hd.requester && r.tag == hd.addr % 2 ^ 11 && r.tracked && !(r.op == .cancel)) = none →
            (b.admitReq a f).reqs = l ++ [q] ∧ q.cancelHit = false) ∧
          (∀ r, l.find? (fun r => r.requester == hd.requester && r.tag == hd.addr % 2 ^ 11 && r.tracked && !(r.op == .cancel)) = some r →
            (r.stage = .ready → (b.admitReq a f).reqs = l ++ [q] ∧ q.cancelHit = false) ∧
            (r.stage ≠ .ready → r.stage ≠ .chan → r.stage ≠ .joined →
              q.cancelHit = true ∧ ∀ y ∈ (b.admitReq a f).reqs, y.id = r.id → y.stage = .ready ∧ y.status = stCancelled))) ∧
        (a.op ≠ .fence → a.op ≠ .cancel →
          ((∃ r ∈ l, r.requester = hd.requester ∧ r.stage = .fencing) → q.stage = .fenceHeld) ∧
          ((∀ r ∈ l, r.requester = hd.requester → r.stage ≠ .fencing) →
            (∀ c, refuses b a.op hd = some c → q.stage = .ready ∧ q.status = c.2) ∧
            (refuses b a.op hd = none → (∀ r ∈ l, r.requester = hd.requester → r.blk ≠ hd.addr) → (polOf b.cfg hd.requester).mode = 0 →
              ∀ p, pondOf b.cfg hd.addr = some p → p ≠ 63 →
              (a.op = .read → b.written p hd.addr = false → (q.stage = .ready ∧ q.status = stUnwritten) ∧ q.rdata = some 0) ∧
              (a.op = .writePartial → a.mask = 0 → f = .clean → q.stage = .ready ∧ q.status = stOk))))) := by
  have hsr : a.stage ≠ .ready := by rw [hs]; decide
  by_cases hf : f = .header
  · subst hf
    have e : b.admitReq a .header = (b.parity 0 a.requester a.tag 0).finish a.id stErrorInternal none := by
      unfold Block.admitReq; rw [if_pos (by rfl)]
    obtain ⟨q, q1, q2, q3, q4, q5, q6, q7⟩ := finish_last (b.parity 0 a.requester a.tag 0) l a a.id i stErrorInternal none (by rw [parity_reqs, hy]) hl rfl hi hsr
    exact ⟨q, by rw [e, q1]; simp, q2, fun _ => ⟨q4, q5⟩, fun h => absurd rfl h⟩
  · have hfb : (f == SramFault.header) = false := by simpa using hf
    by_cases ho : a.op = .cancel
    · have e : b.admitReq a f = b.cancel a.id a.requester a.blk := by
        unfold Block.admitReq; rw [if_neg (by rw [hfb]; decide), ho]
      have := cancel_last b l a i a.requester a.blk hy hl hn hi hsr ho hh
      rw [← e, hb2 ho, hq] at this
      obtain ⟨q, q1, q2, q3, q4, q5, q6, q7⟩ := this
      exact ⟨q, q1, q2, fun h => absurd h hf, fun _ => ⟨fun h => (by rw [ho] at h; cases h), fun _ => ⟨⟨q4, q5⟩, q6, q7⟩, fun _ h => absurd ho h⟩⟩
    · by_cases ho2 : a.op = .fence
      · have e : b.admitReq a f = b.stageTo a.id .fencing := by
          unfold Block.admitReq; rw [if_neg (by rw [hfb]; decide), ho2]
        have := modReq_last b l a a.id (fun r => { r with stage := .fencing }) hy hl rfl
        refine ⟨{ a with stage := .fencing }, ?_, rfl, fun h => absurd h hf, fun _ => ⟨fun _ => rfl, fun h => absurd h ho, fun h => absurd ho2 h⟩⟩
        rw [e]
        show _ ∈ (b.modReq a.id _).reqs
        rw [this]; simp
      · -- the other requests
        obtain ⟨y, a1, a2, e, s1, s2, s3, s4, s5, s6, s7, s8⟩ : ∃ (y : Block) (a1 a2 : Req), b.admitReq a f = (if y.fenced a1 then y else y.stage2 a1 f) ∧
            setting y = setting b ∧ y.reqs = l ++ [a2] ∧ a2.fixed = a.fixed ∧ a2.inlet = some i ∧ a2.stage = .fenceHeld ∧ a1.fixed = a.fixed ∧ a1.inlet = some i ∧
            (f = .clean → a1.status = 0) := by
          by_cases hbad : (f == .data && a.isWrite) = true
          · refine ⟨(b.parity 0 a.requester a.tag 1).modReq a.id (fun r => { r with status := stErrorInternal }), { a with status := stErrorInternal }, { a with status := stErrorInternal }, ?_, ?_, ?_, rfl, hi, hs, rfl, hi, ?_⟩
            · unfold Block.admitReq
              rw [if_neg (by rw [hfb]; decide)]
              split
              · rename_i h; exact absurd h ho
              · rename_i h; exact absurd h ho2
              · dsimp only
                rw [if_pos hbad, if_pos hbad]
            · rw [modReq_setting, parity_setting]
            · exact modReq_last _ l a a.id _ (by rw [parity_reqs, hy]) hl rfl
            · intro h; rw [h] at hbad; simp at hbad
          · refine ⟨b, a, a, ?_, rfl, hy, rfl, hi, hs, rfl, hi, fun _ => hst⟩
            unfold Block.admitReq
            rw [if_neg (by rw [hfb]; decide)]
            split
            · rename_i h; exact absurd h ho
            · rename_i h; exact absurd h ho2
            · dsimp only
              rw [if_neg hbad, if_neg hbad]
        have i1 : a1.id = a.id := (congrArg Req.id s6 :)
        have i2 : a2.id = a.id := (congrArg Req.id s3 :)
        have i3 : a1.requester = a.requester := (congrArg Req.requester s6 :)
        have i4 : a1.cls = a.cls := (congrArg Req.cls s6 :)
        have i5 : a1.blk = a.blk := (congrArg Req.blk s6 :)
        have i6 : a1.op = a.op := (congrArg Req.op s6 :)
        have i7 : a1.mask = a.mask := (congrArg Req.mask s6 :)
        obtain ⟨c1, c2, c3, c4, c5, c6, c7, c8⟩ := fold_setting s1
        have hbef : y.before a1.id = l := by
          have := before_last y l a2 s2 (by intro x hx; rw [i2]; exact hl x hx)
          rw [i1, ← i2]; exact this
        have hfen : y.fenced a1 = fence0 l hd.requester := by
          unfold Block.fenced fence0
          rw [hbef, i3, hq]
        by_cases hfl : fence0 l hd.requester = true
        · rw [hfen, if_pos hfl] at e
          refine ⟨a2, by rw [e, s2]; simp, s3, fun h => absurd h hf, fun _ => ⟨fun h => absurd h ho2, fun h => absurd h ho, fun _ _ => ⟨fun _ => s5, ?_⟩⟩⟩
          intro hno
          exfalso
          unfold fence0 at hfl
          obtain ⟨x, hx, hxx⟩ := List.any_eq_true.1 hfl
          simp only [Bool.and_eq_true, beq_iff_eq] at hxx
          exact hno x hx hxx.1 hxx.2
        · rw [hfen, if_neg hfl] at e
          have hsome : ¬ (∃ r ∈ l, r.requester = hd.requester ∧ r.stage = .fencing) := by
            rintro ⟨x, hx, h1, h2⟩
            apply hfl
            exact List.any_eq_true.2 ⟨x, hx, by simp [h1, h2]⟩
          obtain ⟨g1, g2⟩ := stage2_last y l a1 a2 i f hd s2 (i2.trans i1.symm) s4 (by rw [s5]; decide) (s3.trans s6.symm) (by intro x hx; rw [i1]; exact hl x hx) s7 (i4.trans hc) (i5.trans (hb ho)) (i3.trans hq)
          have hrf : refuses y a1.op hd = refuses b a.op hd := by
            unfold refuses Block.pondRt Block.access Block.flag Block.f
            rw [c1, c2, c3, i6]
          have hwr : ∀ p, y.written p hd.addr = b.written p hd.addr := by
            intro p
            refine written_of y b ?_ c6 p _
            unfold Block.placeAt Block.pondRt
            rw [c1, c3]
          rw [hrf] at g1
          rw [hrf, c1] at g2
          rw [i6, i7] at g2
          rw [e]
          cases hr : refuses b a.op hd with
          | some c =>
            obtain ⟨q, q1, q2, q3, q4⟩ := g1 c hr
            refine ⟨q, by rw [q1]; simp, q2.trans s6, fun h => absurd h hf, fun _ => ⟨fun h => absurd h ho2, fun h => absurd h ho, fun _ _ => ⟨fun h => absurd h hsome, fun _ => ⟨?_, fun h => (by cases h)⟩⟩⟩⟩
            intro c' hc'; cases hc'; exact ⟨q3, q4⟩
          | none =>
            have g2 := g2 hr
            have hled : ∃ q ∈ (y.stage2 a1 f).reqs, q.fixed = a.fixed := by
              have hle : (y.stage2 a1 f).ledger = (l.filter (fun r => r.inlet.isSome)).map Req.fixed ++ [a.fixed] := by
                have h1 : (y.stage2 a1 f).ledger = y.ledger := congrArg Frame.ledger (stage2_frame y a1 f)
                rw [h1]
                unfold Block.ledger
                rw [s2, List.filter_append, List.map_append]
                congr 1
                simp [s4, s3]
              exact mem_of_ledger _ _ a hle
            by_cases hcase : (∀ r ∈ l, r.requester = hd.requester → r.blk ≠ hd.addr) ∧ (polOf b.cfg hd.requester).mode = 0 ∧ ∃ p, pondOf b.cfg hd.addr = some p ∧ p ≠ 63
            · obtain ⟨k1, k2, p, k3, k4⟩ := hcase
              obtain ⟨g3, g4⟩ := g2 k1 k2 p k3 k4
              by_cases hrd : a.op = .read ∧ b.written p hd.addr = false
              · obtain ⟨q, q1, q2, q3, q4, q5⟩ := g3 hrd.1 (by rw [hwr]; exact hrd.2)
                refine ⟨q, by rw [q1]; simp, q2.trans s6, fun h => absurd h hf, fun _ => ⟨fun h => absurd h ho2, fun h => absurd h ho, fun _ _ => ⟨fun h => absurd h hsome, fun _ => ⟨fun c hc => (by cases hc), fun _ _ _ p' hp' _ => ?_⟩⟩⟩⟩
                refine ⟨fun _ _ => ⟨⟨q3, q4⟩, q5⟩, fun h => (by rw [hrd.1] at h; cases h)⟩
              · by_cases hwp : a.op = .writePartial ∧ a.mask = 0 ∧ f = .clean
                · obtain ⟨q, q1, q2, q3, q4⟩ := g4 hwp.1 hwp.2.1 (by rw [s8 hwp.2.2]; decide)
                  refine ⟨q, by rw [q1]; simp, q2.trans s6, fun h => absurd h hf, fun _ => ⟨fun h => absurd h ho2, fun h => absurd h ho, fun _ _ => ⟨fun h => absurd h hsome, fun _ => ⟨fun c hc => (by cases hc), fun _ _ _ p' hp' _ => ?_⟩⟩⟩⟩
                  exact ⟨fun h => (by rw [hwp.1] at h; cases h), fun _ _ _ => ⟨q3, q4⟩⟩
                · obtain ⟨q, q1, q2⟩ := hled
                  refine ⟨q, q1, q2, fun h => absurd h hf, fun _ => ⟨fun h => absurd h ho2, fun h => absurd h ho, fun _ _ => ⟨fun h => absurd h hsome, fun _ => ⟨fun c hc => (by cases hc), fun _ _ _ p' hp' _ => ?_⟩⟩⟩⟩
                  have : p' = p := by rw [k3] at hp'; exact (Option.some.inj hp').symm
                  subst this
                  exact ⟨fun h1 h2 => absurd ⟨h1, h2⟩ hrd, fun h1 h2 h3 => absurd ⟨h1, h2, h3⟩ hwp⟩
            · obtain ⟨q, q1, q2⟩ := hled
              refine ⟨q, q1, q2, fun h => absurd h hf, fun _ => ⟨fun h => absurd h ho2, fun h => absurd h ho, fun _ _ => ⟨fun h => absurd h hsome, fun _ => ⟨fun c hc => (by cases hc), fun _ h1 h2 p' hp' h3 => ?_⟩⟩⟩⟩
              exact absurd ⟨h1, h2, p', hp', h3⟩ hcase

end Sys2Proof.Machine
end

