-- ==== Sys2Proof/Tests/Slice0.lean ====
section
/-! SUPPORT. Own tests of the model: ill-formed commands that the checks refuse, and worked examples of the manual. -/

namespace Sys2Proof.Tests
open Sys2Proof.Machine

/-! ### Ill-formed commands (one for each check of `Instr.wf`) -/

/-- A packet of the management port that asks for opcode `op`. -/
def request (op p0 : Nat) (body : List Byte) : Packet :=
  { level := 3, reply := false, event := false, rsvd := 0, opcode := BitVec.ofNat 8 op,
    length := BitVec.ofNat 8 ((16 + body.length) / 8), requester := 0xF6, status := 0, detail := 0, seq := 1,
    param0 := BitVec.ofNat 64 p0, body := body }

/-- A drift sample that answers for nibbles and for lanes. -/
def badDrift : DriftRead := { unit := 0, counts := [0], lanes := [(true, true)] }

/-- Two samples of one unit. -/
def twoDrifts : List DriftRead := [{ unit := 1, counts := [0], lanes := [] }, { unit := 1, counts := [0], lanes := [] }]

/-- Two MR4 readings of one unit. -/
def twoMr4 : List Mr4Read := [{ unit := 1, fast := true, hot := false }, { unit := 1, fast := false, hot := false }]

/-- A slot found. -/
def slotOf (c : Fin 8) (s : Fin 2) (n : Nat) : SlotInfo :=
  { chan := c, slot := s, present := true, devType := 0x12, identity := 1, i3c := true, spd := List.replicate n 0 }

/-- A training result with two sets of values for one unit. -/
def twoUnits : TrainRes := { units := [⟨0, [], []⟩, ⟨0, [], []⟩], fail := none }

/-- SPD facts of a slot. -/
def spdOf : SpdInfo :=
  { width := 4, density := 0, ranks := 1, stack := 0, tckMinPs := 416, minsPs := [], casList := [], rfm := none }

/-- A channel brought up, with these slots, SPD facts and training result. -/
def upOf (found : List SlotInfo) (spd : List SpdInfo) (t : TrainRes) : BringUp :=
  { vddqMv := 1100, found := found, spd := spd, verify := none, train := t, verify2 := none }

theorem test_illformed_events : ([
    .tailEmitted 9,
    .dormantExitComplete 0 [(0, 1, 0), (0, 1, 5)] [],
    .dormantExitComplete 0 [] [(0, badDrift)],
    .thermalPoll 0 [none],
    .keepOpenTimeout 0 0 1024,
    .rfmEmergency 0 1024,
    .driftForced 0 [badDrift],
    .driftForced 0 twoDrifts,
    .turnoverClaim 0 twoMr4 [] 0,
    .turnoverClaim 0 [] twoDrifts 0,
    .doubledExtraOccasion 0 twoMr4 [] 0,
    .doubledExtraOccasion 0 [] twoDrifts 0,
    .verifyDone [(0, none), (0, none)],
    .dirtyAgeWriteback 262144 .clean] : List Instr).all (fun i => !i.wf) = true := by decide

theorem test_illformed_findings : ([
    .discoveryDone [slotOf 0 0 0, slotOf 0 0 0],
    .channelBringUpDone 0 (upOf [slotOf 1 0 0] [] ⟨[], none⟩),
    .channelBringUpDone 0 (upOf [slotOf 0 0 0, slotOf 0 0 0] [] ⟨[], none⟩),
    .channelBringUpDone 0 (upOf [] [spdOf, spdOf, spdOf] ⟨[], none⟩),
    .channelBringUpDone 0 (upOf [] [] twoUnits),
    .trainingDone [slotOf 0 0 0, slotOf 0 0 0] [] [] 0,
    .trainingDone [] (List.replicate 17 (0, spdOf)) [] 0,
    .trainingDone [] [] [(0, ⟨[], none⟩), (0, ⟨[], none⟩)] 0,
    .trainingDone [] [] [(0, twoUnits)] 0] : List Instr).all (fun i => !i.wf) = true := by decide

theorem test_illformed_rows (c : Fin 8) (rows : List PprRow) (h : 256 < rows.length) : (Instr.pprDone c rows none).wf = false := by
  simp [Instr.wf, h]

theorem test_illformed_spd (x : SlotInfo) (h : 1024 < x.spd.length) : (Instr.discoveryDone [x]).wf = false := by
  simp [Instr.wf, slotsWf, SlotInfo.wf, h]

theorem test_illformed_port (b : List Byte) (h : 65536 < b.length) :
    (Instr.imageLoad (.bytes b)).wf = false ∧ (Instr.imageRestoreDone (.bytes b)).wf = false := by
  simp [Instr.wf, PortRead.wf, h]

/-- Each packet command refuses the packet of another opcode. -/
theorem test_illformed_opcode : ([
    .attach .mgmt (request 0x2 0 []),
    .detach .mgmt (request 0x3 0 []),
    .queryCaps .mgmt (request 0x4 0 []),
    .ping .mgmt (request 0x5 0 []),
    .configWrite .mgmt (request 0x11 0 []),
    .configRead .mgmt (request 0x12 0 []),
    .configStage .mgmt (request 0x13 0 []),
    .configCommit .mgmt (request 0x14 0 []),
    .configAbort .mgmt (request 0x15 0 []),
    .modeSet .mgmt (request 0x21 0 []),
    .imageSave .mgmt (request 0x22 0 []),
    .imageRestore .mgmt (request 0x23 0 []),
    .train .mgmt (request 0x24 0 []),
    .verify .mgmt (request 0x25 0 []),
    .lifecycle .mgmt (request 0x26 0 []),
    .reset .mgmt (request 0x27 0 []),
    .pondRebuild .mgmt (request 0x31 0 []),
    .pondProtect .mgmt (request 0x32 0 []),
    .pondWipe .mgmt (request 0x33 0 []),
    .cachePreload .mgmt (request 0x41 0 []),
    .cacheLock .mgmt (request 0x42 0 []),
    .cacheUnlock .mgmt (request 0x43 0 []),
    .cacheRange .mgmt (request 0x44 0 []),
    .cacheEnable .mgmt (request 0x45 0 []),
    .cacheDisable .mgmt (request 0x46 0 []),
    .cacheWayMode .mgmt (request 0x47 0 []),
    .fill .mgmt (request 0x51 0 []),
    .eventsSubscribe .mgmt (request 0x62 0 []),
    .eventsClear .mgmt (request 0x63 0 []),
    .countersRead .mgmt (request 0x71 0 []),
    .countersClear .mgmt (request 0x72 0 []),
    .soundingsControl .mgmt (request 0x74 0 []),
    .spareAdd .mgmt (request 0x81 0 []),
    .spareList .mgmt (request 0x82 0 []),
    .pprRun .mgmt (request 0x83 0 []),
    .statusRead .mgmt (request 0x91 0 []),
    .debugSramRead .mgmt (request 0xf1 0 []),
    .debugSramWrite .mgmt (request 0xf2 0 []),
    .eventsRead .mgmt (request 0x61 0 []) .clean,
    .soundingsRead .mgmt (request 0x73 0 []) .clean] : List Instr).all (fun i => !i.wf) = true := by decide

theorem test_wellformed_opcode : ([
    .attach .mgmt (request 0x1 0 []),
    .detach .mgmt (request 0x2 0 []),
    .queryCaps .mgmt (request 0x3 0 []),
    .ping .mgmt (request 0x4 0 []),
    .configWrite .mgmt (request 0x10 0 []),
    .configRead .mgmt (request 0x11 0 []),
    .configStage .mgmt (request 0x12 0 []),
    .configCommit .mgmt (request 0x13 0 []),
    .configAbort .mgmt (request 0x14 0 []),
    .modeSet .mgmt (request 0x20 0 []),
    .imageSave .mgmt (request 0x21 0 []),
    .imageRestore .mgmt (request 0x22 0 []),
    .train .mgmt (request 0x23 0 []),
    .verify .mgmt (request 0x24 0 []),
    .lifecycle .mgmt (request 0x25 0 []),
    .reset .mgmt (request 0x26 0 []),
    .pondRebuild .mgmt (request 0x30 0 []),
    .pondProtect .mgmt (request 0x31 0 []),
    .pondWipe .mgmt (request 0x32 0 []),
    .cachePreload .mgmt (request 0x40 0 []),
    .cacheLock .mgmt (request 0x41 0 []),
    .cacheUnlock .mgmt (request 0x42 0 []),
    .cacheRange .mgmt (request 0x43 0 []),
    .cacheEnable .mgmt (request 0x44 0 []),
    .cacheDisable .mgmt (request 0x45 0 []),
    .cacheWayMode .mgmt (request 0x46 0 []),
    .fill .mgmt (request 0x50 0 []),
    .eventsSubscribe .mgmt (request 0x61 0 []),
    .eventsClear .mgmt (request 0x62 0 []),
    .countersRead .mgmt (request 0x70 0 []),
    .countersClear .mgmt (request 0x71 0 []),
    .soundingsControl .mgmt (request 0x73 0 []),
    .spareAdd .mgmt (request 0x80 0 []),
    .spareList .mgmt (request 0x81 0 []),
    .pprRun .mgmt (request 0x82 0 []),
    .statusRead .mgmt (request 0x90 0 []),
    .debugSramRead .mgmt (request 0xf0 0 []),
    .debugSramWrite .mgmt (request 0xf1 0 []),
    .eventsRead .mgmt (request 0x60 0 []) .clean,
    .soundingsRead .mgmt (request 0x72 0 []) .clean] : List Instr).all Instr.wf = true := by decide

/-- A reply, an event, a reserved bit, a LENGTH that disagrees, a body of no whole flit. -/
theorem test_illformed_packets : ([
    { request 4 0 [] with reply := true }, { request 4 0 [] with event := true }, { request 4 0 [] with rsvd := 1 },
    { request 4 0 [] with length := 4 }, { request 4 0 (List.replicate 8 0) with length := 3 }] : List Packet).all (fun p => !(Instr.ping .mgmt p).wf) = true := by
  decide

theorem test_illformed_body (src : Src) (p : Packet) (h : 496 < p.body.length) : (Instr.ping src p).wf = false := by
  simp [Instr.wf, Packet.requests, h]

/-! ### States and operands that meet the hypotheses of the statements -/

/-- Channel 0 in use, and pond 0 of one unit, write-first, on set 0 of channel 0, with 16 requests allowed to requester 5. -/
def conf : Tab Nat :=
  [(0x0100, 0, 0, 1), (0x0300, 0, 16, 1), (0x1200, 0, 0, 1), (0x0700, 0, 16, 1), (0x0A00, 0, 1, 1)].foldl
    (fun t e => cfgSet t e.1 e.2.1 e.2.2.1 e.2.2.2) []

/-- A block in SERVE with credits on every inlet, requester 5 attached at inlet 0 at level 3, and channel 0 serving. -/
def served : Block := { State.reset.blk with
  mode := .serve
  clk := { State.reset.blk.clk with pll := true }
  inlets := List.replicate 4 { State.reset.blk.inlet 0 with reqVoid := false, reqCred := 512, cmdVoid := false, cmdCred := 32, rspCred := 4, rplCred := 40 }
  slots := [(5, { attach := .att 0 3 })]
  cfg := conf
  chans := State.reset.blk.chans.modify 0 (fun ch => { ch with state := 3 }) }

/-- A state of a block, with no command waiting. -/
def stateOf (b : Block) : State := { pending := [], blk := b }

/-- The same block in COMMISSION. -/
def commissioned : Block := { served with mode := .commission }

/-- A request header of requester 5 with tag 9 for block 2. -/
def hdr5 : ReqHdr := { requester := 5, tag := 9, cls := 2, addr := 2, noAlloc := false, forceSound := false }

/-- A packet in progress. -/
def opOf (op n : Nat) : LongOp := { src := .mgmt, pkt := request op 0 [], n := n }

/-- A block with one packet in progress. -/
def busyWith (o : LongOp) : Block := { served with pkts := { served.pkts with ops := [o] } }

/-- The base is a sound block, so that nothing shuts out the states below. -/
theorem witness_StepKeepsSound : served.sound = true ∧ ∃ t, step (stateOf served) = .next t := ⟨by decide, _, rfl⟩

theorem witness_StepRunsFront : ({ stateOf served with pending := [.fence 0 hdr5] } : State).pending = .fence 0 hdr5 :: [] := rfl

theorem witness_EmptyQueueTicks : (stateOf served).pending = [] ∧ served.clk.pll = true ∧ State.reset.pending = [] ∧
    State.reset.blk.clk.pll = false := by decide

theorem witness_InterfaceRegisters : served.mode ≠ .off ∧ served.mgmt.rx = [] ∧
    ({ served.mgmt with rx := [[1, 2]] } : Mgmt).rx = ((1 : BitVec 32) :: [2]) :: [] := by decide

/-- Packets in every entry of the queue, and in all but four. -/
def queued (n : Nat) : Block := { served with pkts := { served.pkts with queue := List.replicate n ⟨.inlet 0, request 4 0 [], 16, false, false⟩ } }

theorem witness_TransmitFifoAndSubmit : served.mode ≠ .off ∧ served.mgmt.tx = [] ∧
    ({ queued 63 with mgmt := { served.mgmt with tx := [1] } } : Block).mgmt.tx ≠ [] ∧
    (queued 63).entries (fun _ => true) < 64 ∧ 64 ≤ (queued 64).entries (fun _ => true) := by decide

theorem witness_RegisterWrites : served.mode ≠ .off ∧ (14 : BitVec 4) ≠ 15 ∧
    4 * (1 : BitVec 10).toNat ∉ [0x010, 0x014, 0x018, 0x040, 0x044, 0x04C] ∧
    [4, 5, 6, 16, 17, 19].map (fun k => 4 * (BitVec.ofNat 10 k).toNat) = [0x010, 0x014, 0x018, 0x040, 0x044, 0x04C] := by decide

theorem witness_ManagementInOff : State.reset.blk.mode = .off ∧
    (Instr.submit ∈ ([.submit, .pktRxRead, .overflowClear, .underflowClear, .timeLoRead] : List Instr) ∨ ∃ w, Instr.submit = .pktTxWord w) :=
  ⟨rfl, .inl (by decide)⟩

theorem witness_CreditGrants : (served.inlet 3).rspCred < 1023 ∧ (served.inlet 3).rplCred < 1023 ∧
    (let n := ({ served with inlets := List.replicate 4 { served.inlet 0 with rspCred := 1023, rplCred := 1023 } } : Block).inlet 3
     1023 ≤ n.rspCred ∧ 1023 ≤ n.rplCred) := by decide

/-- An inlet without credit, and one whose VOIDs rose two cclk ago. -/
def barred : Block := { served with
  clk := { served.clk with cclk := 7 }
  inlets := [{ served.inlet 0 with reqCred := 0, cmdCred := 0 }, { served.inlet 0 with reqVoid := true, reqVoidAt := 5, cmdVoid := true, cmdVoidAt := 5 },
    served.inlet 0, served.inlet 0] }

theorem witness_CreditViolationDiscards : barred.clk.pll = true ∧ (barred.inlet 0).reqVoid = false ∧ (barred.inlet 0).reqCred = 0 ∧
    (barred.inlet 1).reqVoid = true ∧ (barred.inlet 1).reqVoidAt + 1 < barred.clk.cclk := by decide

theorem witness_CommandFlits : barred.mode ≠ .off ∧ (barred.inlet 0).cmdVoid = false ∧ (barred.inlet 0).cmdCred = 0 ∧
    (barred.inlet 1).cmdVoid = true ∧ (barred.inlet 1).cmdVoidAt + 1 < barred.clk.cclk ∧ served.mode ≠ .dormant ∧
    (served.inlet 3).cmdVoid = false ∧ 0 < (served.inlet 3).cmdCred ∧ 3 < served.inlets.length ∧
    served.entries (fun x => !(x == .mgmt)) < 60 ∧ 60 ≤ (queued 60).entries (fun x => !(x == .mgmt)) := by decide

/-- A reply of 32 bytes that waits at a source. -/
def replyAt (src : Src) : Reply := { src := src, pkt := { request 4 0 (List.replicate 16 0) with reply := true } }

/-- A reply that waits, and one that waits behind another source's. -/
def replying (src : Src) : Block := { served with pkts := { served.pkts with replies := [replyAt (.inlet 3), replyAt src] } }

theorem witness_PacketsSent_reply :
    (replying .mgmt).pkts.replies = [replyAt (.inlet 3)] ++ replyAt .mgmt :: [] ∧ (∀ r ∈ [replyAt (.inlet 3)], r.src ≠ .mgmt) ∧
    (∀ r ∈ [replyAt (.inlet 3)], r.src ≠ .inlet 0) ∧ (replying .mgmt).mgmt.rxWords + 2 * (replyAt .mgmt).pkt.length.toNat ≤ 256 ∧
    (replyAt (.inlet 0)).pkt.length.toNat / 2 ≤ ((replying (.inlet 0)).inlet 0).rplCred ∧
    (State.reset.blk.inlet 0).rplCred < (replyAt (.inlet 0)).pkt.length.toNat / 2 := by decide

theorem witness_PacketsSent_dorm : ∀ t, (replying .mgmt).dorm ≠ .replying t := fun _ h => nomatch h

/-- An event packet that waits for requester 5. -/
def event5 : EvPkt :=
  { recipient := 5, seq := 0, pond := none, notLogged := false,
    record := ⟨0x2E, 2, false, 0, false, 0, 0, encFields [(1, 0)]⟩ }

theorem witness_PacketsSent_event : (({ served with pkts := { served.pkts with evq := [(.mgmt, event5), (.inlet 0, event5)] } } : Block).pkts.evq
      = [(.mgmt, event5)] ++ (.inlet 0, event5) :: []) ∧ (∀ x ∈ [(Src.mgmt, event5)], x.1 ≠ .inlet 0) ∧
    (served.eventPacket event5).length.toNat / 2 ≤ (served.inlet 0).rplCred := by decide

theorem witness_FramingAnswersBadRequest :
    let p := { request 4 0 [] with rsvd := 1 }
    let q : QPkt := ⟨.mgmt, p, 16, false, false⟩
    served.mode ≠ .off ∧ served.framing ⟨.mgmt, p, 16 + p.body.length, false, served.isLate .mgmt p⟩ = 3 ∧
      (served.offered .mgmt p).nextPacket = some q ∧ served.framing q = 3 ∧ (served.offered .mgmt p).framing q = 3 := by decide

/-- Packets of the management port that are executed in SERVE. -/
theorem witness_packets_serve : ([(0x02, 5, 0), (0x03, 0, 0), (0x04, 0, 16), (0x10, 0x100000401, 16), (0x11, 0x1F00000401, 0), (0x12, 1, 16), (0x13, 1, 0),
    (0x14, 1, 0), (0x20, 4, 0), (0x21, 0, 0), (0x25, 0, 0), (0x26, 0, 0), (0x30, 0, 0), (0x31, 0x100, 0), (0x32, 0, 0),
    (0x40, 0, 16), (0x41, 0, 16), (0x42, 0, 16), (0x43, 0, 16)] : List (Nat × Nat × Nat)).all
      (fun x => served.clears .mgmt (request x.1 x.2.1 (List.replicate x.2.2 0))) = true := by decide

theorem witness_packets_serve2 : ([(0x44, 0, 0), (0x45, 0, 0), (0x46, 1, 0), (0x50, 0, 16), (0x60, 0, 0), (0x61, 0, 32), (0x62, 0, 0),
    (0x70, 0, 0), (0x71, 0, 0), (0x72, 0x1000, 0), (0x73, 0, 0), (0x80, 0, 0), (0x81, 0, 0), (0x90, 0, 0), (0xF0, 0x100000000, 0),
    (0xF1, 0x100000000, 16)] : List (Nat × Nat × Nat)).all
      (fun x => served.clears .mgmt (request x.1 x.2.1 (List.replicate x.2.2 0))) = true := by decide

/-- Packets that are executed in COMMISSION. -/
theorem witness_packets_commission : ([(0x22, 0, 0), (0x22, 1, 0), (0x23, 1, 0), (0x24, 1, 0), (0x82, 0, 0), (0x20, 3, 0)] : List (Nat × Nat × Nat)).all
      (fun x => commissioned.clears .mgmt (request x.1 x.2.1 (List.replicate x.2.2 0))) = true := by decide

theorem witness_ReplyFields : (List.replicate 496 (7 : Byte)).length ≤ 496 := by rw [List.length_replicate]

/-- An ATTACH of requester `n` at inlet 1. -/
def attachOf (n : Nat) (p0 : Nat) : Packet := { request 1 p0 [] with level := 0, requester := BitVec.ofNat 8 n }

/-- Slot 5 detaches, and its DETACH waits. -/
def detaching : Block := { served with
  slots := [(5, { attach := .detaching 0 3 })], pkts := { served.pkts with detachers := [(5, .mgmt, request 2 5 [])] } }

theorem witness_SlotsBoundAndFreed :
    (let b := served.taken (.inlet 1) (attachOf 6 0x31)
     served.clears (.inlet 1) (attachOf 6 0x31) = true ∧ (b.slot 6).attach = .free ∧ max (pP0 (attachOf 6 0x31) 0 4) b.blockMin ≤ min (pP0 (attachOf 6 0x31) 4 4) 3) ∧
    served.clears (.inlet 1) (attachOf 6 0x44) = true ∧ min (pP0 (attachOf 6 0x44) 4 4) 3 < pP0 (attachOf 6 0x44) 0 4 ∧
    served.clears (.inlet 0) (attachOf 5 0x31) = true ∧ ((served.taken (.inlet 0) (attachOf 5 0x31)).slot 5).attach ≠ .free ∧
    ((served.taken .mgmt (request 2 5 [])).slot 5).attach = .att 0 3 ∧
    (detaching.slot (5 : Fin 128)).attach = .detaching 0 3 ∧
    detaching.pkts.detachers.find? (fun x => x.1 == (5 : Fin 128).val) = some (5, .mgmt, request 2 5 []) ∧ detaching.slotBusy 5 0 = false := by decide

theorem witness_ConfigWriteAndRead : recordRefused 0x0402 0 1 = some 1 ∧ recordRefused 0x0401 127 2 = some 2 ∧
    recShape 0x0401 = some (8, 128) ∧ 127 + 1 ≤ 128 := by decide

/-- A transaction that is open, and has had no stage for 1 s. -/
def staged : Block := { served with
  clk := { served.clk with ns := 10 ^ 9 }, pkts := { served.pkts with txns := [{ src := .mgmt, id := 1 }] } }

theorem witness_Transactions : recShape (pP0 (request 0x12 0x4010001 []) 16 16) = some (8, 128) ∧ pP0 (request 0x12 0x4010001 []) 32 16 < 128 ∧
    staged.clears .mgmt (request 0x13 1 []) = true ∧ ((staged.taken .mgmt (request 0x13 1 [])).txn? .mgmt 1) = some { src := .mgmt, id := 1 } ∧
    staged.txn? .mgmt (1 : BitVec 16).toNat = some { src := .mgmt, id := 1 } ∧ 0 + 10 ^ 9 ≤ staged.clk.ns ∧
    ((served.taken .mgmt (request 0x13 1 [])).txn? .mgmt 1) = none := by decide

/-- MODE_SET to a mode. -/
def modeTo (n : Nat) : Packet := request 0x20 n []

/-- The block that MODE_SET finds. -/
def found (b : Block) (n : Nat) : Block := b.taken .mgmt (modeTo n)

/-- A COMMISSION whose settings are saved, as they stand, with channel 0 serving. -/
def saved : Block := { commissioned with stat := { commissioned.stat with savedSince := true }, lc := .factory }

theorem witness_ModeSetChangesMode :
    served.clears .mgmt (modeTo 5) = true ∧ (found served 3).mode.code = 3 ∧ (found served 5).mode = .serve ∧
    saved.clears .mgmt (modeTo 3) = true ∧ (found saved 3).mode = .commission ∧ (found saved 3).notReady = [] ∧
    (found saved 3).stat.savedSince = true ∧ (found saved 3).lc ≠ .retired ∧ (found saved 3).pins.pfail = false ∧
    (found { saved with stat := { saved.stat with savedSince := false } } 3).stat.savedSince = false ∧
    (found { saved with lc := .retired } 3).lc = .retired ∧ (found { saved with pins := { saved.pins with pfail := true } } 3).pins.pfail = true ∧
    (found { saved with chans := State.reset.blk.chans } 3).notReady ≠ [] := by decide

theorem witness_ModeSetChangesMode2 :
    let d : Block := { served with mode := .degraded }
    let l : Block := { d with ponds := [(2, { lost := true })] }
    let z : Block := { served with mode := .dormant, dorm := .asleep }
    d.clears .mgmt (modeTo 3) = true ∧ (found d 3).mode = .degraded ∧ (found d 3).notReady = [] ∧
    (∀ e ∈ (found d 3).ponds, e.2.lost = false ∧ e.2.marked = false) ∧ (∃ e ∈ (found l 3).ponds, e.2.lost = true) ∧
    (found { d with chans := State.reset.blk.chans } 3).notReady ≠ [] ∧
    z.clears .mgmt (modeTo 3) = true ∧ (found z 3).mode = .dormant ∧ (found z 3).pins.pfail = false ∧
    (served.taken .mgmt (modeTo 2)).mode = .serve ∧ (Mode.serve, 2) ∉ [(Mode.commission, 3), (.degraded, 3), (.serve, 4), (.serve, 5), (.dormant, 3)] := by
  decide

/-- DORMANT entry with nothing in flight. -/
def entering : Block := { busyWith (opOf 0x20 0) with dorm := .entering .mgmt }

theorem witness_DormantEntryAndExit : entering.dorm = .entering .mgmt ∧ entering.stilled = true ∧ (entering.chan 0).state = 3 ∧
    ({ served with dorm := .replying 0 } : Block).dorm = .replying 0 ∧ served.pins.wake = false ∧
    ({ served with pins := { served.pins with wake := true } } : Block).pins.wake = true ∧
    (let z : Block := { served with mode := .dormant, dorm := .clocked }
     z.dorm = .clocked ∧ z.pkts.queue = [] ∧ z.pkts.replies = [] ∧ z.pkts.ops = [] ∧ z.tail = none ∧ z.mode = .dormant ∧ z.pins.pfail = false) ∧
    (let z : Block := { served with mode := .dormant, dorm := .leaving true 0, chans := served.chans.modify 1 (fun ch => { ch with state := 6 }) }
     z.dorm = .leaving true 0 ∧ z.mode = .dormant ∧ (z.chan 1).state = 6) := by decide

/-- The sluice runs, with network time. -/
def sluicing : Block := { served with sluice := { running := true, leadIn := true, boundary := 0 }, net := { served.net with valid := true } }

theorem witness_SluiceRunsOnWithoutTime : sluicing.net.valid = true ∧ sluicing.sluice.running = true := by decide

theorem witness_TimeReturnsAndSteps : served.net.valid = false ∧ served.mode ≠ .off ∧ sluicing.net.valid = true ∧ sluicing.clk.pll = true ∧
    ({ sluicing with sluice := { sluicing.sluice with running := false } } : Block).sluice.running = false := by decide

theorem witness_Realignment : ({ sluicing with net := { sluicing.net with realign := some 5 } } : Block).net.realign = some 5 ∧ sluicing.serving = true := by
  decide

/-- Lists 0x0700 and 0x0701 of two entries of 10 ns, the pending one armed. -/
def lists : Tab Nat := [(0x0700, 0, 2), (0x0701, 0, 2), (0x0700, 16, 1), (0x0700, 8 * 0x21, 10), (0x0700, 8 * 0x29, 10), (0x0701, 8 * 0x21, 10),
    (0x0701, 8 * 0x29, 10)].foldl (fun t (e : Nat × Nat × Nat) => cfgSet t e.1 0 e.2.1 e.2.2) []

/-- The sluice runs on them. -/
def listed : Block := { sluicing with cfg := lists }

theorem witness_ScheduleArithmetic : listCycle lists 0x0701 = 20 ∧ listLen lists 0x0701 = 2 ∧ listDur lists 0x0701 0 = 10 := by decide

theorem witness_EntriesInForce : listed.sluice.running = true ∧ listLen listed.cfg 0x0701 ≠ 0 ∧ listed.sluice.leadIn = true ∧ listed.drain = false ∧
    ({ listed with sluice := { listed.sluice with leadIn := false } } : Block).sluice.leadIn = false ∧ served.sluice.running = false ∧
    listLen sluicing.cfg 0x0701 = 0 := by decide

theorem witness_ListActivates : listed.sluice.running = true ∧ listed.f 0x0700 0 16 = 1 ∧ risingKeys listed.cfg = true := by decide

theorem witness_CapAndDieTemperature : served.mode ≠ .off ∧ served.pins.dieTemp = none ∧
    ({ served with pins := { served.pins with dieTemp := some 80 } } : Block).pins.dieTemp = some 80 ∧
    8 * (served.f 0x0B01 0 24 : Int) ≤ (2000 : BitVec 12).toInt ∧ served.drain = false := by decide

theorem witness_VddqAndSensors : served.chans.length = 8 ∧ served.mode ≠ .off ∧ served.mode ≠ .dormant ∧ served.inUse 0 = true ∧
    served.chanServes 0 = true ∧ (served.chan 0).phy.vddqBad = 0 ∧ (served.chan 0).phy.temps.length = 6 ∧ (served.chan 0).phy.tempBad.length = 6 ∧
    (served.chan 0).phy.tempGood.length = 6 ∧ (served.modPhy 0 (fun h => { h with vddqBad := 1 }) |>.chan 0).phy.vddqBad ≠ 0 ∧
    ((served.modChan 0 (fun ch => { ch with state := 2 })).chan 0).state = 2 := by decide

/-- Channel 0 answers an alert. -/
def alerted (a : AlertState) : Block := served.modChan 0 (fun ch => { ch with alert := a })

theorem witness_AlertsAndReplay : [AlertState.none, .waitHigh true, .replaying false, .recoveryWait, .recovery].all (fun a =>
    let b := alerted a
    b.chans.length == 8 && b.chanServes 0 && b.clk.pll && (b.chan 0).alert == a) = true ∧
    (∀ k ∈ (served.chan 0).queues, k.flight = []) ∧
    (∃ k ∈ ((served.modQueue 0 0 (fun k => { k with flight := [1] })).chan 0).queues, k.flight ≠ []) ∧
    2 ≤ ([5, 6].filter (fun t => served.clk.ns ≤ t + 10 ^ 9)).length := by decide

/-- A DRAM-bound READ of requester 5. -/
def read5 : DReq := { id := 3, kind := .read, requester := 5, tag := 9, cls := 2, blk := 2, pond := 0, owner := some 3 }

/-- It waits at the arbiter of channel 0. -/
def waiting : Block := served.modChan 0 (fun ch => { ch with wait := [read5] })

theorem witness_DrawAndChoice : (waiting.candidates 0).map (·.id) = [3] ∧ 0 < ([(5, 1)].map (·.2) : List Nat).sum ∧
    ([] : List (Nat × Nat)).map (·.2) = [] := by decide

theorem witness_GrantsAndTenures : waiting.chanServes (0 : Fin 8) = true ∧ waiting.clk.pll = true ∧
    (let g := (waiting.dropPrefetches 0).toAdmit 0
     (g.followOn 0).isNone = true ∧ (g.candidates 0).length = 1 ∧ (g.choose 0 (lfsrStep (g.chan 0).lfsr)).isSome = true) ∧
    ((served.toAdmit 0).followOn 0).isNone = true ∧
    (let b := waiting.modChan 0 (fun ch => { ch with tenure := some ⟨5, 2, 1⟩, lastAdmit := none })
     ((b.toAdmit 0).followOn 0).isSome = true) := by decide

/-- It has been granted, and the wait list was full. -/
def granted : Block := served.modChan 0 (fun ch => { ch with granted := [read5], fullSince := some 4 })

theorem witness_EnqueueAndSaturation : (served.chan 0).granted = [] ∧ (served.chan 0).fullSince = none ∧ granted.chanServes 0 = true ∧
    granted.clk.pll = true ∧ (granted.chan 0).fullSince = some 4 := by decide

theorem witness_EnqueueAndSaturation_granted : (granted.chan 0).granted = read5 :: [] := rfl

theorem witness_SelectionTakesOneCommand : served.mayselect 0 = true ∧ served.ddr4 0 = false ∧ (alerted .recovery).mayselect 0 = false := by decide

theorem witness_GovernorCycles : served.chans.length = 8 ∧ served.chanServes 0 = true ∧ served.clk.pll = true ∧ served.chanServes 1 = false ∧
    (let b : Block := { served with cfg := cfgSet conf 0x0B00 0 0 1, clk := { served.clk with ns := 10000 },
                                    chans := served.chans.modify 0 (fun ch => { ch with gov := { ch.gov with short := true } }) }
     (b.chan 0).gov.short = true ∧ b.governed 0 = true ∧ b.chanMw 0 ≠ 0 ∧ (b.chan 0).gov.shortSince + 10000 ≤ b.clk.ns) := by decide

/-- Bank 0 of queue 0 has a row open since CK 0, and CK 1,000,000 has come. -/
def openBank : Block := served.modChan 0 (fun ch => { ch with
  ck2 := 500000, queues := ch.queues.modify 0 (fun k => { k with banks := [(0, { openRow := some 4 })] }) })

theorem witness_TimeoutsAndPowerDown : openBank.chans.length = 8 ∧
    (let x := tget {} ((openBank.chan 0).queue 0).banks 0
     x.openRow ≠ none ∧ openBank.f 0x0900 0 16 ≠ 0 ∧ x.lastCol + openBank.f 0x0900 0 16 ≤ 2 * (openBank.chan 0).ck2 ∧ x.deferred = false) ∧
    (let b : Block := { openBank with cfg := cfgSet conf 0x0A00 0 16 64 }
     b.chanServes 0 = true ∧ (b.chan 0).alert = .none ∧ b.ckeMates 0 1 = [1] ∧ b.pdReady 0 1 = true ∧ (b.chan 0).pd.contains 1 = false) := by decide

theorem witness_EventsAreRecorded : evReserved 0x2E = false ∧ twf 0 served.log.occ = true ∧ served.log.limit 0x2E ≠ 0 ∧
    tget 0 served.log.used 0x2E < served.log.limit 0x2E ∧ recsSize served.log.recs + (16 + (padTo 8 (encFields [(1, 0)])).length) ≤ 262144 ∧
    (let l : Log := { served.log with used := [(0x2E, 4)] }
     l.limit 0x2E ≤ tget 0 l.used 0x2E) := by decide

/-- A retained image without configuration. -/
def image : Image := { rev := 0, serial := 0, saveSeq := 7, saveTime := 0, dimms := [], cfg := [], spares := [] }

theorem witness_SoundingsAndWindows : (let b : Block := { served with cfg := cfgSet (cfgSet conf 0x1010 0 0 1) 0x1010 0 16 5 }
    b.f 0x1010 0 0 = 1 ∧ b.f 0x1010 0 16 ≠ 0 ∧ b.clk.pll = true ∧ b.snd.hold.length ≤ 16) ∧ served.f 0x1010 0 0 ≠ 1 ∧ served.mode ≠ .off ∧
    (request 0x73 (2 ^ 63) []).param0.getLsbD 63 = true := by decide

theorem witness_ImageSaves : (busyWith (opOf 0x21 0)).op? 0x21 = some (opOf 0x21 0) ∧ (busyWith (opOf 0x21 0)).mode ≠ .commission ∧
    (let b : Block := { busyWith (opOf 0x21 0) with mode := .commission, pins := { served.pins with pfail := true } }
     b.op? 0x21 = some (opOf 0x21 0) ∧ b.mode = .commission ∧ b.pins.pfail = true) := by decide

theorem witness_ImageRestoresAndStatus : pP0 (request 0x22 1 []) 0 1 = 1 ∧ pP0 (request 0x22 0 []) 0 1 = 0 ∧
    (commissioned.taken .mgmt (request 0x22 0 [])).ret = none ∧
    (({ commissioned with ret := some image } : Block).taken .mgmt (request 0x22 0 [])).ret = some image ∧
    (busyWith (opOf 0x22 0)).op? 0x22 = some (opOf 0x22 0) ∧ imageFault [] = some (1, 0) ∧
    served.sendsAsOwner (.inlet 0) 5 = false := by decide

/-- RESTORE with the root PLL locked. -/
def restoring : Block := { served with mode := .restore }

theorem witness_RestoreSteps : State.reset.blk.mode = .off ∧ restoring.mode = .restore ∧ restoring.restore.imageDone = false ∧
    restoring.clk.pll = true ∧ restoring.wipe = none ∧ restoring.ret = none ∧ ({ restoring with ret := some image } : Block).ret = some image ∧
    imageFault [] = some (1, 0) ∧ restoring.restore.seedDone = false ∧
    restoring.restore.discovered = false ∧ commissioned.mode = .commission := by decide

/-- 10 ms have passed without a seed. -/
theorem witness_RestoreSteps_seed : (let x := ({ restoring with clk := { restoring.clk with ns := 10 ^ 7 } } : Block).advance 0
    x.mode = .restore ∧ x.clk.pll = true ∧ x.restore.seedDone = false ∧ x.restore.since + 10 ^ 7 ≤ x.clk.ns) := by decide

/-- RESTORE with its steps done, channel 0 to come up. -/
def restored (r : Restore) : Block := { restoring with restore := r, boot := { restoring.boot with imageValid := true }, lc := .deployed }

theorem witness_RestoreEnds :
    (let b := restored { up := true }
     b.mode = .restore ∧ b.restore.up = true ∧ b.inUse 0 = true ∧ b.restore.upDone.testBit 0 = false ∧ b.pins.pfail = false ∧ 0 < b.chans.length ∧
       vddqInWindow (b.gen 0) 1066 = false ∧ vddqInWindow (b.gen 0) 1067 = true ∧ vddqInWindow (b.gen 0) 1133 = true ∧ (b.chan 0).phy.changed = false) ∧
    (let b := restored { up := true, upDone := 1, imageDone := true, seedDone := true, discovered := true }
     b.restore.imageDone = true ∧ b.restore.seedDone = true ∧ b.restore.discovered = true ∧ b.wipe = none ∧ b.allUp = true ∧
       b.boot.imageValid = true ∧ b.lc = .deployed ∧ b.stat.force = false ∧ (∀ c : Fin 8, b.inUse c = true → b.chanServes c = true)) ∧
    (let b : Block := { restored { up := true, upDone := 1, imageDone := true, seedDone := true, discovered := true } with chans := State.reset.blk.chans }
     b.allUp = true ∧ ∃ c : Fin 8, b.inUse c = true ∧ b.chanServes c = false) ∧
    ({ restoring with lc := .factory } : Block).lc ≠ .deployed ∧ restoring.boot.imageValid = false := by decide

/-- A tail that is being written. -/
def tail : Tail := { bytes := [], records := 2, size := 64, modeBits := 3 }

theorem witness_ResetsKeepAndClear : State.reset.blk.mode = .off ∧ served.mode ≠ .off ∧ served.tail = none ∧ 
    ({ served with tail := some tail } : Block).tail = some tail ∧ served.pins.warmHeld = false ∧
    ({ served with pins := { served.pins with warmHeld := true }, tail := some tail } : Block).pins.warmHeld = true ∧
    ({ served with pkts := { served.pkts with resetDue := true } } : Block).pkts.resetDue = true ∧ served.pkts.resetDue = false := by decide

theorem witness_PowerFailWarnings : served.mode = .serve ∧ served.pins.pfail = false ∧ served.dorm = .none ∧ served.tail = none ∧
    commissioned.mode = .commission ∧ commissioned.dorm = .none ∧
    (let b : Block := { served with pins := { served.pins with pfail := true } }
     b.pins.pfail = true ∧ b.pins.pfailHigh = false ∧ b.tail = none) ∧
    (let b : Block := { served with pins := { served.pins with pfail := true, pfailHigh := true } }
     b.pins.pfailHigh = true ∧ b.pins.pfail = true) := by decide

theorem witness_LifeCycleChanges : served.mode ≠ .off ∧ served.drain = false ∧ Lc.ofBits 0 = .factory ∧ Lc.ofBits 1 = .deployed ∧ served.wipe = none ∧
    (let b : Block := { restoring with wipe := some { old := .deployed, since := 0 }, restore := { restoring.restore with seedDone := true } }
     b.wipe ≠ none ∧ b.restore.seedDone = true) ∧ ({ served with lc := .retired } : Block).lc = .retired := by decide

theorem witness_TrainingAndVerify : (commissioned.taken .mgmt (request 0x23 1 [])).named (request 0x23 1 []) = [0] ∧
    (commissioned.taken .mgmt (request 0x23 2 [])).named (request 0x23 2 []) = [] ∧
    (commissioned.taken .mgmt (request 0x23 0x101 [])).chanServes 0 = true ∧ pP0 (request 0x23 0x101 []) 8 1 = 1 ∧
    (busyWith (opOf 0x23 1)).op? 0x23 = some (opOf 0x23 1) ∧ (busyWith (opOf 0x24 1)).op? 0x24 = some (opOf 0x24 1) ∧
    maskList 1 = [0] ∧ (chanVal [((0 : Fin 8), (none : Option VerifyFail))] 0).isSome = true := by decide

/-- Pond 0 is on; requester 5 reads and writes it, and may have 16 requests in flight. -/
def ponded : Block := { served with
  cfg := cfgSet (cfgSet conf 0x0401 5 0 16) 0x0300 0 49 2, ponds := [], tiles := [] }

theorem witness_RequestsTaken : ponded.clk.pll = true ∧ ponded.serving = true ∧ (ponded.inlet 0).reqVoid = false ∧ 0 < (ponded.inlet 0).reqCred ∧
    ponded.numbered = true ∧ ponded.level 5 = 3 ∧ ponded.boundTo 5 0 = true ∧ ponded.boundTo 5 1 = false ∧ ponded.f 0x0401 5 0 = 16 ∧
    ponded.access 5 0 = 2 ∧ ponded.written 0 2 = true ∧ (polOf ponded.cfg 5).mode = 0 := by decide

theorem witness_RequestsTaken_pond : pondOf ponded.cfg 2 = some 0 := by decide

theorem witness_RequestsTaken_none : pondOf ponded.cfg 0x400000 = none := by decide

set_option maxRecDepth 4000 in
theorem witness_RequestsTaken_parity : (parseHdr (encodeHdr .read hdr5)).parityOk = true := by decide

set_option maxRecDepth 4000 in
theorem witness_RequestsTaken_odd : (parseHdr 1).parityOk = false := by decide

/-- A request of requester 5 in flight. -/
def reqOf (id tag : Nat) (op : Op) (st : Stage) : Req :=
  { id := id, inlet := some 0, op := op, requester := 5, tag := tag, cls := 2, served := 2, blk := 2, pond := some 0, stage := st, takenAt := 0,
    counted := true, tracked := true }

/-- A READ of tag 3 that waits for DRAM, a FENCE of tag 4 behind it, and a READ of tag 6 that the FENCE holds. -/
def fenced : Block := { ponded with
  reqs := [reqOf 3 3 .read .chan, reqOf 4 4 .fence .fencing, reqOf 6 6 .read .fenceHeld], nextId := 7 }

theorem witness_RequestsTaken_flight : fenced.numbered = true ∧ (∃ r ∈ fenced.reqs, r.requester = 5 ∧ r.stage = .fencing) ∧
    (∀ r ∈ ponded.reqs, r.requester = 5 → r.stage ≠ .fencing) ∧
    (fenced.reqs.find? (fun r => r.requester == 5 && r.tag == 6 && r.tracked && !(r.op == .cancel))).map (·.stage) = some .fenceHeld := by decide

/-- The FENCE alone, and with a READ that is ready. -/
def fencedReady : Block := { fenced with reqs := [reqOf 3 3 .read .ready, reqOf 4 4 .fence .fencing] }

theorem witness_RequestsAnswered : fencedReady.numbered = true ∧ (∀ x ∈ fencedReady.before 4, x.requester = 5 → x.stage = .ready) ∧
    (∃ x ∈ fenced.before 4, x.requester = 5 ∧ x.stage ≠ .ready) ∧ 0 < (fencedReady.inlet 0).rspCred ∧ fencedReady.clk.pll = true := by decide

theorem witness_RequestsAnswered_fence : fencedReady.reqs.find? (fun r => r.requester == (5 : BitVec 8).toNat && r.tag == (4 : BitVec 11).toNat &&
    r.stage == .fencing) = some (reqOf 4 4 .fence .fencing) := rfl

theorem witness_RequestsAnswered_ready : (fencedReady.readyOn 0)[0]? = some (reqOf 3 3 .read .ready) := rfl

theorem witness_RequestsAnswered_debug : served.mode ≠ .off ∧ served.clk.pll = true ∧ served.dbg.busy = false ∧ served.lc ≠ .deployed ∧
    ({ served with lc := .deployed } : Block).lc = .deployed ∧ served.serving = true ∧ commissioned.serving = false ∧
    (∀ r ∈ fenced.reqs, r.requester = 0xF5 → r.blk ≠ 2) := by decide

/-- Queue 0 of channel 0 holds a DRAM-bound request whose burst is due, and one whose write has been sent. -/
def inFlight (k : DKind) : Block := { fenced with
  chans := fenced.chans.modify 0 (fun ch => { ch with queues := ch.queues.modify 0 (fun q =>
    { q with ents := [{ d := { read5 with kind := k } }], flight := [3], sending := [3] }) }) }

theorem witness_DramDataReturns : [DKind.read, .lineFill, .writePartial, .dredgeRead].all (fun k =>
    let b := inFlight k
    b.shaped && b.numbered && ((((b.chan 0).queue 0).returning).map (fun e => (e.d.id, e.d.kind, e.d.owner, e.reread)) == some (3, k, some 3, false)) &&
      (((b.chan 0).queue 0).sending == [3])) = true ∧ ((fenced.chan 0).queue 0).flight = [] ∧
    (∃ w ∈ fenced.reqs, w.id = 3 ∧ w.stage ≠ .ready ∧ w.inlet ≠ none ∧ w.status = 0) := by decide

/-- Pond 0 is dredged, block time having reached its first block. -/
def dredged : Block := { served with
  cfg := cfgSet (cfgSet conf 0x0300 0 51 1) 0x0C02 0 0 65535, dredge := [(0, { wfReady := true })] }

theorem witness_DredgePasses : dredged.serving = true ∧ dredged.drain = false ∧ dredged.dorm = .none ∧ dredged.walks 0 = true ∧
    (dredged.place 0).writeFirst = true ∧ dredged.dredgeOut < dredged.f 0x0C02 0 24 ∧
    (let w := tget {} dredged.dredge 0
     w.cursor < dredged.pondBlocks 0 ∧ w.passStart + ((w.cursor * dredged.interval 0 : Nat) : Int) ≤ dredged.blockTime) ∧
    (let b : Block := { dredged with dredge := [(0, { wfReady := true, cursor := 0x400000 })] }
     b.walks 0 = true ∧ b.pondBlocks 0 ≤ (tget {} b.dredge 0).cursor ∧ b.pondBlocks 0 ≠ 0 ∧
       ∀ ch ∈ b.chans, (ch.find (fun d => d.kind == .dredgeRead && d.pond == 0)).isNone = true) := by decide

/-- A job of pond 0. -/
def job (op : Nat) : FillJob := { opcode := op, pond := 0, first := 0, next := 4, stop := 4, covered := 4 }

/-- Its packet and itself, with nothing left to do. -/
def jobbed (op : Nat) : Block := { served with
  pkts := { served.pkts with ops := [{ opOf op 0 with next := 1 }] }, jobs := [job op], ponds := [(0, { wiping := true })] }

theorem witness_PondPackets : served.numbered = true ∧ pondOn served.cfg 0 = true ∧ pondOn served.cfg 1 = false ∧ (served.pondRt 0).lost = false ∧
    served.flag 0x0300 0 48 = false ∧ ({ served with ponds := [(0, { lost := true })] } : Block).pondRt 0 = { lost := true } ∧
    (jobbed 0x32).pondOp? 0x32 (0 : Fin 64) = some { opOf 0x32 0 with next := 1 } ∧ (jobbed 0x32).jobEnded { opOf 0x32 0 with next := 1 } = true ∧
    (jobbed 0x30).pondOp? 0x30 (0 : Fin 64) = some { opOf 0x30 0 with next := 1 } ∧ served.pondOp? 0x32 (0 : Fin 64) = none := by decide

/-- A range packet. -/
def rangeOf (op first count : Nat) : Packet := request op first (leBytes 8 count ++ List.replicate 8 0)

theorem witness_FillPackets : rangeCount (rangeOf 0x50 0 4) = 4 ∧ rangeCount (rangeOf 0x50 0 0) = 0 ∧
    (served.taken .mgmt (rangeOf 0x50 0 4)).rangePond 0 4 = some 0 ∧ (served.taken .mgmt (rangeOf 0x50 0 4)).rangePond 0x3FFFFF 1 = some 0 ∧
    (served.taken .mgmt (rangeOf 0x50 0 4)).rangePond 0x3FFFFF 2 = none ∧ (job 0x50).over (jobbed 0x50) = true ∧
    (jobbed 0x50).jobs.find? (fun j => j.opcode == 0x50 && j.over (jobbed 0x50)) = some (job 0x50) := by decide

/-- Pond 0 is cached; way 0 is NORMAL and way 1 LOCKED; block 2 has a dirty line in way 0. -/
def cached : Block := { served with
  cfg := [(0x0300, 0, 42, 1), (0x0E00, 0, 0, 1), (0x0E00, 0, 66, 1)].foldl (fun t (e : Nat × Nat × Nat × Nat) => cfgSet t e.1 e.2.1 e.2.2.1 e.2.2.2) conf
  cache := { served.cache with lines := [(32, { blk := 2, data := 0, dirty := true })] } }

/-- What a packet for blocks 2 and 3 with way `w` finds. -/
def ranged (op w act : Nat) : Packet := request op 2 (leBytes 6 2 ++ [BitVec.ofNat 8 w, BitVec.ofNat 8 act] ++ List.replicate 8 0)

theorem witness_CacheRanges : [(0x40, 1, 0), (0x41, 1, 0), (0x42, 0, 0), (0x43, 0, 0), (0x43, 0, 1), (0x43, 0, 2)].all (fun (x : Nat × Nat × Nat) =>
      cached.clears .mgmt (ranged x.1 x.2.1 x.2.2)) = true ∧ rangeCount (ranged 0x41 1 0) = 2 ∧
    (cached.taken .mgmt (ranged 0x41 1 0)).rangeOk (ranged 0x41 1 0) = true ∧ (served.taken .mgmt (ranged 0x41 1 0)).rangeOk (ranged 0x41 1 0) = false ∧
    cached.wayMode 0 = 0 ∧ cached.wayMode 1 = 1 ∧ cached.linesIn 2 2 (· == 0) true = [2] ∧ cached.linesIn 2 2 (fun _ => true) true = [2] ∧
    (aget cached.cache.lines (slotIn 2 1)).isSome = false ∧ cached.reserved (slotIn 2 1) = false := by decide

theorem witness_CacheRanges_line : (cached.cache.lookup 2).map (fun e => (e.1, e.2.dirty, e.2.wb)) = some (.way 32, true, none) := by decide

/-- A packet on a range in progress, its work done. -/
def rangeDone (op : Nat) : LongOp := { src := .mgmt, pkt := ranged op 1 0, next := 2 }

theorem witness_CacheRanges_ends : [0x40, 0x41, 0x42, 0x43].all (fun op =>
      ((busyWith (rangeDone op)).op? op).isSome && ((busyWith (rangeDone op)).op? (op + 4)).isNone) = true ∧
    ¬ (rangeDone 0x40).next < rangeCount (rangeDone 0x40).pkt ∧ served.cache.fills = [] ∧ aget served.preloads 0 = none ∧
    (rangeDone 0x43).blks = [] ∧ ({ opOf 0x40 0 with pkt := ranged 0x40 1 0 } : LongOp).next < rangeCount (ranged 0x40 1 0) ∧
    (let b : Block := { served with preloads := (List.range 64).map (fun k => (k, ⟨0, 0, 0⟩)) }
     ∀ i : Fin 64, (aget b.preloads i).isSome = true) := by decide

theorem witness_CacheStates : risingKeys cached.cache.lines = true ∧ (cached.taken .mgmt (request 0x44 0 [])).cacheOn = true ∧
    (({ served with cfg := cfgSet conf 0x0E00 0 0 0 } : Block).taken .mgmt (request 0x44 0 [])).cacheOn = false ∧ (∃ w : Fin 16, served.wayMode w = 0) ∧
    (∀ w : Fin 16, ({ served with cfg := (List.range 16).foldl (fun t w => cfgSet t 0x0E00 0 (64 + 2 * w) 1) conf } : Block).wayMode w ≠ 0) ∧
    cached.clears .mgmt (request 0x46 0x10001 []) = true ∧ (cached.taken .mgmt (request 0x46 0x10001 [])).wayMode 0 = 0 := by decide

set_option maxRecDepth 20000 in
theorem witness_CacheStates_mode : cfgGet ((cached.taken .mgmt (request 0x46 0x10001 [])).wayCheck 1 1).new 0x0E00 0 64 = 1 := by decide

theorem witness_CacheStates_ends :
    (let b : Block := { cached with cache := { cached.cache with relock := some (64 * 2 ^ 38), fills := [] } }
     b.cache.relock = some (64 * 2 ^ 38) ∧ ¬ 64 * 2 ^ 38 < 64 * 2 ^ 38 ∧ b.cache.fills = []) ∧
    (let b : Block := { busyWith (opOf 0x45 0) with cache := { cached.cache with disabling := some 1 } }
     b.op? 0x45 = some (opOf 0x45 0) ∧ b.cache.disabling = some 1 ∧ (∃ x ∈ b.cache.lines, x.2.dirty = true)) ∧
    (let b : Block := { busyWith (opOf 0x45 0) with cache := { disabling := some 1 } }
     (∀ x ∈ b.cache.lines, x.2.dirty = false) ∧ ∀ l ∈ b.cache.shallows, l.dirty = false) ∧
    (let b : Block := { busyWith (opOf 0x46 0) with cache := { cached.cache with conv := some { mask := 2, mode := 0 } } }
     b.op? 0x46 = some (opOf 0x46 0) ∧ b.cache.conv = some { mask := 2, mode := 0 } ∧
       ∀ x ∈ b.cache.lines, ¬ ((2).testBit (x.1 % 16) = true ∧ x.2.dirty = true)) := by decide

/-- Block 2's line is older than DIRTY_AGE. -/
def aged : Block := { cached with clk := { cached.clk with ns := 10 ^ 9 * 4295 } }

theorem witness_CacheStates_age : (aget aged.cache.lines 32).map (fun l => (l.dirty, l.wb, l.age.getD (aged.f 0x0E00 0 32))) = some (true, none, aged.f 0x0E00 0 32) ∧
    aged.f 0x0E00 0 32 ≠ 0 ∧ aged.drain = false ∧ 0 + ((1000 * aged.f 0x0E00 0 32 : Nat) : Int) ≤ aged.blockTime ∧
    (aget cached.cache.lines 33).isNone = true := by decide

theorem witness_CacheStates_stall : (let k : Cache := { shallows := [{ blk := 2, data := 0, dirty := true }], waitVictim := [3], victimSince := 0 }
    let b : Block := { served with cache := k, clk := { served.clk with cclk := 1800 } }
    k.waitVictim ≠ [] ∧ k.stallTold = false ∧ b.clk.hz ≤ (b.clk.cclk - k.victimSince) * 10 ^ 6) := by decide

/-- Channel 0 serves with two spare rows a bank and an identified DIMM, and an entry for row 5 of bank 1 that is active. -/
def spared : Block := { served with
  cfg := cfgSet conf 0x0D00 0 0 2
  chans := served.chans.modify 0 (fun ch => { ch with
    cam := [⟨0, true, 0, 0, 0, 0, 1, 5, 0⟩], copy := some { idx := 0, col := 128, mask := 0, copied := 0, poisoned := 0 }
    phy := { ch.phy with present := [true, false], identity := [1, 0] } }) }

/-- SPARE_ADD of a row of bank group 0, bank `ba`. -/
def spareAt (ba row : Nat) : Packet := request 0x80 (ba * 2 ^ 12 + row * 2 ^ 14) []

theorem witness_SparingPackets : spared.chans.length = 8 ∧ spared.clears .mgmt (spareAt 1 5) = true ∧
    (let t := spared.taken .mgmt (spareAt 1 6)
     let x := coordOfParam (spareAt 1 6).param0.toNat
     t.chanServes x.chan = true ∧ t.inGeometry x = true ∧ t.spareArea x = false ∧ t.f 0x0D00 0 0 = 2 ∧ t.dimmIdentity 0 0 ≠ 0 ∧
       (∀ d ∈ (t.chan 0).cam, d.active = true → d.maps x = false) ∧ (∃ d ∈ (t.chan 0).cam, d.inBank x = true ∧ d.spare = 0) ∧
       (∀ d ∈ (t.chan 0).cam, ¬ (d.inBank x = true ∧ d.spare = 1)) ∧ (∃ d ∈ (t.chan 0).cam, d.idx = 0) ∧ (∀ d ∈ (t.chan 0).cam, d.idx ≠ 1)) ∧
    ((spared.chan 0).cam.find? (fun d => d.active && d.maps (coordOfParam (spareAt 1 5).param0.toNat))).isSome = true ∧
    spared.chanServes (coordOfParam 1).chan = false ∧ spared.spareArea (coordOfParam (65535 * 2 ^ 14)) = true ∧
    commissioned.inUse 0 = true ∧ commissioned.inUse 1 = false ∧ pP0 (request 0x82 (2 ^ 32) []) 32 1 = 1 := by decide

theorem witness_SparingPackets_ends :
    (let b : Block := { spared with pkts := { served.pkts with ops := [opOf 0x80 0] } }
     (b.chan (0 : Fin 8)).copy = some { idx := 0, col := 128, mask := 0, copied := 0, poisoned := 0 } ∧ 2 ^ (geoOf b.cfg 0).colb ≤ 128 ∧
       b.pkts.ops.find? (fun o => o.pkt.opcode == 0x80 && o.n == (0 : Fin 8).val) = some (opOf 0x80 0) ∧
       ((b.chan 0).cam.find? (fun d => d.idx == 0)).isSome = true) ∧
    (busyWith (opOf 0x82 0)).pkts.ops.find? (fun o => o.pkt.opcode == 0x82 && o.n == (0 : Fin 8).val) = some (opOf 0x82 0) ∧
    ((busyWith (opOf 0x82 0)).pprRows (request 0x82 0 [])).length = [PprRow.repaired].length := by decide

theorem witness_Turnovers : openBank.shaped = true ∧ (∀ k ∈ (openBank.chan 0).queues, risingKeys k.banks = true) ∧ openBank.chanServes 0 = true ∧
    openBank.clk.pll = true ∧ (openBank.chan 0).turn.stalled = false ∧ (openBank.chan 0).alert = .none ∧ (openBank.chan 0).turn.doubled = false ∧
    (let b := openBank.modChan 0 (fun ch => { ch with
       turn := { ch.turn with doubled := true, aligned := true }
       queues := ch.queues.modify 0 (fun k => { k with banks := [(0, { raa := 255 })] })
       phy := { ch.phy with driftDue := [(0, 65)] } })
     (b.chan 0).turn.doubled = true ∧ (b.chan 0).turn.aligned = true ∧ b.rfmOn 0 = true ∧
       b.f 0x0A00 0 80 ≤ (tget {} ((b.chan 0).queue 0).banks (0 % 1024)).raa + 1 ∧ 64 < tget 0 (b.chan 0).phy.driftDue 0) := by decide

theorem witness_Turnovers_late : (let b : Block := { openBank with clk := { openBank.clk with ns := 10 ^ 9 } }.modChan 0 (fun ch => { ch with
      turn := { ch.turn with aligned := true } })
    (b.chan 0).turn.aligned = true ∧ 9 * b.turnInterval 0 ≤ 8 * (b.clk.ns - (b.chan 0).turn.lastStart)) ∧
    ¬ 9 * (openBank.advance 0).turnInterval 0 ≤ 8 * (openBank.clk.ns - (openBank.chan 0).turn.lastStart) := by decide

theorem witness_Turnovers_stopping : (let b := openBank.modChan 0 (fun ch => { ch with
      turn := { ch.turn with stalled := true, doubled := true, stopping := some { sensor := 16, due := true } } })
    (b.chan (0 : Fin 8)).turn.stalled = true ∧ (b.chan 0).turn.stopping = some { sensor := 16, due := true } ∧
      ((b.endStall 0).chan 0).turn.doubled = false ∧ ((b.endStall 0).chan 0).turn.stopping = none) := by decide

theorem witness_HeadersComeBack : (reqOf 3 2047 .read .ready).status < 2 ^ 8 ∧ (reqOf 3 2047 .read .ready).tag < 2 ^ 11 ∧
    (reqOf 3 2047 .read .ready).requester < 2 ^ 8 ∧ (reqOf 3 2047 .read .ready).served < 2 ^ 3 ∧ (request 4 0 (List.replicate 16 0)).body.length % 4 = 0 := by
  decide

theorem witness_AddressesComeBack :
    (let p : Place := { size := 1 }
     let g := setGeo conf 0
     cfgGet conf 0x1200 0 8 ≤ g.colb ∧ ((positions conf 0 g).map Prod.snd).Nodup ∧ (∀ e ∈ positions conf 0 g, e.2 < g.hb) ∧ memberMask conf p ≠ 0 ∧
       p.striped = false ∧ p.exclude = 0 ∧ maskCount (setMask conf 0) = 1 ∧ 0xFFFFFC0 < p.size * 2 ^ 28 ∧ 0xFFFFFC0 % 64 = 0) ∧
    (let p : Place := { size := 1, striped := true, grain := 8, exclude := 2, setOff := 3 }
     let t := cfgSet conf 0x1200 0 0 7
     p.grain ≤ 8 ∧ memberMask t p = 5 ∧ maskCount (setMask t 0) = 3 ∧ p.setOff % 3 = 0) := by decide

/-! ### Worked examples of the manual -/

/-- The header of the example of section 03: requester 0x1A reads block 0x2AF3_7BC1 in class 2 with tag 0x3C4. -/
def hdrA : ReqHdr := { requester := 0x1A, tag := 0x3C4, cls := 2, addr := 0x2AF37BC1, noAlloc := false, forceSound := false }

/-- 03, "one request and its response": the header word. -/
theorem test_request_header : encodeHdr .read hdrA = 0x80000000000000002AF37BC103C41A20#128 := by decide +kernel

/-- 03: the header word reads back. -/
theorem test_request_header_parsed : parseHdr 0x80000000000000002AF37BC103C41A20#128 = hdrOf .read hdrA := by decide +kernel

/-- 03 (R82): the same header with HDR_PARITY clear has the wrong parity. -/
theorem test_header_parity : (parseHdr 0x2AF37BC103C41A20#128).parityOk = false := by decide +kernel

/-- The request of that example when it completes from the block cache. -/
def reqA : Req := { id := 0, inlet := some 2, op := .read, requester := 0x1A, tag := 0x3C4, cls := 2, served := 2, blk := 0x2AF37BC1,
                    stage := .ready, takenAt := 0, rdata := some 0, cacheHit := true }

/-- 03: the response header, 39 cclk after the request, at Grenel 3 and at Grenel 1. -/
theorem test_response_header : (rspHeader 3 reqA 39, rspHeader 1 reqA 39) = (0x0004000A08D3C400#64, 0x88D3C400#64) := by decide +kernel

/-- Words 0 to 7 of the CONFIG_WRITE of 04: OUTSTANDING_CAP 3,000 for slot 0x1A. -/
def capWrite : Packet :=
  packetOf (([0xF6041003, 0x00420000, 0x001A0401, 0x00000001, 0x00000BB8, 0, 0, 0] : List (BitVec 32)).flatMap wordBytes)

/-- 04, "a clamped CONFIG_WRITE": the one entry of the clamp report. -/
theorem test_clamped_write :
    (checkPacket State.reset.blk [(pP0 capWrite 0 16, pP0 capWrite 16 16, pBody capWrite 0 8)]).rep =
      [{ record := 0x0401, inst := 0x1A, field := 0, reason := 2, requested := 3000, applied := 2048 }] := by decide +kernel

/-- 04: the header words of its reply. -/
theorem test_reply_words :
    bytesWords (packetHead { capWrite with reply := true, length := 6, status := 0x40 }) =
      [0xF6061013, 0x00420040, 0x001A0401, 0x00000001] := by decide +kernel

/-- 06, "the first 200 ns of a policed requester", with one cclk a ns. -/
def polA : Pol := { mode := 2, yellow := 5, overhead := 0, cir := 1000, pir := 2000, cbs := 4096, pbs := 8192 }

/-- The colours of requests of these cclk and costs. -/
def policed (ts : List (Nat × Nat)) : List Colour :=
  (ts.foldl (fun (a : Slot × List Colour) e =>
    let r := a.1.police polA (10 ^ 9) e.1 e.2
    (r.1, a.2 ++ [r.2])) ({}, [])).2

theorem test_policer_colours : policed [(50, 64), (100, 64), (110, 128), (200, 128)] = [.yellow, .green, .red, .green] := by decide +kernel

/-- 07, "seven cclk on channel 3": the states of the LFSR. -/
theorem test_lfsr_sequence :
    (lfsrStep 0x12345678#32, lfsrStep 0x2468ACF1#32, lfsrStep 0x48D159E2#32, lfsrStep 0x91A2B3C5#32, lfsrStep 0x2345678B#32) =
      (0x2468ACF1#32, 0x48D159E2#32, 0x91A2B3C5#32, 0x2345678B#32, 0x468ACF16#32) := by decide +kernel

/-- 07: the winners of grants 1, 2, 3 and 5. -/
theorem test_draws :
    (drawOf 0x2468ACF1 [(0x10, 40), (0x1A, 100), (0x2C, 60)], drawOf 0x48D159E2 [(0x10, 40), (0x1A, 100), (0x2C, 60)],
      drawOf 0x91A2B3C5 [(0x10, 40), (0x2C, 60)], drawOf 0x468ACF16 [(0x10, 40)]) =
      (some 0x10, some 0x1A, some 0x2C, some 0x10) := by decide +kernel

/-- 06, "a four-window cycle": the eight entries as a list in record 0x0700. -/
def sluiceConf : Tab Nat :=
  ([((0 : Nat), (8 : Nat)), (64, 1000000000000), (128, 1000123400000)] ++
   ([400, 3500, 400, 3500, 400, 3500, 400, 3500] : List Nat).zipIdx.map (fun (e : Nat × Nat) => (8 * (0x21 + 8 * e.2), e.1))).foldl
    (fun t (e : Nat × Nat) => cfgSet t 0x0700 0 e.1 e.2) []

/-- 06: the applied activation time, and that the requested boundary was late. -/
theorem test_activation : activation sluiceConf 1000123456789 = (1000123474000, true) := by decide +kernel

/-- 06: the entry in force at phase 11,500, and the boundary B of the time fault. -/
theorem test_entry_and_boundary :
    (entryAt sluiceConf 0x0700 1000123485500, nextBoundary sluiceConf 0x0700 1002200013000) = (5, 1002200021200) := by decide +kernel

/-- The CRC-32 of IEEE 802.3 (R408) over the nine bytes of its published check value. -/
theorem test_crc32 : crc32 [0x31, 0x32, 0x33, 0x34, 0x35, 0x36, 0x37, 0x38, 0x39] = 0xCBF43926#32 := by decide +kernel

/-- Channels 0 to 3 of DDR5 x4 16-Gbit devices, two ranks; channels 5 to 7 of DDR4 x8; sets 0 and 2 of the examples of section 05. -/
def mapConf : Tab Nat :=
  ([0, 1, 2, 3].flatMap (fun (c : Nat) => [(0x0100, c, 0, 1), (0x0100, c, 2, 1)]) ++
   [5, 6, 7].flatMap (fun (c : Nat) => [(0x0100, c, 0, 1), (0x0100, c, 1, 1), (0x0100, c, 2, 1), (0x0100, c, 3, 1)]) ++
   [(0x1200, 0, 0, 0xF), (0x1200, 0, 8, 2)] ++
   [(0, 0xA), (1, 0x14), (4, 1), (5, 0x20), (6, 0x40), (7, 0x80), (8, 0x100)].map (fun (e : Nat × Nat) => (0x1200, 0, 8 * (0x0C + 8 * e.1), e.2)) ++
   [(0x1200, 2, 0, 0xE0), (0x1200, 2, 8, 2)] ++
   [(4, 2), (5, 4), (7, 8), (8, 0x10)].map (fun (e : Nat × Nat) => (0x1200, 2, 8 * (0x0C + 8 * e.1), e.2))).foldl
    (fun t (e : Nat × Nat × Nat × Nat) => cfgSet t e.1 e.2.1 e.2.2.1 e.2.2.2) []

/-- Pond 4 of 05, on set 0. -/
def hashedPlace : Place := { base := 64, size := 128, set := 0, setOff := 8 }

/-- The striped pond of 05, on set 2. -/
def stripedPlace : Place := { base := 512, size := 96, set := 2, setOff := 3, striped := true, grain := 4 }

/-- 05, "a hashed forward decode". -/
theorem test_hashed_decode :
    placeDecode mapConf hashedPlace 0x12345640 = { chan := 0, sc := 1, rank := 1, cid := 0, bg := 3, ba := 0, row := 584, col := 81 } := by
  decide +kernel

/-- 05, "from an event back to an address". -/
theorem test_hashed_encode :
    placeEncode mapConf hashedPlace { chan := 2, sc := 0, rank := 0, cid := 0, bg := 5, ba := 2, row := 1000, col := 10 } = some 0x7A024880 := by
  decide +kernel

/-- 05, "a striped forward decode". -/
theorem test_striped_decode :
    placeDecode mapConf stripedPlace 0x01234580 = { chan := 6, sc := 0, rank := 0, cid := 0, bg := 1, ba := 3, row := 1048, col := 70 } := by
  decide +kernel

/-- 10, "a flipped bit and a stuck device": 0x3C in byte 5 of the block. -/
def blockA : Block512 := 0x3C#512 <<< 40

set_option maxRecDepth 100000 in
/-- 10: byte 5 arrives as 0x38 and is corrected on lane 10 of beat 1. -/
theorem test_grid_flip :
    decodeGrid .g5x4 0x1048D159 3 none (encodeGrid .g5x4 0x1048D159 3 blockA false ^^^ (0x4#640 <<< 40)) = ⟨.corrected (128 + 10), blockA⟩ := by
  decide +kernel

set_option maxRecDepth 100000 in
/-- 10: device 2 returns 1111 in every beat of a block of zeros, and is rebuilt. -/
theorem test_grid_rebuild :
    decodeGrid .g5x4 0x1048D159 3 none
      (encodeGrid .g5x4 0x1048D159 3 0 false ^^^
        (List.range 16).foldl (fun (x : BitVec 640) b => x ||| (0xF#640 <<< (32 * b + 8))) 0) = ⟨.rebuilt 2 64, 0⟩ := by decide +kernel

/-- 11, "training and drift": DRIFT_ADJ from sample to sample. -/
theorem test_drift : (driftTarget 128 43 44 0, driftTarget 128 43 44 4, driftTarget 128 43 44 8) = (4, 8, 9) := by decide +kernel

/-- 12, "a failing row": PARAM0 of SPARE_ADD. -/
theorem test_spare_param : coordOfParam 0x00920618 = { chan := 0, sc := 1, rank := 1, cid := 0, bg := 3, ba := 0, row := 584, col := 0 } := by
  decide +kernel

/-- 12: the second word of the map record. -/
theorem test_spare_word :
    leNat ((SpareRec.bytes { identity := 0x004217D322111A7C, repaired := false, sc := 1, dimmRank := 1, cid := 0, bg := 3, ba := 0,
                             row := 584, spare := 0 }).drop 8) = 0x248186 := by decide +kernel

/-- Pond 4 of 128 units and pond 9 of 96, both walked at a SCRUB_RATE. -/
def walkBlock (rate : Nat) : Block := { State.reset.blk with
  cfg := [(0x0300, 4, 16, 128), (0x0300, 4, 96, 168), (0x0300, 4, 40, 0), (0x0300, 4, 51, 1), (0x0300, 9, 16, 96), (0x0300, 9, 40, 0), (0x0300, 9, 51, 1), (0x0C02, 0, 0, rate)].foldl
    (fun t (e : Nat × Nat × Nat × Nat) => cfgSet t e.1 e.2.1 e.2.2.1 e.2.2.2) [] }

/-- 12, "dredge pace": I at SCRUB_RATE 65,535 and at SCRUB_RATE 100. -/
theorem test_dredge_interval : ((walkBlock 65535).interval 4, (walkBlock 100).interval 4) = (1126527, 1120) := by decide +kernel

/-- 13 (R357): the set and tag of block 0x1048_D159, by the rule's formula (NOTES.md, on the set that the example prints). -/
theorem test_cache_set : (setOf 0x1048D159, tagOf 0x1048D159) = (0x107B, 0x4123) := by decide +kernel

/-- A record of 15, "a burst of corrections on channel 5": five units of 8 bytes. -/
def logRecA (code seq : Nat) : LogRec :=
  { code := code, sev := 0, chanValid := true, chan := 5, timeValid := true, seq := seq, ts := 0, payload := List.replicate 24 0 }

/-- 15: the headers of a record, of a packet's body not logged, and of the summary. -/
theorem test_log_headers :
    ((logRecA 0xD0 0x1234).head false, (logRecA 0xD0 0x1244).head true % 2 ^ 32, (logRecA 0x3F 0x1244).head false) =
      (0x00001234000370D0, 0x000770D0, 0x000012440003703F) := by decide +kernel

/-- The request of 16, "a sampled line fill". -/
def reqS : Req := { id := 0, inlet := some 2, op := .read, requester := 0x1A, tag := 0x101, cls := 2, served := 2, blk := 0x1048D159,
                    pond := some 4, stage := .ready, takenAt := 1000, colour := .green,
                    snd := { sampled := true, tPolice := some 1003, tLookup := some 1008, tGrant := some 1014, tCmd := some 1018,
                             tData := some 1124, cacheOut := 3, rowOut := 3, decode := 0,
                             coord := some { chan := 0, sc := 1, rank := 1, bg := 3, row := 584, col := 81 } } }

/-- 16: the record of that request, word by word. -/
theorem test_sounding :
    (List.range 8).map (fun k => (soundRecord reqS 0 1140).toNat / 2 ^ (64 * k) % 2 ^ 64) =
      [0x00000011011A1201, 0x006181001048D159, 0x00000248000003E8, 0x0000000800000003, 0x000000120000000E, 0x0000008C0000007C,
       0x000000000004001B, 0] := by decide +kernel

end Sys2Proof.Tests
end

/-! The sound block as a proposition. -/

namespace Sys2Proof.Machine

/-! ### The parts of a sound block -/

/-- The limits of the credits of one inlet (R50, R52, R54, R55). -/
def Inlet.Ok (n : Inlet) : Prop :=
  n.reqCred ≤ 512 ∧ n.cmdCred + n.cmdOwed ≤ 32 ∧ n.rspCred ≤ 1023 ∧ n.rplCred ≤ 1023

/-- The banks of a queue form a table. -/
def Queue.Ok (k : Queue) : Prop := risingKeys k.banks = true

/-- Six sensors (R77). -/
def Phy.Ok (p : Phy) : Prop := p.temps.length = 6 ∧ p.tempBad.length = 6 ∧ p.tempGood.length = 6

/-- Two queues, each sound, and six sensors. -/
def Chan.Ok (ch : Chan) : Prop := ch.queues.length = 2 ∧ (∀ k ∈ ch.queues, k.Ok) ∧ ch.phy.Ok

/-- The canonical forms of the scratch ways' memory and of the lines. -/
def Cache.Ok (k : Cache) : Prop := Memory.wf k.scratch = true ∧ risingKeys k.lines = true

/-- Distinct numbers of requests, all below the next one. -/
def numberedBelow (l : List Req) (next : Nat) : Prop := (l.map Req.id).Nodup ∧ ∀ r ∈ l, r.id < next

/-- A retained image holds a configuration table. -/
def Image.Ok (i : Image) : Prop := risingKeys i.cfg = true

/-- What soundness says of each part of a block that it reads; no other part of the block matters to it. -/
structure OkParts (inlets : List Inlet) (chans : List Chan) (keys : List (BitVec 128)) (scratch : List Host.Cell)
    (lines : List (Nat × Line)) (reqs : List Req) (nextId : Nat) (cfg : Tab Nat) (ret : Option Image) (tx : List (BitVec 32))
    (queue : List QPkt) : Prop where
  fourInlets : inlets.length = 4
  inlets : ∀ n ∈ inlets, n.Ok
  eightChans : chans.length = 8
  chans : ∀ ch ∈ chans, ch.Ok
  keys : keys.length = 16
  scratch : Memory.wf scratch = true
  lines : risingKeys lines = true
  reqs : numberedBelow reqs nextId
  cfg : risingKeys cfg = true
  ret : ∀ i, ret = some i → i.Ok
  tx : tx.length ≤ 128
  queue : queue.length ≤ 64

/-- `Block.sound` as a proposition, on the parts alone. -/
def Block.Ok (b : Block) : Prop :=
  OkParts b.inlets b.chans b.keys b.cache.scratch b.cache.lines b.reqs b.nextId b.cfg b.ret b.mgmt.tx b.pkts.queue

theorem Block.sound_iff (b : Block) : b.sound = true ↔ b.Ok := by
  simp only [Block.sound, Block.shaped, Block.numbered, Block.sorted, Block.limited, Bool.and_eq_true, beq_iff_eq,
    List.all_eq_true, decide_eq_true_eq]
  have hret : (b.ret.map (fun i => risingKeys i.cfg)).getD true = true ↔ ∀ i, b.ret = some i → i.Ok := by
    cases b.ret <;> simp [Image.Ok]
  rw [hret]
  constructor
  · rintro ⟨⟨⟨⟨⟨⟨⟨hi, hc⟩, hq⟩, hk⟩, hm⟩, hn, hr⟩, ⟨⟨hcfg, hret⟩, hl⟩, hb⟩, ⟨⟨hin, htx⟩, hqu⟩, ht⟩
    exact
      { fourInlets := hi, eightChans := hc, keys := hk, scratch := hm, lines := hl, reqs := ⟨hn, hr⟩, cfg := hcfg, ret := hret
        tx := htx, queue := hqu
        inlets := fun n h => ⟨(hin n h).1.1.1, (hin n h).1.1.2, (hin n h).1.2, (hin n h).2⟩
        chans := fun ch h => ⟨hq ch h, hb ch h, (ht ch h).1.1, (ht ch h).1.2, (ht ch h).2⟩ }
  · intro h
    refine ⟨⟨⟨⟨⟨⟨⟨h.fourInlets, h.eightChans⟩, fun ch m => (h.chans ch m).1⟩, h.keys⟩, h.scratch⟩, h.reqs.1, h.reqs.2⟩,
      ⟨⟨h.cfg, h.ret⟩, h.lines⟩, fun ch m => (h.chans ch m).2.1⟩, ⟨⟨fun n m => ?_, h.tx⟩, h.queue⟩, fun ch m => ?_⟩
    · obtain ⟨h1, h2, h3, h4⟩ := h.inlets n m
      exact ⟨⟨⟨h1, h2⟩, h3⟩, h4⟩
    · obtain ⟨-, -, h1, h2, h3⟩ := h.chans ch m
      exact ⟨⟨h1, h2⟩, h3⟩

/-! ### Lists -/

theorem forall_mem_modify {α : Type} {P : α → Prop} {l : List α} {i : Nat} {g : α → α} (h : ∀ x ∈ l, P x)
    (hg : ∀ x, P x → P (g x)) : ∀ x ∈ l.modify i g, P x := by
  intro x hx
  obtain ⟨j, hj, rfl⟩ := List.getElem_of_mem hx
  rw [List.getElem_modify]
  split
  · exact hg _ (h _ (List.getElem_mem _))
  · exact h _ (List.getElem_mem _)

/-- A property that each step of a fold keeps. -/
theorem foldl_holds {α β : Type} {P : α → Prop} {g : α → β → α} {l : List β} {a : α} (h : P a)
    (hg : ∀ a x, P a → P (g a x)) : P (l.foldl g a) := by
  induction l generalizing a with
  | nil => exact h
  | cons x l ih => exact ih (hg a x h)

theorem aput_above {α : Type} {k i : Nat} {v : α} {t : List (Nat × α)} (h : above k t) (hi : k < i) : above k (aput t i v) := by
  induction t with
  | nil => simpa [aput, above] using hi
  | cons e t ih =>
    obtain ⟨j, w⟩ := e
    have hj : k < j := h (j, w) (by simp)
    have ht : above k t := fun e he => h e (List.mem_cons_of_mem _ he)
    unfold aput
    split_ifs
    · exact List.forall_mem_cons.2 ⟨hi, h⟩
    · exact List.forall_mem_cons.2 ⟨hi, ht⟩
    · exact List.forall_mem_cons.2 ⟨hj, ih ht⟩

theorem aput_rising {α : Type} {k : Nat} {v : α} {t : List (Nat × α)} (h : risingKeys t = true) :
    risingKeys (aput t k v) = true := by
  induction t with
  | nil => rfl
  | cons e t ih =>
    obtain ⟨j, w⟩ := e
    obtain ⟨ha, hr⟩ := risingKeys_cons.1 h
    unfold aput
    split_ifs with h1 h2
    · exact risingKeys_cons.2 ⟨List.forall_mem_cons.2 ⟨h1, fun e he => h1.trans (ha e he)⟩, h⟩
    · subst h2
      exact risingKeys_cons.2 ⟨ha, hr⟩
    · exact risingKeys_cons.2 ⟨aput_above ha (by simp only at *; omega), ih hr⟩

theorem adel_rising {α : Type} {k : Nat} {t : List (Nat × α)} (h : risingKeys t = true) : risingKeys (adel t k) = true :=
  filter_rising h

/-- A map that leaves the keys alone keeps them rising. -/
theorem map_rising {α β : Type} {g : Nat × α → Nat × β} (hg : ∀ e, (g e).1 = e.1) {t : List (Nat × α)}
    (h : risingKeys t = true) : risingKeys (t.map g) = true := by
  induction t with
  | nil => rfl
  | cons e t ih =>
    obtain ⟨ha, hr⟩ := risingKeys_cons.1 h
    refine risingKeys_cons.2 ⟨fun x hx => ?_, ih hr⟩
    obtain ⟨y, hy, rfl⟩ := List.mem_map.1 hx
    rw [hg, hg]
    exact ha y hy

theorem cfgSet_rising {t : Tab Nat} {id inst bit v : Nat} (h : risingKeys t = true) :
    risingKeys (cfgSet t id inst bit v) = true := by
  unfold cfgSet
  split
  · exact adel_rising h
  · exact aput_rising h

theorem cfgReset_rising {t : Tab Nat} {id inst : Nat} (h : risingKeys t = true) : risingKeys (cfgReset t id inst) = true :=
  filter_rising h

/-! ### Requests -/

theorem numberedBelow.map {l : List Req} {n : Nat} {g : Req → Req} (hg : ∀ r, (g r).id = r.id) (h : numberedBelow l n) :
    numberedBelow (l.map g) n := by
  refine ⟨?_, fun r hr => ?_⟩
  · rw [List.map_map, show Req.id ∘ g = Req.id from funext hg]
    exact h.1
  · obtain ⟨x, hx, rfl⟩ := List.mem_map.1 hr
    rw [hg]
    exact h.2 x hx

theorem numberedBelow.filter {l : List Req} {n : Nat} {p : Req → Bool} (h : numberedBelow l n) : numberedBelow (l.filter p) n :=
  ⟨h.1.sublist (List.filter_sublist.map _), fun r hr => h.2 r (List.mem_filter.1 hr).1⟩

theorem numberedBelow.mono {l : List Req} {n m : Nat} (h : numberedBelow l n) (hm : n ≤ m) : numberedBelow l m :=
  ⟨h.1, fun r hr => (h.2 r hr).trans_le hm⟩

/-- A request that takes the next number joins. -/
theorem numberedBelow.append {l : List Req} {n : Nat} {r : Req} (h : numberedBelow l n) (hr : r.id = n) :
    numberedBelow (l ++ [r]) (n + 1) := by
  constructor
  · rw [List.map_append, List.nodup_append]
    refine ⟨h.1, by simp, fun a ha b hb => ?_⟩
    obtain ⟨x, hx, rfl⟩ := List.mem_map.1 ha
    have := h.2 x hx
    simp only [List.map_cons, List.map_nil, List.mem_singleton] at hb
    omega
  · intro x hx
    rcases List.mem_append.1 hx with hx | hx
    · exact (h.2 x hx).trans (Nat.lt_succ_self n)
    · rw [List.mem_singleton.1 hx, hr]
      exact Nat.lt_succ_self n

/-! ### Parts read and changed -/

theorem Chan.Ok.init : ({} : Chan).Ok := ⟨rfl, by simp [Queue.Ok, risingKeys], rfl, rfl, rfl⟩

/-- A channel whose queues have been changed one by one. -/
theorem Chan.Ok.mapQueues {ch ch' : Chan} {g : Queue → Queue} (h : ch.Ok) (hq : ch'.queues = ch.queues.map g) (hp : ch'.phy = ch.phy)
    (hg : ∀ k, k.Ok → (g k).Ok) : ch'.Ok :=
  ⟨by rw [hq, List.length_map]; exact h.1, hq ▸ List.forall_mem_map.2 fun k m => hg k (h.2.1 k m), hp ▸ h.2.2⟩

theorem Chan.Ok.parts {ch : Chan} (h : ch.Ok) : ch.queues.length = 2 ∧ (∀ k ∈ ch.queues, k.Ok) ∧ ch.phy.Ok := h

theorem ite_ok {c : Prop} [Decidable c] {x y : Block} (hx : x.Ok) (hy : y.Ok) : (if c then x else y).Ok := by
  split
  · exact hx
  · exact hy

section
variable {b : Block}

/-- Soundness on the parts: what a block that differs in other parts needs. -/
theorem Block.Ok.parts (h : b.Ok) : OkParts b.inlets b.chans b.keys b.cache.scratch b.cache.lines b.reqs b.nextId b.cfg b.ret b.mgmt.tx
    b.pkts.queue := h

theorem Block.Ok.chan {c : Nat} (h : b.Ok) : (b.chan c).Ok := by
  rcases chan_mem_or b c with hc | hc
  · exact h.chans _ hc
  · rw [hc]
    exact Chan.Ok.init

theorem Block.Ok.queueAt {c q : Nat} (h : b.Ok) : ((b.chan c).queue q).Ok := by
  rcases queue_mem_or (b.chan c) q with hq | hq
  · exact h.chan.2.1 _ hq
  · rw [hq]
    exact rfl

theorem Block.Ok.setInlets {l : List Inlet} (h : b.Ok) (hl : l.length = 4) (hg : ∀ n ∈ l, n.Ok) :
    ({ b with inlets := l } : Block).Ok := { h with fourInlets := hl, inlets := hg }

theorem Block.Ok.setChans {l : List Chan} (h : b.Ok) (hl : l.length = 8) (hg : ∀ ch ∈ l, ch.Ok) :
    ({ b with chans := l } : Block).Ok := { h with eightChans := hl, chans := hg }

theorem Block.Ok.setCtr {c : Ctr} (h : b.Ok) : ({ b with ctr := c } : Block).Ok := h

theorem Block.Ok.setLog {l : Log} (h : b.Ok) : ({ b with log := l } : Block).Ok := h

theorem Block.Ok.setReqs {l : List Req} {n : Nat} (h : b.Ok) (hl : numberedBelow l n) :
    ({ b with reqs := l, nextId := n } : Block).Ok := { h with reqs := hl }

theorem Block.Ok.setCfg {t : Tab Nat} (h : b.Ok) (ht : risingKeys t = true) : ({ b with cfg := t } : Block).Ok := { h with cfg := ht }

theorem Block.Ok.cacheOk (h : b.Ok) : b.cache.Ok := ⟨h.scratch, h.lines⟩

theorem Block.Ok.setCache {k : Cache} (h : b.Ok) (hk : k.Ok) : ({ b with cache := k } : Block).Ok :=
  { h with scratch := hk.1, lines := hk.2 }

theorem Block.Ok.onCache {g : Cache → Cache} (h : b.Ok) (hg : ∀ k, k.Ok → (g k).Ok) : (b.onCache g).Ok :=
  h.setCache (hg _ h.cacheOk)

theorem Block.Ok.mapChans {g : Chan → Chan} (h : b.Ok) (hg : ∀ ch, ch.Ok → (g ch).Ok) :
    ({ b with chans := b.chans.map g } : Block).Ok :=
  h.setChans (by rw [List.length_map]; exact h.eightChans) (List.forall_mem_map.2 fun ch m => hg ch (h.chans ch m))

theorem Block.Ok.mapInlets {g : Inlet → Inlet} (h : b.Ok) (hg : ∀ n, n.Ok → (g n).Ok) :
    ({ b with inlets := b.inlets.map g } : Block).Ok :=
  h.setInlets (by rw [List.length_map]; exact h.fourInlets) (List.forall_mem_map.2 fun n m => hg n (h.inlets n m))

theorem Block.Ok.modChan {c : Nat} {g : Chan → Chan} (h : b.Ok) (hg : ∀ ch, ch.Ok → (g ch).Ok) : (b.modChan c g).Ok :=
  h.setChans (by rw [List.length_modify]; exact h.eightChans) (forall_mem_modify h.chans hg)

theorem Block.Ok.modInlet {i : Nat} {g : Inlet → Inlet} (h : b.Ok) (hg : ∀ n, n.Ok → (g n).Ok) : (b.modInlet i g).Ok :=
  h.setInlets (by rw [List.length_modify]; exact h.fourInlets) (forall_mem_modify h.inlets hg)

/-- An inlet changed under a condition on its own registers. -/
theorem Block.Ok.modInlet_at {i : Nat} {g : Inlet → Inlet} (h : b.Ok) (hg : (b.inlet i).Ok → (g (b.inlet i)).Ok) :
    (b.modInlet i g).Ok := by
  refine h.setInlets (by rw [List.length_modify]; exact h.fourInlets) fun x hx => ?_
  obtain ⟨j, hj, rfl⟩ := List.getElem_of_mem hx
  rw [List.length_modify] at hj
  have hm := h.inlets _ (List.getElem_mem hj)
  rw [List.getElem_modify]
  split
  · rename_i e
    have hb : b.inlet i = b.inlets[j] := by
      subst e
      exact List.getD_eq_getElem _ _ hj
    rw [hb] at hg
    exact hg hm
  · exact hm

theorem Chan.Ok.modQueue {ch : Chan} {q : Nat} {g : Queue → Queue} (h : ch.Ok) (hg : ∀ k, k.Ok → (g k).Ok) :
    (ch.modQueue q g).Ok :=
  ⟨by rw [← h.1]; exact List.length_modify .., forall_mem_modify h.2.1 hg, h.2.2⟩

theorem Block.Ok.modQueue {c q : Nat} {g : Queue → Queue} (h : b.Ok) (hg : ∀ k, k.Ok → (g k).Ok) : (b.modQueue c q g).Ok :=
  h.modChan fun _ k => k.modQueue hg

theorem Block.Ok.modReq {id : Nat} {g : Req → Req} (h : b.Ok) (hg : ∀ r, (g r).id = r.id) : (b.modReq id g).Ok :=
  h.setReqs (h.reqs.map fun r => by split <;> simp [hg])

theorem Block.Ok.modSnd {id : Option Nat} {g : Sound → Sound} (h : b.Ok) : (b.modSnd id g).Ok := by
  unfold Block.modSnd
  split
  · exact h
  · exact h.modReq fun _ => rfl

theorem Block.Ok.modSlot {s : Nat} {g : Slot → Slot} (h : b.Ok) : (b.modSlot s g).Ok := h

theorem Block.Ok.modPond {p : Nat} {g : PondRt → PondRt} (h : b.Ok) : (b.modPond p g).Ok := h

theorem Block.Ok.setF {id inst bit v : Nat} (h : b.Ok) : (b.setF id inst bit v).Ok := h.setCfg (cfgSet_rising h.cfg)

theorem Block.Ok.fresh (h : b.Ok) : b.fresh.2.Ok := h.setReqs (h.reqs.mono (Nat.le_succ _))

/-- Soundness does not read what events and counts change. -/
theorem Block.Ok.of_sansLog {b' : Block} (h : b.Ok) (e : b'.sansLog = b.sansLog) : b'.Ok := by
  have hi : b'.inlets.map Inlet.sansDropped = b.inlets.map Inlet.sansDropped := congrArg Block.inlets e
  have hn : ∀ l : List Inlet, (∀ n ∈ l, n.Ok) ↔ ∀ n ∈ l.map Inlet.sansDropped, n.Ok := fun l =>
    (List.forall_mem_map (f := Inlet.sansDropped) (P := Inlet.Ok)).symm
  exact
    { fourInlets := by simpa [h.fourInlets] using congrArg List.length hi
      inlets := (hn _).2 (hi ▸ (hn _).1 h.inlets)
      eightChans := (congrArg Block.chans e :) ▸ h.eightChans, chans := (congrArg Block.chans e :) ▸ h.chans
      keys := (congrArg Block.keys e :) ▸ h.keys, scratch := (congrArg Block.cache e :) ▸ h.scratch
      lines := (congrArg Block.cache e :) ▸ h.lines
      reqs := (congrArg Block.reqs e :) ▸ (congrArg Block.nextId e :) ▸ h.reqs, cfg := (congrArg Block.cfg e :) ▸ h.cfg
      ret := (congrArg Block.ret e :) ▸ h.ret, tx := (congrArg (fun x : Block => x.mgmt.tx) e :) ▸ h.tx
      queue := (congrArg (fun x : Block => x.pkts.queue) e :) ▸ h.queue }

theorem Block.Ok.count {ev : Nat} {cls rq : Option Nat} {n : Nat} (h : b.Ok) : (b.count ev cls rq n).Ok := h.of_sansLog (count_sansLog ..)

theorem Block.Ok.countC {c ev : Nat} {cls rq sc : Option Nat} {n : Nat} (h : b.Ok) : (b.countC c ev cls rq sc n).Ok :=
  h.of_sansLog (countC_sansLog ..)

theorem Block.Ok.emitPond {code : Nat} {pl : List Byte} {p : Option Nat} (h : b.Ok) : (b.emitPond code pl p).Ok :=
  h.of_sansLog (emitPond_sansLog ..)

theorem Block.Ok.event {code : Nat} {l : List (Nat × Nat)} (h : b.Ok) : (b.event code l).Ok := h.of_sansLog (event_sansLog ..)

theorem Block.Ok.advance {dt : Nat} (h : b.Ok) : (b.advance dt).Ok := by
  obtain ⟨c, hc⟩ := advance_only b dt
  rw [hc]
  exact h

theorem Block.Ok.closeWindow (h : b.Ok) : b.closeWindow.Ok := by
  unfold Block.closeWindow
  extract_lets b'
  have hb : b'.Ok := foldl_holds h fun _ _ k => (Block.Ok.setLog k).count
  exact hb

theorem Block.Ok.parity {mem rq tag out : Nat} (h : b.Ok) : (b.parity mem rq tag out).Ok :=
  Block.Ok.event (b := { b with free := b.free + 1 }) h

theorem Block.Ok.eventsClear {who : Nat} (h : b.Ok) : (b.eventsClear who).1.Ok := Block.Ok.event (b := b.clearLog.1) h

theorem Block.Ok.beginTail (h : b.Ok) : b.beginTail.Ok := by
  unfold Block.beginTail
  split <;> exact h

theorem Block.Ok.visAdd {s k n : Nat} (h : b.Ok) : (b.visAdd s k n).Ok := ite_ok h h

theorem Block.Ok.arbAdd {c rq k n : Nat} (h : b.Ok) : (b.arbAdd c rq k n).Ok :=
  ite_ok (ite_ok h.setCtr.visAdd h) h

theorem Block.Ok.arbMax {c rq n : Nat} (h : b.Ok) : (b.arbMax c rq n).Ok := ite_ok h h

theorem Block.Ok.clearSet {set : Nat} (h : b.Ok) : (b.clearSet set).Ok :=
  ite_ok h (ite_ok (h.mapInlets fun _ k => k) (Block.Ok.setCtr (h.modChan fun _ k => k)))

theorem Block.Ok.sample {op : Op} {cls : Nat} {force : Bool} (h : b.Ok) : (b.sample op cls force).1.Ok := by
  unfold Block.sample
  split_ifs <;> exact h

theorem Block.Ok.holdSnd {r : Block512} (h : b.Ok) : (b.holdSnd r).Ok := ite_ok h h

theorem Block.Ok.drainHold (h : b.Ok) : b.drainHold.Ok := foldl_holds (P := Block.Ok) h fun _ _ k => k

theorem Block.Ok.countResponse {r : Req} {lat : Nat} (h : b.Ok) : (b.countResponse r lat).Ok := by
  unfold Block.countResponse
  extract_lets cls rq b1 b2 b3 b4 s b5 b6 b7 b8
  have h4 : b4.Ok := h.count.count.count.count
  have h5 : b5.Ok := ite_ok h4.visAdd h4
  have h6 : b6.Ok := ite_ok h5.visAdd h5
  have h7 : b7.Ok := ite_ok h6.visAdd h6
  have h8 : b8.Ok := ite_ok h7.visAdd h7
  exact ite_ok h8.visAdd h8

end
end Sys2Proof.Machine

/-! Policers, shapers, the sluice; completion and withdrawal of requests. -/

namespace Sys2Proof.Machine

theorem pump_ok {ch : Chan} {now : Nat} (h : ch.Ok) : (ch.pump now).Ok := h

theorem drop_ok {ch : Chan} {id now : Nat} (h : ch.Ok) : (ch.drop id now).Ok :=
  h.mapQueues rfl rfl fun _ k => k

theorem discard_ok {k : Cache} {lo hi : Nat} (h : k.Ok) : (k.discard lo hi).Ok := ⟨h.1, filter_rising h.2⟩

theorem copyList_rising {t : Tab Nat} (h : risingKeys t = true) : risingKeys (copyList t) = true := by
  have hf := foldl_holds (P := fun t : Tab Nat => risingKeys t = true) (l := t.filter (fun e => e.1 / 2 ^ 16 == 0x0700 * 2 ^ 12))
    (g := fun t e => cfgSet t 0x0701 0 (e.1 % 2 ^ 16) e.2) (cfgReset_rising (id := 0x0701) (inst := 0) h)
    fun _ _ k => cfgSet_rising k
  exact cfgSet_rising (cfgSet_rising hf)

section
variable {b : Block}

/-! ### Policers and shapers -/

theorem Block.Ok.redEvent {slot inlet cls cost : Nat} (h : b.Ok) : (b.redEvent slot inlet cls cost).Ok := h.event.modSlot

theorem Block.Ok.police {slot inlet cls base : Nat} (h : b.Ok) : (b.police slot inlet cls base).1.Ok := by
  unfold Block.police
  extract_lets p r b1 ev b2
  have h2 : b2.Ok := h.modSlot.count
  split
  · exact h2.redEvent
  · exact h2

theorem Block.Ok.shCharge {c k base : Nat} (h : b.Ok) : (b.shCharge c k base).1.Ok := by
  unfold Block.shCharge
  split
  · exact h.modChan fun _ k => k
  · exact h

theorem Block.Ok.shRefund {c k cost : Nat} (h : b.Ok) : (b.shRefund c k cost).Ok := ite_ok (h.modChan fun _ k => k) h

theorem Block.Ok.tellFrozen {c k : Nat} (h : b.Ok) : (b.tellFrozen c k).Ok := ite_ok (h.event.modChan fun _ k => k) h

/-! ### The sluice engine -/

theorem Block.Ok.realignChans {mask : Nat} (h : b.Ok) : (b.realignChans mask).Ok := by
  unfold Block.realignChans
  extract_lets cs lost won b1 bits b2
  have h1 : b1.Ok := foldl_holds h fun _ _ k => Block.Ok.modChan k fun _ k => k
  have h2 : b2.Ok := ite_ok h1 h1.event
  exact ite_ok h2 h2.event

theorem Block.Ok.lateCause {n : Nat} (h : b.Ok) : (b.lateCause n).Ok := h.mapChans fun _ k => k

theorem Block.Ok.armList {now : Int} {force : Bool} (h : b.Ok) : (b.armList now force).Ok := ite_ok h.setF.event h.setF

theorem Block.Ok.rearm {now : Int} {strict : Bool} (h : b.Ok) : (b.rearm now strict).Ok := ite_ok h.armList h

theorem Block.Ok.activate (h : b.Ok) : b.activate.Ok := by
  unfold Block.activate
  split
  · extract_lets applied _ b1
    have h1 : b1.Ok := h.setCfg (copyList_rising h.cfg)
    exact h1.lateCause.event.realignChans
  · exact h

theorem Block.Ok.endLeadIn (h : b.Ok) : b.endLeadIn.Ok := by
  have hs : ({ b with sluice := { b.sluice with leadIn := false } } : Block).Ok := h
  exact ite_ok hs.lateCause.realignChans h

theorem Block.Ok.loseTime (h : b.Ok) : b.loseTime.Ok := by
  unfold Block.loseTime
  split
  · exact h
  · extract_lets last _ b1
    have h1 : b1.Ok := h
    exact ite_ok h1.event h1

theorem Block.Ok.planRealign (h : b.Ok) : b.planRealign.Ok := ite_ok h h

theorem Block.Ok.timeReturns {nt : Nat} (h : b.Ok) : (b.timeReturns nt).Ok := by
  unfold Block.timeReturns
  split
  · exact h
  · exact Block.Ok.planRealign (b := { b with net := _ }) h

theorem Block.Ok.timeStep {k nt : Nat} (h : b.Ok) : (b.timeStep k nt).Ok := by
  unfold Block.timeStep
  split
  · exact h
  · extract_lets step _ b1
    have h1 : b1.Ok := h
    exact h1.planRealign.event

theorem Block.Ok.realigned (h : b.Ok) : b.realigned.Ok := by
  unfold Block.realigned
  split
  · exact h
  · extract_lets diff _ _ b1
    have h1 : b1.Ok := h
    exact h1.lateCause.rearm.event.realignChans

theorem Block.Ok.startSluice (h : b.Ok) : b.startSluice.Ok := h

theorem Block.Ok.sluiceStarted (h : b.Ok) : b.sluiceStarted.Ok := h.rearm.realignChans

theorem Block.Ok.stopSluice (h : b.Ok) : b.stopSluice.Ok := by
  unfold Block.stopSluice
  exact Block.Ok.realignChans h.parts

/-! ### Requests -/

theorem Block.Ok.finish {id st : Nat} {data : Option Block512} (h : b.Ok) : (b.finish id st data).Ok := by
  unfold Block.finish
  split
  · exact h
  · split
    · exact h
    · extract_lets d
      split
      · exact h.modReq fun _ => rfl
      · exact h.setReqs h.reqs.filter

theorem Block.Ok.stageTo {id : Nat} {s : Stage} (h : b.Ok) : (b.stageTo id s).Ok := h.modReq fun _ => rfl

theorem Block.Ok.issue {d : DReq} (h : b.Ok) : (b.issue d).Ok := by
  unfold Block.issue
  exact Block.Ok.tellFrozen (h.fresh.modChan fun _ k => k)

theorem Block.Ok.withdraw {id : Nat} (h : b.Ok) : (b.withdraw id).1.Ok := by
  unfold Block.withdraw
  split
  · exact h
  · extract_lets gone b1 b2 b3
    have hg : ∀ x : Block, x.Ok → (gone x).Ok := fun x k => k.modChan fun _ => drop_ok
    have h1 : b1.Ok := ite_ok h.shRefund h
    split
    · exact hg b h
    · exact hg b h
    · exact (hg _ h1.arbAdd.countC).modChan fun _ k => k
    · split
      · exact h
      · exact hg b h

theorem Block.Ok.poisonWrite {p blk cls : Nat} {d : Block512} {st : Bool} (h : b.Ok) : (b.poisonWrite p blk cls d st).1.Ok := by
  unfold Block.poisonWrite
  split
  · exact h
  · exact Block.Ok.issue h.parts

/-! ### Lost ponds and draining -/

theorem Block.Ok.dropWbs {lo hi : Nat} (h : b.Ok) : (b.dropWbs lo hi).Ok := h.mapChans fun _ k => pump_ok k

theorem Block.Ok.discardPond {p : Nat} (h : b.Ok) : (b.discardPond p).Ok := (h.setCache (discard_ok h.cacheOk)).dropWbs

theorem Block.Ok.recountJobs (h : b.Ok) : b.recountJobs.Ok := h

theorem Block.Ok.failPond {p st : Nat} (h : b.Ok) : (b.failPond p st).Ok := by
  unfold Block.failPond
  extract_lets ids b1 keep b2
  have h1 : b1.Ok := foldl_holds h fun _ _ k => Block.Ok.finish k
  have hm := h1.mapChans (g := fun ch => Chan.pump { ch with
    outside := ch.outside.filter keep, wait := ch.wait.filter keep, granted := ch.granted.filter keep } b1.clk.cclk) fun _ k => k
  exact Block.Ok.recountJobs (h1.discardPond.setChans hm.eightChans hm.chans).parts

theorem Block.Ok.losePond {p cause mask : Nat} (h : b.Ok) : (b.losePond p cause mask).Ok := ite_ok h h.modPond.failPond.emitPond

theorem Block.Ok.losePonds {c cause : Nat} (h : b.Ok) : (b.losePonds c cause).Ok :=
  foldl_holds h fun _ _ k => ite_ok (Block.Ok.losePond k) k

theorem Block.Ok.endDrains (h : b.Ok) : b.endDrains.Ok :=
  foldl_holds h fun _ _ k => foldl_holds k fun _ _ k => (Block.Ok.modPond k).emitPond

end
end Sys2Proof.Machine

/-! The cache, the fill engine and the queues. -/

namespace Sys2Proof.Machine

/-! ### Cache operations -/

theorem putLine_ok {k : Cache} {a : Loc} {l : Line} (h : k.Ok) : (k.putLine a l).Ok := by
  cases a
  · exact ⟨h.1, aput_rising h.2⟩
  · exact h

theorem dropLine_ok {k : Cache} {a : Loc} (h : k.Ok) : (k.dropLine a).Ok := by
  cases a
  · exact ⟨h.1, adel_rising h.2⟩
  · exact h

theorem writeScratch_ok {k : Cache} {n : Nat} {d : Block512} {mask : BitVec 64} {p : Bool} (h : k.Ok) :
    (k.writeScratch n d mask p).Ok := ⟨Memory.writeBlock_wf h.1, h.2⟩

section
variable {b : Block}

theorem Block.Ok.touch {key : Nat} (h : b.Ok) : (b.touch key).Ok := ite_ok (h.onCache fun _ k => k) h

theorem Block.Ok.wbReq {blk : Nat} {d : Block512} {p : Bool} (h : b.Ok) : (b.wbReq blk d p).Ok := h.issue

theorem Block.Ok.issueWb {a : Loc} {l : Line} (h : b.Ok) : (b.issueWb a l).Ok :=
  ite_ok h (Block.Ok.wbReq (h.onCache fun _ => putLine_ok))

theorem Block.Ok.update {a : Loc} {l : Line} (h : b.Ok) : (b.update a l).Ok := by
  have h1 := h.onCache (g := fun k => k.putLine a l) fun _ => putLine_ok
  exact ite_ok h1.issueWb h1

theorem Block.Ok.setOps {l : List LongOp} (h : b.Ok) : ({ b with pkts := { b.pkts with ops := l } } : Block).Ok := h

theorem Block.Ok.wbOrdered {id cls : Nat} (h : b.Ok) : (b.wbOrdered id cls).Ok := by
  unfold Block.wbOrdered
  extract_lets b1 loc
  have h1 : b1.Ok := h.count
  clear_value loc
  split
  · exact h1
  · exact Block.Ok.update (Block.Ok.setOps (h1.onCache fun _ k => k))

theorem Block.Ok.pushShallows {l : Line} (h : b.Ok) : (b.pushShallows l).Ok :=
  Block.Ok.update (h.onCache fun _ k => k)

theorem Block.Ok.allocate {set : Nat} {x : Block × Option Nat} (h : b.Ok) (hx : b.allocate set = some x) : x.1.Ok := by
  unfold Block.allocate at hx
  split at hx
  · cases hx; exact h
  · cases hx; exact h.touch
  · split at hx
    · cases hx
      exact Block.Ok.touch (Block.Ok.pushShallows (h.onCache fun _ => dropLine_ok))
    · cases hx

theorem Block.Ok.allocate_getD {set : Nat} (h : b.Ok) : ((b.allocate set).getD (b, none)).1.Ok := by
  cases hx : b.allocate set with
  | none => exact h
  | some x => exact h.allocate hx

theorem Block.Ok.recall {n : Nat} {l : Line} (h : b.Ok) : (b.recall n l).1.Ok := by
  unfold Block.recall
  extract_lets back r
  have hr : r.1.Ok := by
    show (back b l).1.Ok
    unfold back
    split
    · exact h
    · exact h.withdraw
  split
  · exact h
  · exact Block.Ok.touch (Block.Ok.count (hr.onCache fun _ k => putLine_ok (dropLine_ok k)))
  · exact Block.Ok.touch (Block.Ok.update (Block.Ok.count (hr.onCache fun _ => putLine_ok)))

/-! ### Parity, hits and scratch ways -/

theorem Block.Ok.poisonLine {a : Loc} {l : Line} {rq : Nat} (h : b.Ok) : (b.poisonLine a l rq).Ok := by
  unfold Block.poisonLine
  extract_lets b1 l1 b2 b3 p
  have h2 : b2.Ok := Block.Ok.onCache h.parity fun _ => putLine_ok
  have h3 : b3.Ok := ite_ok h2.issueWb h2
  exact h3.emitPond

theorem Block.Ok.tagFault {set rq tag : Nat} {f : SramFault} (h : b.Ok) : (b.tagFault set rq tag f).Ok := by
  unfold Block.tagFault
  split
  · exact h.parity
  · exact Block.Ok.event (h.parity.onCache fun _ => dropLine_ok)
  · exact h

theorem Block.Ok.serveLine {r : Req} {a : Loc} {l : Line} (h : b.Ok) : (b.serveLine r a l).Ok := by
  unfold Block.serveLine
  extract_lets b1 b2 bad
  have h1 : b1.Ok := h.modReq fun _ => rfl
  have h2 : b2.Ok := by
    unfold b2
    split
    · exact h1.touch
    · exact h1
  exact ite_ok (ite_ok h2.finish h2.finish) (ite_ok h2.update.finish h2.update.finish)

theorem Block.Ok.serveScratch {r : Req} {f : SramFault} (h : b.Ok) : (b.serveScratch r f).Ok := by
  unfold Block.serveScratch
  extract_lets n b1 b2 fails b3 bad inner m poison
  have h2 : b2.Ok := Block.Ok.modReq h.count fun _ => rfl
  have h3 : b3.Ok := ite_ok (h2.parity.onCache fun _ => writeScratch_ok) h2
  exact ite_ok h.finish (ite_ok (ite_ok h3.finish h3.finish) (Block.Ok.finish (h3.onCache fun _ => writeScratch_ok)))

/-! ### Misses and line fills -/

theorem Block.Ok.toChannel {r : Req} (h : b.Ok) : (b.toChannel r).Ok := Block.Ok.issue h.stageTo

theorem Block.Ok.issueFill {blk pond rq tag cls : Nat} {slot : Option Nat} {ws : List Nat} {o p : Option Nat} {pf : Bool}
    (h : b.Ok) : (b.issueFill blk pond rq tag cls slot ws o p pf).Ok := Block.Ok.issue (h.onCache fun _ k => k)

theorem Block.Ok.prefetch {r : Req} (h : b.Ok) : (b.prefetch r).Ok := by
  unfold Block.prefetch
  extract_lets p n cls pl c a
  have ha : a.1.Ok := by
    unfold a
    split
    · exact h
    · exact h.allocate_getD
  exact ite_ok h (ite_ok h.count ha.issueFill)

theorem Block.Ok.dropPrefetches {c : Nat} (h : b.Ok) : (b.dropPrefetches c).Ok :=
  foldl_holds h fun _ _ k => Block.Ok.count (Block.Ok.withdraw (Block.Ok.onCache k fun _ k => k))

theorem Block.Ok.join {r : Req} {f : LineFill} (h : b.Ok) : (b.join r f).Ok := by
  unfold Block.join
  extract_lets slotted key l b1 waits b2 b3 b4
  have h1 : b1.Ok := h.onCache fun _ k => k
  have h2 : b2.Ok := h.modReq fun _ => rfl
  have h4 : b4.Ok := h2.withdraw.onCache fun _ k => k
  exact ite_ok h1.update.finish (ite_ok h4.issueFill (h2.onCache fun _ k => k))

theorem Block.Ok.miss {r : Req} (h : b.Ok) : (b.miss r).Ok := by
  unfold Block.miss
  extract_lets set out unq first stall b1
  have ho : ∀ (x : Block) n, x.Ok → (out x n).Ok := fun x n k => k.modReq fun _ => rfl
  have hu : unq.Ok := h.onCache fun _ k => k
  refine ite_ok (ho b 5 h).toChannel (ite_ok (Block.Ok.onCache h.stageTo fun _ k => k) (ite_ok ?_ ?_))
  · exact Block.Ok.stageTo (h.onCache fun _ k => k)
  · split
    · exact h
    · rename_i hx
      exact (ho _ 5 (hu.allocate hx)).toChannel
    · rename_i hx
      extract_lets b2 l b3
      have h2 : b2.Ok := ho _ 3 (hu.allocate hx)
      have h3 : b3.Ok := h2.stageTo.issueFill
      exact ite_ok h2.update.finish (ite_ok h3.prefetch h3)

theorem Block.Ok.lookup {r : Req} {f : SramFault} {again : Bool} (h : b.Ok) : (b.lookup r f again).Ok := by
  unfold Block.lookup
  extract_lets b1 hit misses
  have h1 : b1.Ok := h.tagFault
  have hh : ∀ n, (hit b1 n).Ok := fun n => Block.Ok.modReq (ite_ok h1 h1.count) fun _ => rfl
  have hm : (misses b1).Ok := ite_ok h1 h1.count
  split
  · extract_lets x b2
    have hx : x.1.Ok := by
      unfold x
      split
      · exact hh 1
      · exact (hh 2).recall
    have h2 : b2.Ok := hx.parity.onCache fun _ => dropLine_ok
    split
    · split
      · exact hx.poisonLine.finish
      · split
        · exact h2.stageTo.issueFill
        · exact h2.toChannel
    · exact hx.serveLine
  · split
    · exact Block.Ok.join (hm.onCache fun _ k => k)
    · exact hm.miss

/-! ### The return of a fill -/

theorem serveWaiter_ok {a : Block × Serving} {id : Nat} (h : a.1.Ok) : (Block.serveWaiter a id).1.Ok := by
  unfold Block.serveWaiter
  split
  · exact h
  · extract_lets b s s'
    have hb : b.Ok := h.modSnd
    split_ifs <;> exact hb.finish

theorem Block.Ok.landed {p : Option Nat} (h : b.Ok) : (b.landed p).Ok := by
  unfold Block.landed
  split
  · exact h
  · exact ite_ok (h.onCache fun _ k => k) h

theorem Block.Ok.slotFor {f : LineFill} (h : b.Ok) : (b.slotFor f).1.Ok := by
  unfold Block.slotFor
  split
  · exact h
  · split
    · split <;> exact h
    · split
      · exact h.allocate_getD
      · exact h

theorem Block.Ok.fillReturn {f : LineFill} {st : Nat} {m u : Bool} {d : Block512} {cls : Nat} {stale : Bool} (h : b.Ok) :
    (b.fillReturn f st m u d cls stale).1.Ok := by
  unfold Block.fillReturn
  extract_lets b1 r b2 s keep a l
  have h1 : b1.Ok := h.onCache fun _ k => k
  have h2 : b2.Ok := foldl_holds (P := fun x : Block × Serving => x.1.Ok) h1 fun _ _ => serveWaiter_ok
  have ha : a.1.Ok := by
    unfold a
    split
    · exact h2.slotFor
    · exact h2
  split
  · extract_lets b3 b4
    have h3 : b3.Ok := ha.update
    have h4 : b4.Ok := ite_ok h3.issueWb h3
    exact h4.landed
  · split
    · exact ha.wbReq
    · split
      · exact ha.poisonWrite
      · exact ha

/-! ### Tiles and the fill engine -/

theorem Block.Ok.clearTiles {p : Nat} (h : b.Ok) : (b.clearTiles p).Ok := ite_ok h h

theorem Block.Ok.wantTile {p t cls : Nat} {pat : Option (BitVec 64)} (h : b.Ok) : (b.wantTile p t cls pat).Ok :=
  ite_ok h (ite_ok h h)

theorem Block.Ok.freeTile {t : Nat} (h : b.Ok) : (b.freeTile t).Ok := h

theorem Block.Ok.modJob {key : Nat} {g : FillJob → FillJob} (h : b.Ok) : (b.modJob key g).Ok := h

theorem Block.Ok.tileOrdered {t : Nat} (h : b.Ok) : (b.tileOrdered t).Ok := by
  unfold Block.tileOrdered
  split
  · exact h
  · split
    · exact h
    · extract_lets b1
      have h1 : b1.Ok := h.freeTile.count
      exact h1.parts

theorem Block.Ok.fillOrdered {ref : Nat} (h : b.Ok) : (b.fillOrdered ref).Ok := ite_ok h.tileOrdered h.modJob

theorem Block.Ok.fillWrite {p blk cls ref : Nat} {d : Block512} {po : Bool} (h : b.Ok) : (b.fillWrite p blk cls ref d po).Ok :=
  h.issue

theorem Block.Ok.tileStep {b' : Block} (h : b.Ok) (hs : b.tileStep = some b') : b'.Ok := by
  unfold Block.tileStep at hs
  obtain ⟨f, -, rfl⟩ := Option.map_eq_some_iff.1 hs
  exact Block.Ok.fillWrite h.parts

theorem Block.Ok.jobBlock {b' : Block} {j : FillJob} (h : b.Ok) (hs : b.jobBlock j = some b') : b'.Ok := by
  unfold Block.jobBlock at hs
  extract_lets d done n b1 at hs
  have hd : ∀ x, x.Ok → (done x).Ok := fun _ k => k.modJob
  split at hs
  · split at hs <;> cases hs
    · exact hd _ (h.onCache fun _ => writeScratch_ok)
    · exact h.modJob
  · split at hs
    · cases hs
    · split at hs
      · cases hs
        exact hd _ h.update
      · split at hs <;> cases hs
        exact h.modJob.fillWrite

theorem Block.Ok.jobStep {b' : Block} {j : FillJob} (h : b.Ok) (hs : b.jobStep j = some b') : b'.Ok := by
  unfold Block.jobStep at hs
  split at hs
  · cases hs
  · extract_lets pl t lo wholly busy b1 stop at hs
    split at hs
    · exact h.jobBlock hs
    · split at hs
      · cases hs
      · split at hs
        · split at hs
          · cases hs
          · cases hs
            have h1 : b1.Ok := Block.Ok.setCache (b := { b with tiles := tput false b.tiles t false }) h.parts
              (discard_ok h.cacheOk)
            exact h1.dropWbs.modJob
        · split at hs
          · exact h.jobBlock hs
          · split at hs
            · cases hs
              exact h.modJob
            · split at hs <;> cases hs
              · exact h.wantTile.modJob
              · exact h.wantTile

theorem Block.Ok.pumpFill {n : Nat} (h : b.Ok) : (b.pumpFill n).Ok := by
  induction n generalizing b with
  | zero => exact h
  | succ n ih =>
    unfold Block.pumpFill
    split
    · rename_i hs
      split at hs
      · exact ih (h.tileStep hs)
      · cases hs
    · split
      · rename_i hs
        obtain ⟨j, -, hj⟩ := List.exists_of_findSome?_eq_some hs
        exact ih (h.jobStep hj)
      · exact h

theorem Block.Ok.stopTiles {p st : Nat} (h : b.Ok) : (b.stopTiles p st).Ok := by
  unfold Block.stopTiles
  extract_lets ids b1
  have h1 : b1.Ok := foldl_holds h fun _ _ k => Block.Ok.finish k
  exact h1.parts

theorem Block.Ok.drainTiles (h : b.Ok) : b.drainTiles.Ok := by
  unfold Block.drainTiles
  refine foldl_holds h fun a f k => ?_
  extract_lets ws raise b1
  have h1 : b1.Ok := foldl_holds k fun _ _ k => Block.Ok.finish k
  exact ite_ok k.parts (Block.Ok.freeTile h1.parts)

/-! ### The queues -/

theorem markStale_ok {ch : Chan} {blk : Nat} (h : ch.Ok) : (ch.markStale blk).Ok := h.mapQueues rfl rfl fun _ k => k

theorem Block.Ok.ordered {d : DReq} (h : b.Ok) : (b.ordered d).Ok := by
  unfold Block.ordered
  extract_lets c b1
  have h1 : b1.Ok := h.modChan fun _ => markStale_ok
  split
  · exact h1.wbOrdered
  · exact h1.fillOrdered
  · exact h1.parts
  · exact Block.Ok.modChan (h1.modQueue fun _ k => k) fun _ k => k
  · exact h1

theorem Block.Ok.buffer {d : DReq} (h : b.Ok) : (b.buffer d).Ok := by
  unfold Block.buffer
  extract_lets c q
  split
  · exact ite_ok (Block.Ok.modSnd (Block.Ok.countC (h.modQueue fun _ k => k))) (h.modQueue fun _ k => k)
  · exact h.modQueue fun _ k => k

theorem Block.Ok.finishOwner {o : Option Nat} {st : Nat} {d : Option Block512} (h : b.Ok) : (b.finishOwner o st d).Ok := by
  unfold Block.finishOwner
  split
  · exact h
  · exact h.finish

theorem Block.Ok.mergeWrite {d : DReq} {old : Block512} {m : Bool} {st : Nat} (h : b.Ok) : (b.mergeWrite d old m st).Ok :=
  Block.Ok.finishOwner (Block.Ok.ordered (Block.Ok.buffer (h.modQueue fun _ k => k)))

theorem Block.Ok.forward {d : DReq} {data : Block512} {m : Bool} (h : b.Ok) : (b.forward d data m).Ok := by
  unfold Block.forward
  extract_lets c q b1 b2 b3 id b4
  have h1 : b1.Ok := h.modQueue fun _ k => k
  have h3 : b3.Ok := h1.countC.modSnd
  split
  · exact ite_ok h3.finishOwner h3.finishOwner
  · exact ite_ok h3.finishOwner h3.finishOwner
  · split
    · exact h3
    · exact h3.fillReturn
  · split
    · exact h3
    · exact h3.fillReturn
  · exact h3.parts
  · exact Block.Ok.issue (h3.modQueue fun _ k => k)
  · exact h3

theorem Block.Ok.enter {d : DReq} (h : b.Ok) : (b.enter d).Ok := by
  unfold Block.enter
  extract_lets c q k b1 b2 b3 b4 b5 b6
  have h1 : b1.Ok := h.modSnd
  have h2 : b2.Ok := h1.modQueue fun _ k => k
  have h3 : b3.Ok := h2.modQueue fun _ k => k
  have h5 : b5.Ok := h3.countC.modSnd
  refine ite_ok (h1.modQueue fun _ k => k) (ite_ok ?_ (ite_ok ?_ (ite_ok ?_ (ite_ok ?_ h2.buffer.ordered.finishOwner))))
  · split
    · exact h3.forward
    · exact h3
  · split
    · exact h2.forward
    · exact h2
  · split
    · exact h5.mergeWrite
    · exact h5
  · have h6 : b6.Ok := h2.modQueue fun _ k => k
    exact h6.parts

theorem Block.Ok.releaseOne {b' : Block} (h : b.Ok) (hs : b.releaseOne = some b') : b'.Ok := by
  unfold Block.releaseOne at hs
  obtain ⟨c, -, hs⟩ := List.exists_of_findSome?_eq_some hs
  obtain ⟨q, -, hs⟩ := List.exists_of_findSome?_eq_some hs
  obtain ⟨e, -, rfl⟩ := Option.map_eq_some_iff.1 hs
  exact h.enter

theorem Block.Ok.enqueue {c : Nat} {d : DReq} (h : b.Ok) : (b.enqueue c d).Ok :=
  Block.Ok.enter (Block.Ok.modQueue (h.modChan fun _ k => k) fun _ k => k)

end
end Sys2Proof.Machine

/-! The clamp checker keeps a table. -/

namespace Sys2Proof.Machine

/-- The candidate table of a check is a table. -/
def Chk.Ok (c : Chk) : Prop := risingKeys c.new = true

theorem chkIte_ok {p : Prop} [Decidable p] {x y : Chk} (hx : x.Ok) (hy : y.Ok) : (if p then x else y).Ok := by
  split
  · exact hx
  · exact hy

section
variable {c : Chk}

theorem Chk.Ok.note {id inst bit reason req app : Nat} (h : c.Ok) : (c.note id inst bit reason req app).Ok := h

theorem Chk.Ok.warn {id inst bit : Nat} (h : c.Ok) : (c.warn id inst bit).Ok := h

theorem Chk.Ok.put {id inst bit x reason : Nat} (h : c.Ok) : (c.put id inst bit x reason).Ok := chkIte_ok h (cfgSet_rising h)

theorem Chk.Ok.back {id inst bit : Nat} (h : c.Ok) : (c.back id inst bit).Ok := h.put

theorem Chk.Ok.backRec {id inst : Nat} (h : c.Ok) : (c.backRec id inst).Ok := foldl_holds h fun _ _ k => Chk.Ok.back k

theorem Chk.Ok.backReal {id inst : Nat} {skip : List Nat} (h : c.Ok) : (c.backReal id inst skip).Ok :=
  foldl_holds h fun _ _ k => chkIte_ok k (Chk.Ok.put k)

/-! ### The field step and checks 1 and 2 -/

theorem Chk.Ok.fieldOne {b : Block} {id inst bit : Nat} (h : c.Ok) : (fieldOne b c id inst bit).Ok := by
  unfold Machine.fieldOne
  extract_lets x
  refine chkIte_ok h (chkIte_ok h ?_)
  split
  · exact h
  · extract_lets c1
    have h1 : c1.Ok := by
      unfold c1
      split
      · exact h
      · exact h.put
    exact chkIte_ok h1.warn h1

theorem Chk.Ok.fieldStep {b : Block} (h : c.Ok) : (fieldStep b c).Ok :=
  foldl_holds h fun _ _ k => chkIte_ok (Chk.Ok.fieldOne k) k

theorem Chk.Ok.check1One {b : Block} {i : Nat} (h : c.Ok) : (check1One b c i).Ok := by
  unfold Machine.check1One
  extract_lets c1 gen c2 c3 c4 ds n c5 ph
  have h1 : c1.Ok := chkIte_ok h.backReal h
  have h2 : c2.Ok := chkIte_ok h1.put h1
  have h3 : c3.Ok := chkIte_ok h2.put h2
  have h4 : c4.Ok := chkIte_ok h3.put h3
  have h5 : c5.Ok := chkIte_ok h4.put (chkIte_ok h4 h4.put)
  clear_value c5
  split
  · exact h5.warn
  · exact h5

theorem Chk.Ok.check1 {b : Block} (h : c.Ok) : (check1 b c).Ok := foldl_holds h fun _ _ k => Chk.Ok.check1One k

theorem timingRaise_ok {i : Nat} {a : Chk × Bool} {r : Nat × ((Nat → Nat) → Nat)} (h : a.1.Ok) : (timingRaise i a r).1.Ok := by
  unfold timingRaise
  extract_lets bound
  split_ifs
  · exact h
  · dsimp only
    exact h.backRec
  · exact h.put

theorem Chk.Ok.timingRelations {i : Nat} (h : c.Ok) : (timingRelations c i).Ok := by
  unfold Machine.timingRelations
  extract_lets c1 a
  have h1 : c1.Ok := chkIte_ok h.put h
  have ha : a.1.Ok := foldl_holds (P := fun a : Chk × Bool => a.1.Ok) h1 fun _ _ => timingRaise_ok
  exact chkIte_ok ha.back.back ha

theorem Chk.Ok.check2 {b : Block} (h : c.Ok) : (check2 b c).Ok :=
  foldl_holds h fun _ _ k => chkIte_ok (Chk.Ok.backReal k) (Chk.Ok.timingRelations k)

/-! ### Checks 3 and 4 -/

theorem Chk.Ok.backGeo {i : Nat} (h : c.Ok) : (backGeo c i).Ok := foldl_holds h fun _ _ k => Chk.Ok.back k

theorem Chk.Ok.heldChannel {mask i : Nat} (h : c.Ok) : (heldChannel mask c i).Ok := by
  unfold Machine.heldChannel
  extract_lets newly c1 c2
  have h1 : c1.Ok := chkIte_ok h.backGeo (foldl_holds h fun _ _ k => Chk.Ok.back k)
  have h2 : c2.Ok := chkIte_ok h1.back h1
  exact h2.back

theorem Chk.Ok.backClaims {b : Block} {s : Nat} (h : c.Ok) : (backClaims b c s).Ok :=
  foldl_holds h fun _ _ k => chkIte_ok (Chk.Ok.back k) k

theorem Chk.Ok.check3One {b : Block} {s : Nat} (h : c.Ok) : (check3One b c s).1.Ok := by
  unfold Machine.check3One
  extract_lets claims undo c1 c2 mask c3
  have hu : ∀ x : Chk, x.Ok → (undo x).1.Ok := fun x k => k.backClaims
  have h2 : c2.Ok := foldl_holds h.backRec fun _ _ k => Chk.Ok.heldChannel k
  have h3 : c3.Ok := foldl_holds h fun _ _ k => Chk.Ok.put k
  split_ifs
  · exact hu _ h2
  · exact h2
  · exact h
  · exact foldl_holds h3 fun _ _ k => Chk.Ok.put k
  · exact hu _ h
  · exact h
  · exact foldl_holds h fun _ _ k => Chk.Ok.backGeo k

theorem Chk.Ok.check3From {b : Block} {l : List Nat} (h : c.Ok) : (check3From b l c).1.Ok := by
  induction l generalizing c with
  | nil => exact h
  | cons s t ih =>
    unfold Machine.check3From
    extract_lets r
    have hr : r.1.Ok := h.check3One
    split
    · exact hr
    · exact ih hr

theorem Chk.Ok.check3Passes {b : Block} {n : Nat} (h : c.Ok) : (check3Passes b n c).Ok := by
  induction n generalizing c with
  | zero => exact h
  | succ n ih =>
    unfold Machine.check3Passes
    extract_lets r
    have hr : r.1.Ok := h.check3From
    exact chkIte_ok (ih hr) hr

theorem Chk.Ok.check3 {b : Block} (h : c.Ok) : (check3 b c).Ok := h.check3Passes

theorem Chk.Ok.check4Set {s : Nat} (h : c.Ok) : (check4Set c s).Ok := by
  unfold Machine.check4Set
  extract_lets mask g c1 c2 js sel
  have h1 : c1.Ok := chkIte_ok h.put h
  have h2 : c2.Ok := foldl_holds h1 fun _ _ k => Chk.Ok.put k
  exact chkIte_ok h2 (foldl_holds h2 fun _ _ k => Chk.Ok.put k)

theorem Chk.Ok.check4 (h : c.Ok) : (check4 c).Ok :=
  foldl_holds h fun _ _ k => chkIte_ok k (chkIte_ok (Chk.Ok.check4Set k) (chkIte_ok k (foldl_holds k fun _ _ k => Chk.Ok.backGeo k)))

/-! ### Check 5 -/

theorem Chk.Ok.pondStep1 {p : Nat} (h : c.Ok) : (pondStep1 c p).Ok := by
  unfold Machine.pondStep1
  extract_lets diff cached c1 c2
  have h1 : c1.Ok := foldl_holds h fun _ _ k => Chk.Ok.back k
  have h2 : c2.Ok := chkIte_ok h1.back h1
  exact chkIte_ok h (chkIte_ok (foldl_holds h2 fun _ _ k => Chk.Ok.back k) h)

theorem Chk.Ok.pondStep2 {p : Nat} (h : c.Ok) : (pondStep2 c p).Ok := chkIte_ok h h.put

theorem Chk.Ok.pondStep3 {p : Nat} (h : c.Ok) : (pondStep3 c p).Ok := chkIte_ok h.put h

theorem Chk.Ok.pondStep4 {p : Nat} (h : c.Ok) : (pondStep4 c p).Ok := chkIte_ok h.put h

theorem Chk.Ok.reduceNew {ps : List Nat} {iv : Chk → Nat → Nat × Nat} {fixed : List (Nat × Nat)} {cap : Nat}
    {size : Nat → Nat → Nat} (h : c.Ok) : (reduceNew c ps iv fixed cap size).Ok := by
  unfold Machine.reduceNew
  extract_lets shrink c1 left
  have hs : ∀ (x : Chk) p len, x.Ok → (shrink x p len).Ok := fun x p len k => chkIte_ok k.put k
  have h1 : c1.Ok := foldl_holds h fun _ _ k => hs _ _ _ k
  exact foldl_holds h1 fun _ _ k => hs _ _ _ k

theorem Chk.Ok.pondStep5 {b : Block} {s : Nat} (h : c.Ok) : (pondStep5 b c s).Ok := chkIte_ok h h.reduceNew

theorem Chk.Ok.pondStep6 {b : Block} (h : c.Ok) : (pondStep6 b c).Ok := chkIte_ok h h.reduceNew

theorem Chk.Ok.check5 {b : Block} (h : c.Ok) : (check5 b c).Ok := by
  unfold Machine.check5
  extract_lets ps c1 c2 c3 c4 c5
  have h1 : c1.Ok := foldl_holds h fun _ _ k => Chk.Ok.pondStep1 k
  have h2 : c2.Ok := foldl_holds h1 fun _ _ k => Chk.Ok.pondStep2 k
  have h3 : c3.Ok := foldl_holds h2 fun _ _ k => Chk.Ok.pondStep3 k
  have h4 : c4.Ok := chkIte_ok h3 h3
  have h5 : c5.Ok := foldl_holds h4 fun _ _ k => Chk.Ok.pondStep4 k
  exact chkIte_ok h (Chk.Ok.pondStep6 (foldl_holds h5 fun _ _ k => Chk.Ok.pondStep5 k))

/-! ### Checks 6 to 9 -/

theorem Chk.Ok.check6 {b : Block} {image : Bool} (h : c.Ok) : (check6 b c image).Ok :=
  chkIte_ok (foldl_holds h fun _ _ k => chkIte_ok (Chk.Ok.note k) k) h

theorem Chk.Ok.check7 {image : Bool} (h : c.Ok) : (check7 c image).Ok := by
  unfold Machine.check7
  extract_lets c1 c2
  have h1 : c1.Ok := chkIte_ok h.put h
  have h2 : c2.Ok := chkIte_ok h1.put h1
  refine foldl_holds h2 fun _ _ k => ?_
  split
  · exact k
  · exact k.warn

theorem Chk.Ok.check8 (h : c.Ok) : (check8 c).Ok := chkIte_ok h.put h

theorem Chk.Ok.lastPond {p : Nat} (h : c.Ok) : (lastPond c p).Ok := chkIte_ok (chkIte_ok h.put h) h

theorem Chk.Ok.lastScratch (h : c.Ok) : (lastScratch c).Ok := foldl_holds h fun _ _ k => chkIte_ok k (Chk.Ok.put k)

theorem Chk.Ok.lastList {id : Nat} (h : c.Ok) : (lastList c id).Ok := chkIte_ok h.warn h

theorem Chk.Ok.lastRetired {i : Nat} (h : c.Ok) : (lastRetired c i).Ok :=
  foldl_holds h fun _ _ k => chkIte_ok (Chk.Ok.put k) k

theorem Chk.Ok.check9 {b : Block} (h : c.Ok) : (check9 b c).Ok := by
  unfold Machine.check9
  extract_lets c1 c2 c3 c4 c5 c6 c7
  have h1 : c1.Ok := Chk.Ok.lastScratch (foldl_holds h fun _ _ k => Chk.Ok.lastPond k)
  have h2 : c2.Ok := foldl_holds h1 fun _ _ k => chkIte_ok (Chk.Ok.put k) k
  have h3 : c3.Ok := h2.lastList.lastList
  have h4 : c4.Ok := foldl_holds h3 fun _ _ k => chkIte_ok (Chk.Ok.put k) k
  have h5 : c5.Ok := foldl_holds h4 fun _ _ k => chkIte_ok (Chk.Ok.put k) k
  have h6 : c6.Ok := foldl_holds h5 fun _ _ k => Chk.Ok.lastRetired k
  have h7 : c7.Ok := foldl_holds h6 fun _ _ k => chkIte_ok (Chk.Ok.put k) k
  exact foldl_holds h7 fun _ _ k => chkIte_ok (Chk.Ok.backReal k) k

theorem Chk.Ok.runChecks {b : Block} {image : Bool} (h : c.Ok) : (runChecks b c image).Ok := by
  unfold Machine.runChecks
  extract_lets c1 c2 c3
  have h1 : c1.Ok := chkIte_ok h h.fieldStep
  have h2 : c2.Ok := h1.check1.check2
  have h3 : c3.Ok := Chk.Ok.check5 h2.check3.check4
  exact h3.check6.check7.check8.check9

end

/-! ### Candidate tables -/

theorem stageRecord_rising {image : Bool} {t : Tab Nat} {id inst x : Nat} (h : risingKeys t = true) :
    risingKeys (stageRecord image t id inst x) = true := by
  refine foldl_holds (P := fun t : Tab Nat => risingKeys t = true) h fun _ _ k => ?_
  split
  · exact k
  · exact cfgSet_rising k

theorem checkPacket_ok {b : Block} {recs : List (Nat × Nat × Nat)} (h : b.Ok) : (checkPacket b recs).Ok := by
  unfold checkPacket
  extract_lets new
  have hn : risingKeys new = true :=
    foldl_holds (P := fun t : Tab Nat => risingKeys t = true) h.cfg fun _ _ => stageRecord_rising
  exact Chk.Ok.runChecks hn

theorem checkImage_ok {b : Block} {t : Tab Nat} (h : risingKeys t = true) : (checkImage b t).Ok := Chk.Ok.runChecks h

theorem checkKept_ok {b : Block} (h : b.Ok) : (checkKept b).Ok := Chk.Ok.runChecks h.cfg

theorem rebuildCheck_ok {b : Block} {p : Nat} (h : b.Ok) : (b.rebuildCheck p).Ok := by
  unfold Block.rebuildCheck
  extract_lets set dead t1 t2
  have h1 : risingKeys t1 = true := cfgSet_rising h.cfg
  have h2 : risingKeys t2 = true := by
    unfold t2
    split
    · exact cfgSet_rising h1
    · exact h1
  exact Chk.Ok.runChecks h2

end Sys2Proof.Machine

/-! The governor, the schedulers, the engines and the inlets. -/

namespace Sys2Proof.Machine

/-! ### The predictor and the schedulers -/

theorem direct_ok {b : Block} {c : Nat} {k : Queue} (h : k.Ok) : (b.direct c k).1.Ok := by
  unfold Block.direct
  extract_lets wb reads
  split_ifs <;> exact h

theorem record_ok {k : Queue} {x : Cmd} (h : k.Ok) : (k.record x).Ok := by
  unfold Queue.record
  extract_lets key leave all
  split <;> exact h

theorem remember_ok {k : Queue} {x : Cmd} (h : k.Ok) : (k.remember x).Ok := h

section
variable {b : Block}

theorem Block.Ok.govCycle {c : Nat} (h : b.Ok) : (b.govCycle c).Ok := ite_ok h (h.modChan fun _ k => k)

theorem Block.Ok.charge {c : Nat} {k : CmdKind} (h : b.Ok) : (b.charge c k).Ok :=
  ite_ok h (Block.Ok.countC (h.modChan fun _ k => k))

theorem Block.Ok.endShort {c : Nat} (h : b.Ok) : (b.endShort c).Ok := ite_ok (h.modChan fun _ k => k) h

theorem Block.Ok.goShort {c : Nat} (h : b.Ok) : (b.goShort c).Ok := ite_ok h (h.modChan fun _ k => k)

theorem Block.Ok.energyStall {c : Nat} (h : b.Ok) : (b.energyStall c).Ok := ite_ok (h.event.modChan fun _ k => k) h

theorem Block.Ok.firstCmd {e : QEnt} (h : b.Ok) : (b.firstCmd e).Ok := h.modSnd

theorem Block.Ok.rowSelect {c q : Nat} {x : Cand} (h : b.Ok) : (b.rowSelect c q x).Ok := by
  unfold Block.rowSelect
  extract_lets m key sc b1 b2 b3 b4 pre act
  have h2 : b2.Ok := h.charge.modChan fun _ k => k
  have h3 : b3.Ok := h2.modQueue fun _ k => tput_rising k
  have h4 : b4.Ok := by
    unfold b4
    split
    · exact h3.countC
    · exact h3.countC
    · exact h3.modChan fun _ k => k
    · exact h3
  split
  · exact h4
  · exact Block.Ok.firstCmd (h4.modQueue fun _ k => k)

theorem Block.Ok.colSelect {c q : Nat} {e : QEnt} {m : Cmd} (h : b.Ok) : (b.colSelect c q e m).Ok := by
  unfold Block.colSelect
  extract_lets sc k p close ap kind m1 pre b1 b2 _ bank b3 cls rq b4 out b5 b6 b7
  have h2 : b2.Ok := h.charge.modChan fun _ k => k
  have h3 : b3.Ok := by
    refine h2.modQueue fun k hk => ?_
    extract_lets k1 k2 k3
    have h1 : k1.Ok := foldl_holds (record_ok (remember_ok hk)) fun _ _ => remember_ok
    have h2 : k2.Ok := tput_rising h1
    have h3 : k3.Ok := by
      unfold k3
      split <;> exact h2
    exact h3
  have h4 : b4.Ok := h3.countC
  have h5 : b5.Ok := ite_ok h4 h4.countC
  have h6 : b6.Ok := ite_ok h5.countC h5
  have h7 : b7.Ok := ite_ok h6.countC h6
  exact h7.firstCmd.modSnd

theorem Block.Ok.select {c q : Nat} (h : b.Ok) : (b.select c q).Ok := by
  unfold Block.select
  split
  · exact h
  · extract_lets r b1 k free all poor b2 closes shift
    have h1 : b1.Ok := Block.Ok.countC (h.modChan fun ch hch => by
      refine hch.modQueue fun _ _ => direct_ok ?_
      exact h.queueAt)
    have h2 : b2.Ok := ite_ok h1 h1.goShort
    split
    · exact h2
    · extract_lets x b3
      have h3 : b3.Ok := ite_ok h2.countC h2
      split
      · exact ite_ok h3.colSelect h3.rowSelect
      · exact h3.rowSelect

theorem Block.Ok.keepOpen {c q bank : Nat} (h : b.Ok) : (b.keepOpen c q bank).Ok := by
  unfold Block.keepOpen
  extract_lets x n b1
  have h1 : b1.Ok := h.modQueue fun _ k => tput_rising k
  exact ite_ok (ite_ok h1.countC h1) h

theorem Block.Ok.powerDown {c u : Nat} (h : b.Ok) : (b.powerDown c u).Ok := by
  unfold Block.powerDown
  extract_lets us q rankOf
  refine ite_ok (foldl_holds h fun a v ha => ?_) h
  extract_lets k open_ at_ x b1 b2
  have h1 : b1.Ok := ha.modQueue fun k hk => record_ok (remember_ok (foldl_holds hk fun _ _ k => tput_rising k))
  have h2 : b2.Ok := h1.countC
  exact h2.modChan fun _ k => k

theorem Block.Ok.cycleCounts {c : Nat} (h : b.Ok) : (b.cycleCounts c).Ok := by
  unfold Block.cycleCounts
  split
  · exact h
  · extract_lets ch one b1 b2 b3
    have h1 : b1.Ok := foldl_holds h fun _ _ k => foldl_holds k fun _ _ k => Block.Ok.countC k
    have h3 : b3.Ok := h1.countC.countC
    exact foldl_holds h3 fun _ _ k => Block.Ok.countC k

theorem Block.Ok.ckCycle {c : Nat} (h : b.Ok) : (b.ckCycle c).Ok := by
  unfold Block.ckCycle
  split
  · exact h
  · extract_lets b1 b2 b3 b4 b5 b6
    have h3 : b3.Ok := h.cycleCounts.govCycle.modChan fun _ k => k
    have h4 : b4.Ok := h3.endShort
    have h5 : b5.Ok := ite_ok h4.goShort h4
    have h6 : b6.Ok := ite_ok (h5.modChan fun _ k => k) h5
    exact h6.dropPrefetches

/-! ### The engines of long packets -/

theorem Block.Ok.setOp {o : LongOp} {g : LongOp → LongOp} (h : b.Ok) : (b.setOp o g).Ok := h

theorem Block.Ok.copyStep {b' : Block} {c : Nat} (h : b.Ok) (hs : b.copyStep c = some b') : b'.Ok := by
  unfold Block.copyStep at hs
  split at hs
  · cases hs
  · split at hs
    · cases hs
    · obtain ⟨e, -, rfl⟩ := Option.map_eq_some_iff.1 hs
      extract_lets x skip
      have hk : skip.Ok := h.modChan fun _ k => k
      split
      · exact hk
      · exact ite_ok hk (Block.Ok.issue (h.modChan fun _ k => k))

theorem Block.Ok.dropRanges {p : Nat} (h : b.Ok) : (b.dropRanges p).Ok := h

theorem Block.Ok.restartWalk {p : Nat} (h : b.Ok) : (b.restartWalk p).Ok := h

theorem Block.Ok.emptyPond {p : Nat} (h : b.Ok) : (b.emptyPond p).Ok := h.discardPond.dropRanges.restartWalk

theorem Block.Ok.wholeJob {o : LongOp} {p : Nat} {poison : Bool} (h : b.Ok) : (b.wholeJob o p poison).Ok := h

theorem Block.Ok.wipeStep {b' : Block} {o : LongOp} (h : b.Ok) (hs : b.wipeStep o = some b') : b'.Ok := by
  unfold Block.wipeStep at hs
  extract_lets p ways b1 b2 at hs
  split at hs
  · cases hs
  · cases hs
    have h1 : b1.Ok := h.setOp
    have h2 : b2.Ok := h1.emptyPond
    exact ite_ok (h1.onCache fun _ k => ⟨rfl, k.2⟩) (ite_ok h2.wholeJob h2.clearTiles)

theorem Block.Ok.rebuildStep {b' : Block} {o : LongOp} (h : b.Ok) (hs : b.rebuildStep o = some b') : b'.Ok := by
  unfold Block.rebuildStep at hs
  extract_lets p k size set none_ b1 b2 b3 at hs
  split at hs
  · cases hs
  · cases hs
    have h1 : b1.Ok := h.setOp
    have h2 : b2.Ok := h1.emptyPond.clearTiles
    have h3 : b3.Ok := h2.setCfg (rebuildCheck_ok h)
    exact ite_ok h3 (ite_ok h3.wholeJob h3.clearTiles)

theorem Block.Ok.preloadOne {blk p w tag : Nat} {x : Block × Nat} (h : b.Ok) (hs : b.preloadOne blk p w tag = some x) : x.1.Ok := by
  unfold Block.preloadOne at hs
  extract_lets key at hs
  split at hs
  · cases hs; exact h
  · split at hs
    · cases hs
    · split at hs
      · extract_lets free at hs
        split at hs <;> cases hs
        · exact h.onCache fun _ k => putLine_ok (dropLine_ok k)
        · exact h
      · split at hs
        · cases hs
          exact h.onCache fun _ => putLine_ok
        · split at hs <;> cases hs
          exact h.issueFill

theorem Block.Ok.preloadStep {b' : Block} {o : LongOp} (h : b.Ok) (hs : b.preloadStep o = some b') : b'.Ok := by
  unfold Block.preloadStep at hs
  extract_lets count blk at hs
  split at hs
  · cases hs
  · split at hs
    · cases hs
      exact h.setOp
    · obtain ⟨x, hx, rfl⟩ := Option.map_eq_some_iff.1 hs
      exact (h.preloadOne hx).setOp

theorem Block.Ok.relockStep {b' : Block} (h : b.Ok) (hs : b.relockStep = some b') : b'.Ok := by
  unfold Block.relockStep at hs
  split at hs
  · cases hs
  · extract_lets i off at hs
    split at hs
    · cases hs
    · split at hs
      · cases hs
        exact h.onCache fun _ k => k
      · split at hs
        · cases hs
          exact h.onCache fun _ k => k
        · obtain ⟨x, hx, rfl⟩ := Option.map_eq_some_iff.1 hs
          exact (h.preloadOne hx).onCache fun _ k => k

theorem Block.Ok.unlockStep {b' : Block} {o : LongOp} (h : b.Ok) (hs : b.unlockStep o = some b') : b'.Ok := by
  unfold Block.unlockStep at hs
  split at hs
  · cases hs
  · extract_lets past at hs
    have hp : ∀ x n y, x.Ok → past x n = some y → y.Ok := by
      intro x n y hx hy
      cases hy
      exact hx.setOp
    split at hs
    · split at hs
      · exact hp _ _ _ h hs
      · split at hs
        · cases hs
        · split at hs
          · rename_i ha
            have h1 := Block.Ok.allocate (h.onCache fun _ => dropLine_ok) ha
            exact hp _ _ _ (h1.onCache fun _ => putLine_ok) hs
          · cases hs
    · exact hp _ _ _ h hs

theorem Block.Ok.dropCounted {a : Loc} (h : b.Ok) : (b.dropCounted a).1.Ok := h.onCache fun _ => dropLine_ok

theorem Block.Ok.rangeStep {b' : Block} {o : LongOp} (h : b.Ok) (hs : b.rangeStep o = some b') : b'.Ok := by
  unfold Block.rangeStep at hs
  obtain ⟨blk, -, hs⟩ := List.exists_of_findSome?_eq_some hs
  extract_lets past at hs
  have hp : ∀ x n y, x.Ok → past x n = some y → y.Ok := by
    intro x n y hx hy
    cases hy
    exact hx.setOp
  split at hs
  · exact hp _ _ _ h hs
  · split at hs
    · split at hs <;> cases hs
      exact h.issueWb
    · split at hs
      · exact hp _ _ _ h.dropCounted hs
      · exact hp _ _ _ h hs

theorem Block.Ok.opStep {b' : Block} {o : LongOp} (h : b.Ok) (hs : b.opStep o = some b') : b'.Ok := by
  unfold Block.opStep at hs
  split at hs
  · exact h.rebuildStep hs
  · exact h.wipeStep hs
  · exact h.preloadStep hs
  · exact h.unlockStep hs
  · exact h.rangeStep hs
  · cases hs

theorem Block.Ok.engineStep {b' : Block} (h : b.Ok) (hs : b.engineStep = some b') : b'.Ok := by
  unfold Block.engineStep at hs
  split at hs
  · rename_i hc
    cases hs
    obtain ⟨c, -, hc⟩ := List.exists_of_findSome?_eq_some hc
    exact h.copyStep hc
  · split at hs
    · rename_i ho
      cases hs
      obtain ⟨o, -, ho⟩ := List.exists_of_findSome?_eq_some ho
      exact h.opStep ho
    · exact h.relockStep hs

theorem Block.Ok.pumpEngines {n : Nat} (h : b.Ok) : (b.pumpEngines n).Ok := by
  induction n generalizing b with
  | zero => exact h
  | succ n ih =>
    unfold Block.pumpEngines
    split
    · exact h
    · rename_i hs
      exact ih (h.engineStep hs)

/-! ### The stages of a request -/

theorem Block.Ok.stage4 {r : Req} {f : SramFault} (h : b.Ok) : (b.stage4 r f).Ok :=
  ite_ok h.serveScratch (ite_ok h.lookup h.modSnd.toChannel)

theorem Block.Ok.after3 {r : Req} {f : SramFault} (h : b.Ok) : (b.after3 r f).Ok := ite_ok h.finish (ite_ok h.finish h.stage4)

theorem Block.Ok.stage3 {r : Req} {f : SramFault} (h : b.Ok) : (b.stage3 r f).Ok := by
  unfold Block.stage3
  split
  · exact h.after3
  · extract_lets x pol served b1 r1
    have h1 : b1.Ok := h.police.modReq fun _ => rfl
    exact ite_ok h1.finish (ite_ok h1.finish h1.after3)

theorem Block.Ok.stage2t {r : Req} {f : SramFault} (h : b.Ok) : (b.stage2t r f).Ok := ite_ok h.wantTile.stageTo h.stage3

theorem Block.Ok.stage2 {r : Req} {f : SramFault} (h : b.Ok) : (b.stage2 r f).Ok := by
  unfold Block.stage2
  split
  · exact h.finish
  · extract_lets b1 r1
    have h1 : b1.Ok := h.modReq fun _ => rfl
    exact ite_ok h1.stageTo h1.stage2t

theorem Block.Ok.unwait {id : Nat} (h : b.Ok) : (b.unwait id).Ok := h.onCache fun _ k => k

theorem Block.Ok.leaveFill {id : Nat} (h : b.Ok) : (b.leaveFill id).1.Ok := by
  unfold Block.leaveFill
  split
  · exact h
  · extract_lets started
    split
    · exact h
    · split
      · exact Block.Ok.withdraw (h.onCache fun _ k => k)
      · exact h.onCache fun _ k => k

theorem Block.Ok.removeReq {r : Req} (h : b.Ok) : (b.removeReq r).1.Ok := by
  unfold Block.removeReq
  extract_lets gone
  have hg : ∀ x : Block × Bool, x.1.Ok → (gone x).1.Ok := by
    intro x hx
    unfold gone
    split
    · exact hx.finish
    · exact h
  split
  · exact h
  · split
    · exact h
    · exact hg _ h.withdraw
  · exact hg _ h.leaveFill
  · exact hg _ h.unwait

theorem Block.Ok.cancel {id requester target : Nat} (h : b.Ok) : (b.cancel id requester target).Ok := by
  unfold Block.cancel
  split
  · exact h.finish
  · exact Block.Ok.finish (h.removeReq.modReq fun _ => rfl)

theorem Block.Ok.admitReq {r : Req} {f : SramFault} (h : b.Ok) : (b.admitReq r f).Ok := by
  unfold Block.admitReq
  refine ite_ok h.parity.finish ?_
  split
  · exact h.cancel
  · exact h.stageTo
  · extract_lets bad b1 r1
    have h1 : b1.Ok := ite_ok (h.parity.modReq fun _ => rfl) h
    exact ite_ok h1 h1.stage2

theorem sample_reqs {op : Op} {cls : Nat} {force : Bool} : (b.sample op cls force).1.reqs = b.reqs := by
  unfold Block.sample
  split_ifs <;> rfl

/-- The request that is taken has the next number, which neither the count nor the sampling has used. -/
theorem Block.Ok.take {i : Fin 4} {h' : Hdr} {data : Block512} {mask : BitVec 64} {f : SramFault} (h : b.Ok) :
    (b.take i h' data mask f).Ok := by
  unfold Block.take
  extract_lets b1 b2 r s _ r1 b3 r3
  have h2 : b2.Ok := Block.Ok.count (h.modInlet fun n k => ⟨(Nat.sub_le _ _).trans k.1, k.2⟩)
  have hs : s.1.Ok ∧ s.1.reqs = b2.reqs := by
    unfold s
    split
    · exact ⟨h2.sample, sample_reqs⟩
    · exact ⟨h2, rfl⟩
  have hj : ∀ x : Req, x.id = b2.nextId → ({ b3 with reqs := b3.reqs ++ [x] } : Block).Ok := by
    intro x hx
    refine Block.Ok.parts (hs.1.setReqs (l := s.1.reqs ++ [x]) (n := b2.nextId + 1) ?_)
    rw [hs.2]
    exact h2.reqs.append hx
  split
  · extract_lets r2 b4
    have h4 : b4.Ok := Block.Ok.finish (hj r2 rfl)
    exact ite_ok h4 h4.event
  · exact Block.Ok.admitReq (hj r3 rfl)

theorem Block.Ok.violation {i kind rq tag : Nat} (h : b.Ok) : (b.violation i kind rq tag).Ok := h.event

theorem Block.Ok.present {i : Fin 4} {h' : Hdr} {data : Block512} {mask : BitVec 64} {f : SramFault} (h : b.Ok) :
    (b.present i h' data mask f).Ok := ite_ok h (ite_ok h.take (ite_ok h h.violation))

/-! ### Settling -/

theorem Block.Ok.unwaitIfThere {r : Req} (h : b.Ok) : (b.unwaitIfThere r).Ok := by
  unfold Block.unwaitIfThere
  split
  · exact h
  · exact h.unwait

theorem Block.Ok.releaseReq {b' : Block} (h : b.Ok) (hs : b.releaseReq = some b') : b'.Ok := by
  unfold Block.releaseReq at hs
  obtain ⟨r, -, hs⟩ := List.exists_of_findSome?_eq_some hs
  split at hs
  · split at hs <;> cases hs
    exact h.stage2
  · split at hs <;> cases hs
    exact h.stage2t
  · split at hs <;> cases hs
    exact h.stage3
  · split at hs <;> cases hs
    exact h.lookup
  · split at hs <;> cases hs
    exact h.unwaitIfThere.lookup
  · cases hs

theorem Block.Ok.settleN {n : Nat} (h : b.Ok) : (b.settleN n).Ok := by
  induction n generalizing b with
  | zero => exact h
  | succ n ih =>
    unfold Block.settleN
    split
    · rename_i hs
      exact ih (h.releaseReq hs)
    · split
      · rename_i hs
        exact ih (h.releaseOne hs)
      · exact h

theorem Block.Ok.lowerIdle (h : b.Ok) : b.lowerIdle.Ok := by
  unfold Block.lowerIdle
  refine ite_ok (h.setInlets (by simp [h.fourInlets]) ?_) h
  rintro n hn
  obtain ⟨⟨x, k⟩, hx, rfl⟩ := List.mem_map.1 hn
  have hx := h.inlets x (List.fst_mem_of_mem_zipIdx hx)
  dsimp only
  split
  · exact ⟨le_refl _, hx.2⟩
  · exact hx

theorem Block.Ok.dormFlush (h : b.Ok) : b.dormFlush.Ok := by
  unfold Block.dormFlush
  split
  · exact ite_ok (foldl_holds h fun _ _ k => Block.Ok.issueWb k) h
  · exact h

/-- What follows every command keeps the block sound. -/
theorem Block.Ok.settle (h : b.Ok) : b.settle.Ok := by
  unfold Block.settle
  extract_lets b1 b2 b3
  have h1 : b1.Ok := h.pumpEngines.pumpFill
  have h2 : b2.Ok := h1.settleN
  have h3 : b3.Ok := h2.pumpEngines.pumpFill
  exact h3.dormFlush.endDrains.drainHold.lowerIdle

/-! ### Responses and credits -/

theorem Block.Ok.fenceDone {rq tag : Nat} (h : b.Ok) : (b.fenceDone rq tag).Ok := by
  unfold Block.fenceDone
  split
  · exact h
  · exact ite_ok h.finish h

theorem Block.Ok.noCredit {i : Fin 4} {h' : Hdr} (h : b.Ok) : (b.noCredit i h').Ok := ite_ok h.violation h

theorem Block.Ok.pushSnd {r : Block512} (h : b.Ok) : (b.pushSnd r).Ok := h

theorem Block.Ok.respond {i k : Nat} {f : SramFault} (h : b.Ok) : (b.respond i k f).Ok := by
  unfold Block.respond
  extract_lets n
  split
  · exact h
  · refine ite_ok h ?_
    extract_lets r b1 lat lvl rsp b2 b3 b4
    have h1 : b1.Ok := ite_ok h h.parity
    have h2 : b2.Ok := h1.countResponse
    have h3 : b3.Ok := ite_ok h2.pushSnd h2
    have h4 : b4.Ok := h3.setReqs h3.reqs.filter
    refine h4.modInlet fun n k => ⟨?_, k.2.1, (Nat.sub_le _ _).trans k.2.2.1, k.2.2.2⟩
    dsimp only
    split
    · exact Nat.zero_le _
    · exact min_le_left _ _

theorem Block.Ok.grantRsp {i : Nat} (h : b.Ok) : (b.grantRsp i).Ok := by
  unfold Block.grantRsp
  split
  · rename_i hr
    exact h.modInlet_at fun k => ⟨k.1, k.2.1, hr, k.2.2.2⟩
  · exact h.violation

end
end Sys2Proof.Machine

/-! The reads, the arbiters and the turnover keep the block sound. -/

namespace Sys2Proof.Machine

section
variable {b : Block}

/-! ### Read data -/

theorem Block.Ok.retireEvent {c u dev start : Nat} {written : Bool} (h : b.Ok) : (b.retireEvent c u dev start written).Ok := h.event

theorem Block.Ok.offer {x : Coord} {dev blk : Nat} (h : b.Ok) : (b.offer x dev blk).1.Ok := by
  unfold Block.offer
  extract_lets u key w n n' n'' b1
  have h1 : ∀ m : Rebuild, (b.modChan x.chan fun ch => { ch with rebuilds := tput {} ch.rebuilds key m }).Ok :=
    fun m => h.modChan fun _ k => k
  split
  · exact h1 n'
  · split
    · exact (h1 n'').setF
    · exact h1 n''

theorem Block.Ok.corrected {d : DReq} {kind place : Nat} (h : b.Ok) : (b.corrected d kind place).Ok := h.event

theorem Block.Ok.noteErased {d : DReq} (h : b.Ok) : (b.noteErased d).Ok :=
  Block.Ok.event (b := { b with free := b.free + 3 }) h

theorem Block.Ok.noteGood {d : DReq} {o : Outcome} {reads : Bool} (h : b.Ok) : (b.noteGood d o reads).Ok := by
  unfold Block.noteGood
  extract_lets c sc
  split
  · exact h.countC.corrected
  · exact h.countC.corrected
  · exact h.countC.corrected
  · exact h.countC.corrected
  · exact h.countC.corrected
  · exact ite_ok h.countC.noteErased h.countC
  · extract_lets r b1
    have h1 : b1.Ok := h.countC.offer.event
    split
    · exact h1
    · exact h1.retireEvent
  · exact h

theorem Block.Ok.uncorrectable {d : DReq} {o : Outcome} {poisoned : Bool} (h : b.Ok) : (b.uncorrectable d o poisoned).Ok :=
  h.countC.emitPond

theorem Block.Ok.noteBad {d : DReq} {o : Outcome} {data : Block512} {write : Bool} (h : b.Ok) : (b.noteBad d o data write).Ok :=
  ite_ok h.uncorrectable (ite_ok (ite_ok h.poisonWrite.uncorrectable h.uncorrectable) h)

theorem Block.Ok.burst {c q : Nat} {raw : BitVec 640} {kinds : DKind → Bool} {go : Block → QEnt → Decode → Block} (h : b.Ok)
    (hg : ∀ b e r, b.Ok → (go b e r).Ok) : (b.burst c q raw kinds go).Ok := by
  unfold Block.burst
  extract_lets k b1
  split
  · exact h.modQueue fun x k => by split <;> exact k
  · refine ite_ok h ?_
    have h1 : b1.Ok := h.modQueue fun _ k => k
    refine ite_ok ?_ (hg _ _ _ h1.modSnd)
    exact Block.Ok.modSnd (Block.Ok.countC (h1.modQueue fun _ k => k))

theorem Block.Ok.demand {f : SramFault} {e : QEnt} {r : Decode} (h : b.Ok) : (Block.demand f b e r).Ok := by
  unfold Block.demand
  extract_lets d b1 b2
  have h2 : b2.Ok := Block.Ok.noteBad (Block.Ok.noteGood (h.modQueue fun _ k => k))
  exact ite_ok h2.parity.finishOwner h2.finishOwner

theorem Block.Ok.copied {e : QEnt} {r : Decode} (h : b.Ok) : (b.copied e r).Ok :=
  Block.Ok.issue (h.noteGood.noteBad.modQueue fun _ k => k)

theorem Block.Ok.fillBurst {e : QEnt} {r : Decode} (h : b.Ok) : (b.fillBurst e r).Ok := by
  unfold Block.fillBurst
  extract_lets d b1 served b2
  have h2 : b2.Ok := Block.Ok.noteGood (h.modQueue fun _ k => k)
  split
  · exact h2.noteBad
  · exact ite_ok h2.fillReturn.uncorrectable h2.fillReturn

theorem Block.Ok.rmw {e : QEnt} {r : Decode} (h : b.Ok) : (b.rmw e r).Ok := by
  unfold Block.rmw
  extract_lets d b1 b2 b3
  have h1 : b1.Ok := h.noteGood
  have h2 : b2.Ok := h1.modQueue fun _ k => k
  have h3 : b3.Ok := ite_ok h1.uncorrectable h1
  exact ite_ok h2.uncorrectable.finishOwner h3.mergeWrite

theorem Block.Ok.modDredge {p : Nat} {g : Dredge → Dredge} (h : b.Ok) : (b.modDredge p g).Ok := h

theorem Block.Ok.endPass {p : Nat} (h : b.Ok) : (b.endPass p).Ok := by
  unfold Block.endPass
  extract_lets w l took due ms b1 b2
  have h1 : b1.Ok := h.event
  have h2 : b2.Ok := ite_ok h1.event h1
  exact ite_ok h h2.modDredge

theorem Block.Ok.dredgeWrite {d : DReq} {data : Block512} (h : b.Ok) : (b.dredgeWrite d data).Ok :=
  ite_ok h.modDredge h.modDredge.issue

theorem Block.Ok.dredged {e : QEnt} {r : Decode} (h : b.Ok) : (b.dredged e r).Ok := by
  unfold Block.dredged
  extract_lets d b1 b2 b3 b4 b5
  have h1 : b1.Ok := h.modQueue fun _ k => k
  have h2 : b2.Ok := h1.noteGood.modDredge
  have h3 : b3.Ok := h2.modDredge
  have h4 : b4.Ok := h3.countC
  have h5 : b5.Ok := by
    unfold b5
    split
    iterate 2 exact h2
    · exact h2.modDredge
    iterate 6 exact h2.dredgeWrite
    all_goals
      split
      · exact h3.noteBad
      · exact h4.event.update
  exact h5.endPass

theorem Block.Ok.sent {c q : Nat} (h : b.Ok) : (b.sent c q).Ok := h.modQueue fun _ k => by split <;> exact k

/-! ### The admission arbiters -/

theorem Block.Ok.admitDReq {c : Nat} {d : DReq} {reserved follow : Bool} (h : b.Ok) : (b.admitDReq c d reserved follow).Ok := by
  unfold Block.admitDReq
  extract_lets now x d' b1 b2 b3 long wait
  have hx : x.1.Ok := by
    unfold x
    split
    · exact h
    · exact h.shCharge
  have h1 : b1.Ok := hx.modChan fun _ k => pump_ok k
  have h2 : b2.Ok := ite_ok h1.count h1
  exact ite_ok h2.modSnd.event h2.modSnd

theorem Block.Ok.toAdmit {c : Nat} (h : b.Ok) : (b.toAdmit c).Ok := h.advance

theorem Block.Ok.grant {c : Nat} (h : b.Ok) : (b.grant c).Ok := by
  unfold Block.grant
  refine ite_ok h ?_
  extract_lets b1 b2 s n
  have h2 : b2.Ok := h.dropPrefetches.toAdmit
  refine ite_ok h2 ?_
  split
  · exact h2
  · extract_lets b3 b4 b5 b6 b7
    have h3 : b3.Ok := h2.modChan fun _ k => k
    have h5 : b5.Ok := ite_ok h3.arbAdd.arbAdd h3.arbAdd
    have h7 : b7.Ok := ite_ok h5.countC.countC h5.countC
    exact h7.admitDReq

theorem Block.Ok.tenureStep {c : Nat} (h : b.Ok) : (b.tenureStep c).Ok := by
  unfold Block.tenureStep
  refine ite_ok h ?_
  extract_lets b1
  have h1 : b1.Ok := h.toAdmit
  split
  · exact h1.modChan fun _ k => k
  · exact Block.Ok.admitDReq (Block.Ok.countC (h1.modChan fun _ k => k))

theorem Block.Ok.enqueueNext {c : Nat} (h : b.Ok) : (b.enqueueNext c).Ok := by
  unfold Block.enqueueNext
  split
  · exact h
  · exact ite_ok h h.advance.arbAdd.arbAdd.arbMax.enqueue

theorem Block.Ok.saturated {c : Nat} (h : b.Ok) : (b.saturated c).Ok := by
  unfold Block.saturated
  split
  · exact h
  · exact ite_ok h.event h

/-! ### Turnover, refresh management, thermal hold and drift -/

theorem Block.Ok.thermal {c : Nat} (h : b.Ok) : (b.thermal c).Ok := by
  unfold Block.thermal
  split
  · exact h
  · extract_lets ph w cr set enter leave cross rearm b1 b2
    have hs : ∀ x hold warned, x.Ok → (set x hold warned).Ok := fun _ _ _ hx => hx.modChan fun _ k => k
    have h1 : b1.Ok := hs _ _ _ h
    have h2 : b2.Ok := ite_ok h1.event h1
    exact ite_ok h2.event (ite_ok h2.event h2)

theorem Block.Ok.doubleEvent {c sensor : Nat} {t8 : Nat × Nat} {on : Bool} (h : b.Ok) : (b.doubleEvent c sensor t8 on).Ok := h.event

theorem Block.Ok.setDoubled {c : Nat} {on : Bool} {x : Option Stopping} (h : b.Ok) : (b.setDoubled c on x).Ok :=
  h.modChan fun _ k => k

theorem Block.Ok.mr4Read {c : Nat} {r : Mr4Read} (h : b.Ok) : (b.mr4Read c r).Ok := by
  unfold Block.mr4Read
  extract_lets t v start mr4 mr4' stop temp b1 b2
  have h1 : b1.Ok := h.modChan fun _ k => k
  have h2 : b2.Ok := ite_ok h1.doubleEvent h1
  exact Block.Ok.thermal (b := { b2 with free := b2.free + 1 }) h2.parts

theorem Block.Ok.driftNibble {c u k count : Nat} {lanes : List Nat} (h : b.Ok) : (b.driftNibble c u k lanes count).Ok := by
  unfold Block.driftNibble
  extract_lets i word base old new b1 b2
  have h1 : b1.Ok := foldl_holds h fun _ _ k => Block.Ok.setF k
  have h2 : b2.Ok := h1.setF
  exact ite_ok h (ite_ok h2.event h2)

theorem Block.Ok.driftLane {c u n : Nat} {r : Bool × Bool} (h : b.Ok) : (b.driftLane c u n r).Ok := by
  unfold Block.driftLane
  extract_lets i bit v b1 key fails b2
  have h1 : b1.Ok := ite_ok h.setF (ite_ok h.setF h)
  have h2 : b2.Ok := h1.modChan fun _ k => k
  exact ite_ok h2.event h2

theorem Block.Ok.driftSample {c : Nat} {r : DriftRead} (h : b.Ok) : (b.driftSample c r).Ok := by
  unfold Block.driftSample
  extract_lets u b1
  have h1 : b1.Ok := h.modChan fun _ k => k
  exact ite_ok (foldl_holds h1 fun _ _ k => ite_ok k.driftLane k) (foldl_holds h1 fun _ _ k => Block.Ok.driftNibble k)

theorem Block.Ok.driftDueNow {c : Nat} (h : b.Ok) : (b.driftDueNow c).Ok :=
  foldl_holds h fun _ _ k => k.modChan fun _ k => k

theorem Block.Ok.turnCmd {c u at_ : Nat} {k : CmdKind} (h : b.Ok) : (b.turnCmd c u k at_).Ok :=
  Block.Ok.modChan (h.charge.modQueue fun _ k => record_ok (remember_ok k)) fun _ k => k

/-- A change of the state of every bank keeps their table. -/
theorem mapBanks_rising {t : List (Nat × Bank)} {g : Nat × Bank → Bank} (h : risingKeys t = true) :
    risingKeys (t.map fun e => (e.1, g e)) = true := map_rising (g := fun e => (e.1, g e)) (fun _ => rfl) h

/-- A change of the states of some banks keeps their table. -/
theorem banksFold_rising {t l : List (Nat × Bank)} {sel : Nat × Bank → Bool} {g : Nat × Bank → Bank} (h : risingKeys t = true) :
    risingKeys (l.foldl (fun t e => if sel e then tput {} t e.1 (g e) else t) t) = true :=
  foldl_holds (P := fun t => risingKeys t = true) h fun _ _ k => by
    split
    · exact tput_rising k
    · exact k

theorem Block.Ok.raaFall {c u : Nat} (h : b.Ok) : (b.raaFall c u).Ok := h.modQueue fun _ k => banksFold_rising k

theorem Block.Ok.rfmab {c u at_ : Nat} (h : b.Ok) : (b.rfmab c u at_).Ok := h.turnCmd.countC.raaFall

theorem Block.Ok.claim {c : Nat} (h : b.Ok) : (b.claim c).Ok := by
  unfold Block.claim
  extract_lets at_ b1 b2
  have h1 : b1.Ok := foldl_holds h fun _ _ k => Block.Ok.modChan k.turnCmd fun _ k => k
  have h2 : b2.Ok := foldl_holds h1 fun _ _ k => ite_ok (Block.Ok.modQueue k.turnCmd.countC fun _ k => banksFold_rising k) k
  exact h2.modChan fun _ k => k

theorem Block.Ok.refreshUnit {c base u : Nat} {room : Option Nat} (h : b.Ok) : (b.refreshUnit c base room u).Ok :=
  ite_ok h.turnCmd.countC.raaFall.rfmab h.turnCmd.countC.raaFall

theorem Block.Ok.occasion {c : Nat} {backstop : Bool} {mr4 : List Mr4Read} {drift : List DriftRead} (h : b.Ok) :
    (b.occasion c backstop mr4 drift).Ok := by
  unfold Block.occasion
  extract_lets room base start b1 b2 b3 b4 b5
  have h2 : b2.Ok := h.claim.modChan fun _ k => k
  have h3 : b3.Ok := h2.driftDueNow
  have h4 : b4.Ok := ite_ok h3 (foldl_holds h3 fun _ _ k => Block.Ok.mr4Read k)
  have h5 : b5.Ok := foldl_holds h4 fun _ _ k => Block.Ok.driftSample k
  exact foldl_holds h5 fun _ _ k => Block.Ok.refreshUnit k

theorem Block.Ok.endStall {c : Nat} (h : b.Ok) : (b.endStall c).Ok := by
  unfold Block.endStall
  extract_lets t b1
  have h1 : b1.Ok := h.modChan fun _ k => k
  split
  · exact ite_ok h1.setDoubled.doubleEvent h1
  · exact h1

theorem Block.Ok.turnLate {c : Nat} (h : b.Ok) : (b.turnLate c).Ok := ite_ok h.occasion.event h

theorem Block.Ok.rfmEmergency {c bank : Nat} (h : b.Ok) : (b.rfmEmergency c bank).Ok := ite_ok h.claim.rfmab h

theorem Block.Ok.driftForced {c : Nat} {drift : List DriftRead} (h : b.Ok) : (b.driftForced c drift).Ok :=
  ite_ok (foldl_holds h.claim fun _ _ k => Block.Ok.event k.driftSample) h

end
end Sys2Proof.Machine

/-! Replies, changes of mode, fences and alerts keep the block sound. -/

namespace Sys2Proof.Machine

section
variable {b : Block}

/-! ### Replies -/

theorem Block.Ok.pushReply {src : Src} {p : Packet} {busy : Bool} {objs : List Nat} (h : b.Ok) : (b.pushReply src p busy objs).Ok := by
  unfold Block.pushReply
  extract_lets b1 b2
  have h2 : b2.Ok := ite_ok h.count.count h.count
  exact h2.parts

theorem Block.Ok.replyHold {src : Src} {p : Packet} {objs : List Nat} {st detail p0 : Nat} {body : List Byte} (h : b.Ok) :
    (b.replyHold src p objs st detail p0 body).Ok := h.pushReply

theorem Block.Ok.reply {src : Src} {p : Packet} {st detail p0 : Nat} {body : List Byte} (h : b.Ok) :
    (b.reply src p st detail p0 body).Ok := h.replyHold

theorem Block.Ok.echo {src : Src} {p : Packet} {st detail : Nat} (h : b.Ok) : (b.echo src p st detail).Ok := h.reply

theorem Block.Ok.endOps {sel : LongOp → Bool} {st detail : Nat} {p0 : LongOp → Nat} {body : LongOp → List Byte} (h : b.Ok) :
    (b.endOps sel st detail p0 body).Ok := by
  unfold Block.endOps
  extract_lets out _ b1
  have h1 : b1.Ok := h.parts
  exact foldl_holds h1 fun _ _ k => Block.Ok.replyHold k

/-! ### Changes of mode, VOIDs and credits -/

theorem Block.Ok.changeMode {m : Mode} {cause us : Nat} (h : b.Ok) : (b.changeMode m cause us).Ok := by
  unfold Block.changeMode
  extract_lets old b1 _ b2
  have h2 : b2.Ok := h.parts
  exact ite_ok h2 h2.event

theorem Block.Ok.lowerReq (h : b.Ok) : b.lowerReq.Ok := h.mapInlets fun _ k => ⟨le_refl _, k.2⟩

theorem Block.Ok.lowerCmd (h : b.Ok) : b.lowerCmd.Ok := h.mapInlets fun n k => by
  split
  · exact ⟨k.1, le_refl _, k.2.2⟩
  · exact k

theorem Block.Ok.raiseReq (h : b.Ok) : b.raiseReq.Ok := h.mapInlets fun n k => by
  split
  · exact k
  · exact ⟨Nat.zero_le _, k.2⟩

theorem Block.Ok.raiseCmd (h : b.Ok) : b.raiseCmd.Ok := h.mapInlets fun n k => by
  split
  · exact k
  · exact ⟨k.1, by have := k.2.1; dsimp only; omega, k.2.2⟩

/-! ### Serving entry -/

theorem Block.Ok.resumeDredge (h : b.Ok) : b.resumeDredge.Ok := h

theorem Block.Ok.startDredge {d : Bool} (h : b.Ok) : (b.startDredge d).Ok :=
  ite_ok h.resumeDredge (foldl_holds h fun _ _ k => Block.Ok.modDredge k)

theorem Block.Ok.emptyShapers (h : b.Ok) : b.emptyShapers.Ok := h.mapChans fun _ k => k

theorem Block.Ok.restartReserve (h : b.Ok) : b.restartReserve.Ok := h.mapChans fun _ k => k

theorem Block.Ok.serveFrom {m : Mode} {cause us : Nat} (h : b.Ok) : (b.serveFrom m cause us).Ok := by
  unfold Block.serveFrom
  extract_lets dormant b1 b2
  have h1 : b1.Ok := ite_ok h.restartReserve h.emptyShapers.restartReserve
  exact h1.startSluice.changeMode.lowerReq.lowerCmd.startDredge.sluiceStarted

theorem Block.Ok.makeReady {c : Nat} (h : b.Ok) : (b.makeReady c).Ok :=
  h.modChan fun _ k => k.mapQueues rfl rfl fun _ k => mapBanks_rising k

/-! ### Fences -/

theorem Block.Ok.abandon {cause : Nat} (h : b.Ok) : (b.abandon cause).Ok := by
  unfold Block.abandon
  split
  · extract_lets step b1
    have h1 : b1.Ok := Block.Ok.event (Block.Ok.lowerCmd (Block.Ok.resumeDredge h.parts))
    exact h1.endOps
  · exact h

theorem Block.Ok.setNumber {c : Nat} (h : b.Ok) : (b.setNumber c).1.Ok := by
  unfold Block.setNumber
  split <;> exact h

theorem Chan.Ok.stop {ch : Chan} {state : Nat} (h : ch.Ok) : (ch.stop state).Ok :=
  h.mapQueues rfl rfl fun _ k => mapBanks_rising k

theorem Block.Ok.dropCopy {c : Nat} (h : b.Ok) : (b.dropCopy c).Ok := h.endOps

theorem Block.Ok.fence {c cause : Nat} {pre : Block → Block} (h : b.Ok) (hp : ∀ x, x.Ok → (pre x).Ok) : (b.fence c cause pre).Ok := by
  unfold Block.fence
  extract_lets b1 b2 b3 b4 s b5
  have h1 : b1.Ok := h.modChan fun _ k => k
  have h2 : b2.Ok := ite_ok h1.changeMode h1
  have h4 : b4.Ok := hp _ h2.abandon.losePonds
  have h5 : b5.Ok := h4.setNumber.event
  exact ite_ok h (Block.Ok.recountJobs (h5.dropCopy.modChan fun _ k => k.stop))

/-! ### Alerts, replay and recovery -/

theorem Block.Ok.pdAlert {c u : Nat} (h : b.Ok) : (b.pdAlert c u).Ok :=
  ite_ok (Block.Ok.event (h.modChan fun _ k => k)) (h.modChan fun _ k => k)

theorem Block.Ok.startAlert {c : Nat} {missing : Bool} (h : b.Ok) : (b.startAlert c missing).Ok := by
  unfold Block.startAlert
  extract_lets b1 b2
  have h1 : b1.Ok := h.modChan fun _ k => k
  have h2 : b2.Ok := foldl_holds h1 fun _ _ k => Block.Ok.countC k
  exact ite_ok h2 (foldl_holds h2 fun _ _ k => Block.Ok.pdAlert k)

theorem Block.Ok.reissue {c q : Nat} {x : Cmd} (h : b.Ok) : (b.reissue c q x).Ok := by
  unfold Block.reissue
  extract_lets sc b1 b2
  have h2 : b2.Ok := ite_ok h.charge.countC h.charge
  split
  · refine Block.Ok.countC (h2.modQueue fun k hk => ?_)
    split
    · exact tput_rising hk
    · exact hk
  · exact h2.countC.raaFall
  · exact h2.countC.raaFall
  · exact h2

theorem Block.Ok.replayQueue {c q : Nat} (h : b.Ok) : (b.replayQueue c q).Ok := by
  unfold Block.replayQueue
  extract_lets k start base t0 ranks pres acts acts' again b1 ids b2 rds live
  have h1 : b1.Ok := foldl_holds h fun _ _ k => Block.Ok.reissue k
  have h2 : b2.Ok := foldl_holds h1 fun _ _ k => Block.Ok.modSnd k
  exact h2.modQueue fun _ k => k

theorem Block.Ok.loseEntry {c q : Nat} {e : QEnt} (h : b.Ok) : (b.loseEntry c q e).Ok := by
  unfold Block.loseEntry
  extract_lets b1
  have h1 : b1.Ok := h.modQueue fun _ k => k
  refine ite_ok h1 ?_
  split
  iterate 2
    split
    · exact h1
    · exact h1.fillReturn
  exact h1.finishOwner

theorem Block.Ok.failReplay {c : Nat} (h : b.Ok) : (b.failReplay c).Ok := by
  unfold Block.failReplay
  extract_lets blocks fails ready b1 told b2
  have h1 : b1.Ok := foldl_holds h fun _ _ k => foldl_holds k fun _ _ k => Block.Ok.loseEntry k
  have h2 : b2.Ok := h1.modChan fun _ k => k
  have ht : ∀ x, x.Ok → (told x).Ok := fun _ hx => hx.event
  exact ite_ok (h2.fence ht) ((ht _ h2).modChan fun _ k => k)

theorem Block.Ok.alerted {c : Nat} {missing : Bool} (h : b.Ok) : (b.alerted c missing).Ok := by
  unfold Block.alerted
  refine ite_ok h ?_
  split
  · exact h.startAlert
  · exact h.failReplay
  · exact h.fence fun _ hx => hx
  · exact h
  · exact h

theorem Block.Ok.recoverQueue {c q : Nat} (h : b.Ok) : (b.recoverQueue c q).Ok := by
  unfold Block.recoverQueue
  extract_lets cmds b1 b2
  have h1 : b1.Ok := foldl_holds h fun _ _ k => Block.Ok.reissue k
  have h2 : b2.Ok := h1.countC
  exact h2.modQueue fun _ k => foldl_holds (mapBanks_rising k) fun _ _ k => record_ok k

theorem Block.Ok.recover {c : Nat} (h : b.Ok) : (b.recover c).Ok := foldl_holds h fun _ _ k => Block.Ok.recoverQueue k

theorem Block.Ok.released {c : Nat} (h : b.Ok) : (b.released c).Ok := by
  unfold Block.released
  split
  · exact Block.Ok.modChan (foldl_holds h fun _ _ k => Block.Ok.replayQueue k) fun _ k => k
  · exact h.recover.modChan fun _ k => k
  · exact h

theorem Block.Ok.stuck {c : Nat} (h : b.Ok) : (b.stuck c).Ok := by
  unfold Block.stuck
  split
  · exact h.fence fun _ hx => hx
  · exact h.fence fun _ hx => hx
  · exact h

theorem Block.Ok.replayed {c : Nat} (h : b.Ok) : (b.replayed c).Ok := by
  unfold Block.replayed
  extract_lets resume
  have hr : ∀ x, x.Ok → (resume x).Ok := fun _ hx => hx.modChan fun _ k => k
  split
  · exact Block.Ok.event (hr _ (h.modChan fun _ k => k))
  · exact hr _ h
  · exact h

end
end Sys2Proof.Machine

/-! The packet service, bring-up and training keep the block sound. -/

namespace Sys2Proof.Machine

theorem takeFirst_length {α : Type} (p : α → Bool) (l : List α) : (takeFirst p l).1.length ≤ l.length := by
  induction l with
  | nil => exact le_refl _
  | cons x t ih =>
    unfold takeFirst
    split <;> simp only [List.length_cons] <;> omega

section
variable {b : Block}

/-! ### The packet service -/

theorem Block.Ok.wakeClocks (h : b.Ok) : b.wakeClocks.Ok := ite_ok h.parts h

/-- A packet joins the queue where fewer than 64 entries are held. -/
theorem Block.Ok.arrive {src : Src} {p : Packet} {bytes : Nat} {bad : Bool} (h : b.Ok) : (b.arrive src p bytes bad).Ok := by
  unfold Block.arrive
  extract_lets b1 all b2
  have h1 : b1.Ok := h.wakeClocks
  split
  · exact h1.event.pushReply
  · rename_i hlt
    have ha : b1.pkts.queue.length ≤ all := by
      simp only [all, Block.entries, List.filter_true]
      omega
    simp only [Bool.or_eq_true, decide_eq_true_eq, not_or] at hlt
    refine { h1 with queue := ?_ }
    rw [List.length_append]
    simp only [List.length_singleton]
    omega

theorem Block.Ok.bring {src : Src} {p : Packet} (h : b.Ok) : (b.bring src p).Ok := ite_ok h.arrive h

theorem Block.Ok.check {q : QPkt} {act : Block → Src → Packet → Block} (h : b.Ok)
    (ha : ∀ x src p, x.Ok → (act x src p).Ok) : (b.check q act).Ok := by
  unfold Block.check
  extract_lets p rq op head d
  refine ite_ok h.parity.reply (ite_ok ?_ ?_)
  · exact Block.Ok.reply (Block.Ok.event h.parts)
  · split
    · exact h
    · refine ite_ok h.reply (ite_ok h.event.reply (ite_ok h.event.reply (ite_ok ?_ (ha _ _ _ h))))
      exact Block.Ok.reply h.parts

theorem Block.Ok.dequeue {q : QPkt} (h : b.Ok) : (b.dequeue q).Ok :=
  { h with queue := (takeFirst_length _ _).trans h.queue }

theorem Block.Ok.packet {src : Src} {p : Packet} {act : Block → Src → Packet → Block} (h : b.Ok)
    (ha : ∀ x src p, x.Ok → (act x src p).Ok) : (b.packet src p act).Ok := by
  unfold Block.packet
  refine ite_ok h ?_
  extract_lets b1
  have h1 : b1.Ok := ite_ok h h.bring
  split
  · exact h1
  · exact ite_ok (h1.dequeue.check ha) h1

theorem Block.Ok.beginOp {src : Src} {p : Packet} {g : LongOp → LongOp} (h : b.Ok) : (b.beginOp src p g).Ok := h.parts

theorem Block.Ok.answer {src : Src} {p : Packet} {st detail p0 : Nat} {body : List Byte} (h : b.Ok) :
    (b.answer src p st detail p0 body).Ok := h.replyHold

theorem Block.Ok.returnOwed {i : Fin 4} (h : b.Ok) : (b.returnOwed i).Ok := by
  refine ite_ok h (h.modInlet fun n k => ?_)
  split
  · exact k
  · exact ⟨k.1, k.2.1, k.2.2⟩

/-- The flit's credit is owed from the step that takes it. -/
theorem Block.Ok.takeFlit {i : Fin 4} {flit : BitVec 128} {last bad : Bool} (h : b.Ok)
    (hc : (b.inlet i).cmdVoid = true ∨ 0 < (b.inlet i).cmdCred) : (b.takeFlit i flit last bad).Ok := by
  unfold Block.takeFlit
  extract_lets n flits fbad b1 b2
  have h1 : b1.Ok := h.modInlet_at fun k => by
    refine ⟨k.1, ?_, k.2.2⟩
    have hk := k.2.1
    dsimp only
    split
    · omega
    · rename_i hv
      rcases hc with hc | hc
      · exact absurd hc hv
      · omega
  have h2 : b2.Ok := ite_ok (Block.Ok.arrive (h1.modInlet fun _ k => k)) (h1.modInlet fun _ k => k)
  exact h2.returnOwed

theorem Block.Ok.cmdFlit {i : Fin 4} {flit : BitVec 128} {last bad : Bool} (h : b.Ok) : (b.cmdFlit i flit last bad).Ok := by
  unfold Block.cmdFlit
  extract_lets n ok
  refine ite_ok h ?_
  split
  · rename_i hok
    refine h.takeFlit ?_
    by_cases hv : (b.inlet i).cmdVoid = true
    · exact .inl hv
    · right
      simpa [ok, n, hv] using hok
  · exact h.violation

theorem Block.Ok.grantRpl {i : Fin 4} (h : b.Ok) : (b.grantRpl i).Ok := by
  unfold Block.grantRpl
  split
  · rename_i hr
    exact Block.Ok.returnOwed (h.modInlet_at fun k => ⟨k.1, k.2.1, k.2.2.1, hr⟩)
  · exact h.violation

theorem Block.Ok.emitPacket {src : Src} {p : Packet} (h : b.Ok) : (b.emitPacket src p).Ok := by
  unfold Block.emitPacket
  split
  · exact h.parts
  · exact h.modInlet fun _ k => ⟨k.1, k.2.1, k.2.2.1, (Nat.sub_le _ _).trans k.2.2.2⟩

theorem Block.Ok.sendReply {src : Src} (h : b.Ok) : (b.sendReply src).Ok := by
  unfold Block.sendReply
  extract_lets r _
  split
  · exact h
  · refine ite_ok h ?_
    extract_lets b1
    have h1 : b1.Ok := Block.Ok.emitPacket h.parts
    split
    · exact h1
    · exact h1.returnOwed

theorem Block.Ok.sendEventPkt {src : Src} (h : b.Ok) : (b.sendEventPkt src).Ok := by
  unfold Block.sendEventPkt
  refine ite_ok h ?_
  extract_lets r
  split
  · exact h
  · exact ite_ok h (Block.Ok.emitPacket h.parts)

/-! ### Attachment -/

theorem Block.Ok.attach {src : Src} {p : Packet} (h : b.Ok) : (b.attach src p).Ok := by
  unfold Block.attach
  extract_lets s refuse lo hi l now
  split
  · exact h
  · extract_lets b1 b2 b3
    have hr : ∀ x st d, x.Ok → (refuse x st d).Ok := fun _ _ _ hx => hx.pushReply
    have h2 : b2.Ok := Block.Ok.parts (Block.Ok.setCfg (b := b) h (cfgReset_rising (cfgReset_rising h.cfg)))
    have h3 : b3.Ok := h2.event
    exact ite_ok (hr _ _ _ h) (ite_ok (hr _ _ _ h.event) h3.reply)

theorem Block.Ok.detach {src : Src} {p : Packet} (h : b.Ok) : (b.detach src p).Ok := by
  unfold Block.detach
  extract_lets t
  split
  · exact h.parts
  · exact h.echo

theorem Block.Ok.detached {t : Nat} (h : b.Ok) : (b.detached t).Ok := by
  unfold Block.detached
  split
  · refine ite_ok h ?_
    extract_lets _ b1 b2 _ _ b3
    have h2 : b2.Ok := Block.Ok.echo (b := b1) h.parts
    have h3 : b3.Ok := Block.Ok.parts (h2.setCfg (cfgReset_rising (cfgReset_rising h2.cfg)))
    exact h3.event
  · exact h

/-! ### Power, temperatures and polls -/

theorem Block.Ok.events {evs : List Ev} (h : b.Ok) : (b.events evs).Ok := foldl_holds h fun _ _ k => Block.Ok.event k

theorem Block.Ok.modPhy {c : Nat} {g : Phy → Phy} (h : b.Ok) (hg : ∀ p, p.Ok → (g p).Ok) : (b.modPhy c g).Ok :=
  h.modChan fun _ k => ⟨k.1, k.2.1, hg _ k.2.2⟩

theorem Block.Ok.modRestore {g : Restore → Restore} (h : b.Ok) : (b.modRestore g).Ok := h

theorem Block.Ok.vddqCheck {c mv : Nat} (h : b.Ok) : (b.vddqCheck c mv).Ok := by
  unfold Block.vddqCheck
  refine ite_ok h ?_
  extract_lets b1 ok
  have h1 : b1.Ok := h.modPhy fun _ k => k
  have h2 : ∀ n, (b1.modPhy c fun p => { p with vddqBad := n }).Ok := fun n => h1.modPhy fun _ k => k
  refine ite_ok (ite_ok (h2 0) (ite_ok (h2 1) ((h2 0).fence fun _ k => k.events))) (ite_ok ?_ h1)
  exact Block.Ok.events (h1.modChan fun _ k => k)

theorem Block.Ok.pollOne {c k : Nat} {t : Option (BitVec 16)} (h : b.Ok) : (b.pollOne c k t).Ok := by
  unfold Block.pollOne
  refine ite_ok h ?_
  extract_lets ph put old
  have hp : ∀ x bad good temp, x.Ok → (put x bad good temp).Ok := fun _ _ _ _ hx => hx.modPhy fun p hp => by
    simpa [Phy.Ok] using hp
  split
  · exact ite_ok (hp _ _ _ _ h) (hp _ _ _ _ h)
  · refine ite_ok (hp _ _ _ _ h) (ite_ok (hp _ _ _ _ h) ?_)
    exact Block.Ok.event (Block.Ok.parts (hp _ _ _ _ h))

theorem Block.Ok.ddr4Double {c : Nat} (h : b.Ok) : (b.ddr4Double c).Ok := by
  unfold Block.ddr4Double
  refine ite_ok h ?_
  dsimp only
  split
  · exact h
  · exact ite_ok (ite_ok h.setDoubled h.setDoubled.doubleEvent) (ite_ok h.setDoubled h)

theorem Block.Ok.pollSensors {c : Nat} {rs : List (Option (BitVec 16))} (h : b.Ok) : (b.pollSensors c rs).Ok := by
  unfold Block.pollSensors
  extract_lets b1
  have h1 : b1.Ok := foldl_holds h fun _ _ k => Block.Ok.pollOne k
  exact h1.ddr4Double.thermal

theorem Block.Ok.thermalPoll {c : Nat} {rs : List (Option (BitVec 16))} (h : b.Ok) : (b.thermalPoll c rs).Ok :=
  ite_ok h h.pollSensors

theorem Block.Ok.pcap {mw : Nat} {valid : Bool} (h : b.Ok) : (b.pcap mw valid).Ok := ite_ok h.parts h

theorem Block.Ok.dieTemp {t : BitVec 12} (h : b.Ok) : (b.dieTemp t).Ok := ite_ok h (Block.Ok.events h.parts)

theorem Block.Ok.loseDie (h : b.Ok) : b.loseDie.Ok := by
  unfold Block.loseDie
  split
  · exact h
  · exact Block.Ok.event h.parts

/-! ### Discovery -/

theorem Block.Ok.addReport {rule c : Nat} {es : List RepEnt} (h : b.Ok) : (b.addReport rule c es).Ok := ite_ok h.modRestore h.parts

theorem foundSlot_ok {p : Phy} {full : Bool} {s : SlotInfo} (h : p.Ok) : (p.foundSlot full s).Ok := h

theorem Block.Ok.fullRead {c : Nat} {found : List SlotInfo} (h : b.Ok) : (b.fullRead c found).Ok :=
  h.modPhy fun _ k => foldl_holds k fun _ _ k => foundSlot_ok k

theorem Block.Ok.discoverChan {full : Bool} {slots : List SlotInfo} {c : Nat} (h : b.Ok) : (b.discoverChan full slots c).Ok :=
  ite_ok h (h.modPhy fun _ k => foldl_holds k fun _ _ k => foundSlot_ok k)

theorem Block.Ok.discover {full : Bool} {slots : List SlotInfo} (h : b.Ok) : (b.discover full slots).Ok :=
  Block.Ok.events (foldl_holds h fun _ _ k => Block.Ok.discoverChan k)

theorem Block.Ok.saveIds {c : Nat} (h : b.Ok) : (b.saveIds c).Ok := h

theorem Block.Ok.judge {c : Nat} (h : b.Ok) : (b.judge c).1.Ok := by
  unfold Block.judge
  extract_lets slots es b1 b2
  have h1 : b1.Ok := foldl_holds h fun _ _ k => Block.Ok.setF (Block.Ok.setF k)
  have h2 : b2.Ok := h1.modPhy fun _ k => k
  split
  · exact h.modPhy fun _ k => k
  · exact h2.addReport

/-! ### The remap CAM and channels that become ready -/

theorem restoreSpare_ok {c slot : Nat} {a : Block × List Ev} {e : Nat × SpareRec} (h : a.1.Ok) :
    (Block.restoreSpare c slot a e).1.Ok := by
  unfold Block.restoreSpare
  extract_lets b x
  split
  · exact h.modChan fun _ k => k
  · exact Block.Ok.addReport h.parts

theorem Block.Ok.rebuildCam {c : Nat} (h : b.Ok) : (b.rebuildCam c).1.Ok := by
  unfold Block.rebuildCam
  extract_lets b1 b2
  have h2 : b2.Ok := h.modRestore.modChan fun _ k => k
  split
  · exact h
  · refine foldl_holds (P := fun a : Block × List Ev => a.1.Ok) h2 fun a slot ha => ?_
    dsimp only
    split
    · exact ha
    · exact foldl_holds (P := fun a : Block × List Ev => a.1.Ok) ha fun _ _ k => restoreSpare_ok k

theorem Block.Ok.becomeReady {c : Nat} (h : b.Ok) : (b.becomeReady c).1.Ok := h.makeReady.rebuildCam

/-! ### The SPD check -/

theorem raisePut_ok {a : Raise} {id c bit v : Nat} (h : a.blk.Ok) : (a.put id c bit v).blk.Ok := by
  unfold Raise.put
  extract_lets old
  split
  · exact h
  · exact h.setF

theorem Block.Ok.spdRaise {c : Nat} {spd : List SpdInfo} (h : b.Ok) : (b.spdRaise c spd).blk.Ok := by
  unfold Block.spdRaise
  extract_lets ddr5 a a1 a2 refi a3 t k _ a4 _
  have h1 : a1.blk.Ok := raisePut_ok h
  have h2 : a2.blk.Ok := foldl_holds (P := fun a : Raise => a.blk.Ok) h1 fun _ _ k => raisePut_ok k
  have h3 : a3.blk.Ok := raisePut_ok h2
  have hk : k.Ok := Chk.Ok.timingRelations h3.cfg
  have h4 : a4.blk.Ok := h3.setCfg hk
  split
  · exact raisePut_ok (raisePut_ok (raisePut_ok h4))
  · exact h4

theorem Block.Ok.spdCheck {c : Nat} {spd : List SpdInfo} (h : b.Ok) : (b.spdCheck c spd).1.Ok := by
  unfold Block.spdCheck
  split
  · exact h
  · extract_lets a evs
    have ha : a.blk.Ok := h.spdRaise
    split
    · exact ha.addReport
    · exact ha

/-! ### Training and bring-up -/

theorem Block.Ok.trainUnit {c ext : Nat} {u : UnitTrain} (h : b.Ok) : (b.trainUnit c ext u).Ok := by
  unfold Block.trainUnit
  extract_lets i fields b1 base eyes
  have h1 : b1.Ok := foldl_holds h fun _ _ k => by
    split
    · exact k
    · exact k.setF
  exact h1.modPhy fun _ k => k

theorem Block.Ok.trainChan {c ext : Nat} {r : TrainRes} (h : b.Ok) : (b.trainChan c ext r).Ok := by
  unfold Block.trainChan
  extract_lets us b1 b2
  have h1 : b1.Ok := foldl_holds (P := Block.Ok) h fun _ _ k => k.setCfg (cfgReset_rising k.cfg)
  have h2 : b2.Ok := foldl_holds h1 fun _ _ k => Block.Ok.trainUnit k
  exact ite_ok (foldl_holds h2 fun _ _ k => Block.Ok.setF k) h2

theorem Block.Ok.upFailed {c : Nat} (h : b.Ok) : (b.upFailed c).Ok := Block.Ok.parts (h.modChan fun _ k => k)

theorem Block.Ok.phase {n : Nat} (h : b.Ok) : (b.phase n).Ok := h.parts

theorem Block.Ok.startBringUp (h : b.Ok) : b.startBringUp.Ok := by
  unfold Block.startBringUp
  extract_lets cs b1 a
  have h1 : b1.Ok := h.phase.modRestore
  have ha : a.1.Ok := foldl_holds (P := fun a : Block × List Ev => a.1.Ok) h1 fun a c ha => by
    dsimp only
    split
    · exact ha.modChan fun _ k => k
    · exact Block.Ok.judge (ha.modChan fun _ k => k)
  exact ha.events

theorem Block.Ok.tryBringUp (h : b.Ok) : b.tryBringUp.Ok := ite_ok h.startBringUp h

theorem Block.Ok.discovered {slots : List SlotInfo} (h : b.Ok) : (b.discovered slots).Ok :=
  ite_ok h (ite_ok h.discover.modRestore.phase.tryBringUp
    (ite_ok (foldl_holds h.discover.modRestore fun _ _ k => Block.Ok.saveIds k) h))

theorem Block.Ok.upChecked {c : Nat} {r : BringUp} (h : b.Ok) : (b.upChecked c r).1.Ok := by
  unfold Block.upChecked
  extract_lets train k t
  have ht : ∀ x res last, x.Ok → (train x res last).1.Ok := by
    intro x res last hx
    have h1 := Block.Ok.trainChan (c := c) (ext := 1) (r := { res with fail := res.fail.or last })
      (Block.Ok.phase (n := 6) (b := { x with boot := { x.boot with trained := x.boot.trained ||| 2 ^ c } }) hx.parts)
    unfold train
    dsimp only
    split
    · exact h1.becomeReady
    · exact h1.upFailed
  have hk : k.1.Ok := h.fullRead.spdCheck
  split
  · split
    · exact ht _ _ _ hk
    · exact hk.upFailed
  · split
    · exact h.becomeReady
    · exact ht _ _ _ h

theorem Block.Ok.bringUpDone {c : Nat} {r : BringUp} (h : b.Ok) : (b.bringUpDone c r).Ok := by
  unfold Block.bringUpDone
  extract_lets b1 b2 j u
  have h2 : b2.Ok := h.modRestore.modPhy fun _ k => k
  have hj : j.1.Ok := by
    unfold j
    split
    · exact h2.judge
    · exact h2
  exact ite_ok h (ite_ok (Block.Ok.events (h2.modChan fun _ k => k)) hj.upChecked.events)

end
end Sys2Proof.Machine

/-! The packets of ponds and of the cache keep the block sound. -/

namespace Sys2Proof.Machine

theorem zeroWay_ok {k : Cache} {w : Nat} (h : k.Ok) : (k.zeroWay w).Ok := ⟨tclear_twf h.1, h.2⟩

theorem freezeWay_ok {k : Cache} {w : Nat} (h : k.Ok) : (k.freezeWay w).Ok := foldl_holds (zeroWay_ok h) fun _ _ k => writeScratch_ok k

section
variable {b : Block} {src : Src} {p : Packet}

theorem Block.Ok.replyReport {objs : List Nat} {r : List RepEnt} {evs : List Ev} (h : b.Ok) : (b.replyReport src p objs r evs).Ok :=
  h.events.replyHold

/-! ### Ponds -/

theorem Block.Ok.fill (h : b.Ok) : (b.fill src p).Ok := by
  unfold Block.fill
  refine ite_ok h.answer ?_
  split
  · exact h.answer
  · exact h.parts

theorem Block.Ok.fillDone (h : b.Ok) : b.fillDone.Ok := by
  unfold Block.fillDone
  split
  · exact h
  · extract_lets lost b1 b2
    have h1 : b1.Ok := h.parts
    have h2 : b2.Ok := ite_ok h1 h1.events
    exact h2.endOps

theorem Block.Ok.wipePond (h : b.Ok) : (b.wipePond src p).Ok :=
  ite_ok h.answer (ite_ok h.answer (ite_ok h.answer h.modPond.stopTiles.beginOp))

theorem Block.Ok.takeJob {o : LongOp} (h : b.Ok) : (b.takeJob o).2.Ok := h.parts

theorem Block.Ok.wiped {n : Nat} (h : b.Ok) : (b.wiped n).Ok := by
  unfold Block.wiped
  split
  · exact h
  · extract_lets lost j b1 b2
    have h1 : b1.Ok := h.takeJob.modPond.restartWalk
    have h2 : b2.Ok := ite_ok h1 h1.events
    exact ite_ok h h2.endOps

theorem Block.Ok.protect (h : b.Ok) : (b.protect src p).Ok := h.setF.event.echo

theorem Block.Ok.rebuild (h : b.Ok) : (b.rebuild src p).Ok := ite_ok h.answer h.modPond.stopTiles.beginOp

theorem Block.Ok.rebuilt {n : Nat} (h : b.Ok) : (b.rebuilt n).Ok := by
  unfold Block.rebuilt
  split
  · exact h
  · extract_lets j b1 b2 evs _ b3
    have h2 : b2.Ok := h.takeJob.modPond.restartWalk
    have h3 : b3.Ok := h2.parts
    exact ite_ok h h3.replyReport

theorem Block.Ok.dredgeRead {n : Nat} (h : b.Ok) : (b.dredgeRead n).Ok :=
  ite_ok h (ite_ok h.endPass (ite_ok h (ite_ok h.modDredge.endPass (ite_ok h.modDredge h.modDredge.modDredge.issue))))

/-! ### Ranges of the cache -/

theorem Block.Ok.onRange {go : Block → Block} (h : b.Ok) (hg : ∀ x, x.Ok → (go x).Ok) : (b.onRange src p go).Ok :=
  ite_ok h.answer (ite_ok h.answer (hg _ h))

theorem Block.Ok.preload (h : b.Ok) : (b.preload src p).Ok := h.onRange fun _ k => k.beginOp

theorem Block.Ok.recordRange (h : b.Ok) : (b.recordRange p).1.Ok := by
  unfold Block.recordRange
  split
  · exact h.parts
  · exact h.event

theorem Block.Ok.preloaded (h : b.Ok) : b.preloaded.Ok := by
  unfold Block.preloaded
  split
  · exact h
  · exact ite_ok h h.recordRange.endOps

theorem lockOne_ok {w blk : Nat} {a : Block × Nat} (h : a.1.Ok) : (Block.lockOne w a blk).1.Ok := by
  unfold Block.lockOne
  extract_lets b key
  split
  · exact h
  · split
    · exact h.onCache fun _ k => putLine_ok (dropLine_ok k)
    · exact h

theorem Block.Ok.lockRange (h : b.Ok) : (b.lockRange src p).Ok := h.onRange fun _ k =>
  ite_ok k.beginOp (Block.Ok.beginOp (foldl_holds (P := fun a : Block × Nat => a.1.Ok) k fun _ _ k => lockOne_ok k))

theorem Block.Ok.rangeDone {opcode : Nat} {p0 : LongOp → Nat} (h : b.Ok) : (b.rangeDone opcode p0).Ok := by
  unfold Block.rangeDone
  split
  · exact h
  · exact ite_ok h.endOps h

theorem Block.Ok.unlockRange (h : b.Ok) : (b.unlockRange src p).Ok := h.onRange fun _ k => Block.Ok.beginOp k.parts

theorem Block.Ok.flushLine {a : Loc} {l : Line} (h : b.Ok) : (b.flushLine a l).Ok := by
  unfold Block.flushLine
  split
  · exact h.issueWb
  · exact ite_ok (ite_ok h.withdraw.issueWb h) h

theorem rangeOne_ok {action blk : Nat} {a : Block × Nat × Nat × List Nat} (h : a.1.Ok) : (Block.rangeOne action a blk).1.Ok := by
  unfold Block.rangeOne
  extract_lets b
  split
  · exact h
  · split
    · exact h.flushLine
    · split
      · exact h
      · exact h.dropCounted

theorem Block.Ok.cacheRange (h : b.Ok) : (b.cacheRange src p).Ok := by
  unfold Block.cacheRange
  extract_lets count action lo b1 r
  have h1 : b1.Ok := ite_ok h (h.onCache fun _ k => k)
  have hr : r.1.Ok := foldl_holds (P := fun a : Block × Nat × Nat × List Nat => a.1.Ok) h1 fun _ _ k => rangeOne_ok k
  exact ite_ok h.answer hr.beginOp

theorem Block.Ok.cacheRangeDone (h : b.Ok) : b.cacheRangeDone.Ok := by
  unfold Block.cacheRangeDone
  split
  · exact h
  · exact ite_ok h.endOps h

/-! ### Enable, disable and way modes -/

theorem Block.Ok.startRelock {cause : Nat} (h : b.Ok) : (b.startRelock cause).Ok := h.onCache fun _ k => k

theorem Block.Ok.cacheEnable (h : b.Ok) : (b.cacheEnable src p).Ok :=
  ite_ok h.startRelock.echo (ite_ok h.echo h.setF.startRelock.events.echo)

theorem Block.Ok.relocked (h : b.Ok) : b.relocked.Ok := by
  unfold Block.relocked
  split
  · exact h
  · exact ite_ok h (Block.Ok.event (h.onCache fun _ k => k))

theorem Block.Ok.flushWays {sel : Nat → Bool} (h : b.Ok) : (b.flushWays sel).Ok := foldl_holds h fun _ _ k => Block.Ok.issueWb k

theorem Block.Ok.cacheDisable (h : b.Ok) : (b.cacheDisable src p).Ok :=
  ite_ok h.answer (Block.Ok.beginOp (Block.Ok.flushWays (h.onCache fun _ k => k)))

theorem Block.Ok.cacheDisabled (h : b.Ok) : b.cacheDisabled.Ok := by
  unfold Block.cacheDisabled
  split
  · exact ite_ok h (Block.Ok.endOps (Block.Ok.events (h.setF.onCache fun _ k => ⟨k.1, rfl⟩)))
  · exact h

theorem Block.Ok.cacheWayMode (h : b.Ok) : (b.cacheWayMode src p).Ok := by
  unfold Block.cacheWayMode
  extract_lets mode k ways b1
  have h1 : b1.Ok := h.onCache fun _ k => k
  exact ite_ok h.replyReport h1.flushWays.beginOp

theorem Block.Ok.convertWay {mode w : Nat} (h : b.Ok) : (Block.convertWay mode b w).Ok := by
  unfold Block.convertWay
  extract_lets old drop b1 b2
  have hd : ∀ k, k.Ok → (drop k).Ok := fun _ k => ⟨k.1, filter_rising k.2⟩
  have h1 : b1.Ok := h.onCache fun k hk => by
    split_ifs
    · exact hd _ (zeroWay_ok hk)
    · exact hk
    · exact hd _ (freezeWay_ok hk)
    · exact hd _ (zeroWay_ok hk)
    · exact hd _ hk
  have h2 : b2.Ok := ite_ok h1.parts h1
  exact h2.setF

theorem Block.Ok.converted (h : b.Ok) : b.converted.Ok := by
  unfold Block.converted
  split
  · refine ite_ok h ?_
    extract_lets ways b1 b2 _ b3
    have h1 : b1.Ok := h.onCache fun _ k => k
    have h2 : b2.Ok := foldl_holds h1 fun _ _ k => Block.Ok.convertWay k
    have h3 : b3.Ok := h2.parts
    exact h3.replyReport
  · exact h

theorem Block.Ok.ageWriteback {key : Nat} {f : SramFault} (h : b.Ok) : (b.ageWriteback key f).Ok := by
  unfold Block.ageWriteback
  split
  · exact h
  · refine ite_ok h (ite_ok h.poisonLine ?_)
    extract_lets b1
    have h1 : b1.Ok := h.tagFault
    split
    · exact h1.issueWb
    · exact h1

theorem Block.Ok.shallowsStall (h : b.Ok) : b.shallowsStall.Ok := by
  unfold Block.shallowsStall
  extract_lets k
  split
  · exact h
  · exact ite_ok h (Block.Ok.event (h.onCache fun _ k => k))

end
end Sys2Proof.Machine

/-! Changes of configuration, reports, training and sparing keep the block sound. -/

namespace Sys2Proof.Machine

section
variable {b : Block} {t : Tab Nat}

/-! ### Effects of a change of configuration -/

theorem Block.Ok.applyPolicer {s : Nat} (h : b.Ok) : (Block.applyPolicer t b s).Ok := ite_ok h h.modSlot

theorem Block.Ok.applyShaper {i : Nat} (h : b.Ok) : (Block.applyShaper t b i).Ok := by
  unfold Block.applyShaper
  extract_lets c k put b1
  have hp : ∀ x n, x.Ok → (put x n).Ok := fun _ _ hx => hx.modChan fun _ k => k
  have h1 : b1.Ok := ite_ok (hp _ _ h) (ite_ok (hp _ _ h) h)
  exact ite_ok h1 (h1.modChan fun _ k => k)

theorem Block.Ok.disablePond {p : Nat} (h : b.Ok) : (Block.disablePond t b p).Ok :=
  Block.Ok.parts h.modPond.discardPond.dropRanges.clearTiles.stopTiles

theorem Block.Ok.applyPond {p : Nat} (h : b.Ok) : (Block.applyPond t b p).Ok :=
  ite_ok h (ite_ok h.disablePond (ite_ok h.clearTiles.restartWalk h))

theorem applyArbiter_ok {a : Block × List Nat} {c : Nat} (h : a.1.Ok) : (Block.applyArbiter t a c).1.Ok := by
  unfold Block.applyArbiter
  extract_lets b b1
  have h1 : b1.Ok := ite_ok (Block.Ok.modChan h fun _ k => k) h
  split
  · exact h1.modChan fun _ k => k
  · exact h1

theorem Block.Ok.seedEvent {cs : List Nat} (h : b.Ok) : (b.seedEvent cs).Ok := ite_ok h h.event

theorem Block.Ok.applyGovernor {c : Nat} (h : b.Ok) : (Block.applyGovernor t b c).Ok := ite_ok (h.modChan fun _ k => k) h.endShort

theorem Block.Ok.applyRfm {c : Nat} (h : b.Ok) : (Block.applyRfm t b c).Ok :=
  ite_ok (h.modChan fun _ k => k.mapQueues rfl rfl fun _ k => mapBanks_rising k) h

theorem Block.Ok.applyChannel {c : Nat} (h : b.Ok) : (Block.applyChannel t b c).Ok := ite_ok (h.modChan fun _ k => k) h

theorem Block.Ok.applyUnretired {c : Nat} (h : b.Ok) : (Block.applyUnretired t b c).Ok :=
  foldl_holds h fun _ _ k => ite_ok (k.modChan fun _ k => k) k

theorem Block.Ok.applyRetired {c : Nat} (h : b.Ok) : (Block.applyRetired t b c).Ok :=
  foldl_holds h fun _ _ k => ite_ok k.retireEvent k

theorem Block.Ok.clearCounter {set i : Nat} (h : b.Ok) : (b.clearCounter set i).Ok := h.setCtr

theorem Block.Ok.applySelect {id set inst : Nat} (h : b.Ok) : (Block.applySelect id set t b inst).Ok :=
  foldl_holds h fun _ _ k => ite_ok k.clearCounter k

theorem Block.Ok.applySoundings {n : Nat} (h : b.Ok) : (Block.applySoundings t b n).Ok := ite_ok h.parts h

theorem Block.Ok.applyAge {n : Nat} (h : b.Ok) : (Block.applyAge t b n).Ok :=
  ite_ok (h.onCache fun _ k => ⟨k.1, map_rising (fun _ => by split <;> rfl) k.2⟩) h

theorem Block.Ok.applyReady {p : Nat} (h : b.Ok) : (b.applyReady p).Ok := h.modDredge.setCfg (cfgReset_rising h.cfg)

/-- An effect over the instances of a record. -/
theorem Block.Ok.overInsts {l : List Nat} {g : Block → Nat → Block} (h : b.Ok) (hg : ∀ x n, x.Ok → (g x n).Ok) :
    (l.foldl g b).Ok := foldl_holds h hg

theorem Block.Ok.applyQuiet {recs : List (Nat × Nat)} (h : b.Ok) : (b.applyQuiet t recs).Ok := by
  unfold Block.applyQuiet
  extract_lets overAll b1 b2 b3 b4 b5 b6 b7 b8 b9 b10 b11
  have h1 : b1.Ok := h.overInsts fun _ _ k => k.applyPolicer
  have h2 : b2.Ok := h1.overInsts fun _ _ k => k.applyShaper
  have h3 : b3.Ok := h2.overInsts fun _ _ k => k.applyPond
  have h4 : b4.Ok := h3.overInsts fun _ _ k => k.applyGovernor
  have h5 : b5.Ok := h4.overInsts fun _ _ k => k.applyRfm
  have h6 : b6.Ok := h5.overInsts fun _ _ k => k.applyChannel
  have h7 : b7.Ok := h6.overInsts fun _ _ k => k.applyUnretired
  have h8 : b8.Ok := h7.overInsts fun _ _ k => k.applySelect
  have h9 : b9.Ok := h8.overInsts fun _ _ k => k.applySelect
  have h10 : b10.Ok := h9.overInsts fun _ _ k => k.applySoundings
  have h11 : b11.Ok := h10.overInsts fun _ _ k => k.applyAge
  exact h11.overInsts fun _ _ k => k.applyReady

theorem Block.Ok.loseNew {p : Nat} (h : b.Ok) : (Block.loseNew t b p).Ok := ite_ok h.losePond h

theorem Block.Ok.applyLoud {recs : List (Nat × Nat)} {arm : Bool} (h : b.Ok) : (b.applyLoud t recs arm).Ok := by
  unfold Block.applyLoud
  extract_lets overAll b1 b2 a b3 b4 b5
  have h1 : b1.Ok := h.overInsts fun _ _ k => k.tellFrozen
  have h2 : b2.Ok := ite_ok h1.armList h1
  have ha : a.1.Ok := foldl_holds (P := fun a : Block × List Nat => a.1.Ok) h2 fun _ _ k => applyArbiter_ok k
  have h3 : b3.Ok := ha.seedEvent.realignChans
  have h4 : b4.Ok := Block.Ok.endDrains (h3.overInsts fun _ _ k => k.loseNew)
  have h5 : b5.Ok := h4.overInsts fun _ _ k => k.applyRetired
  refine h5.overInsts fun x _ k => foldl_holds ?_ fun _ _ k => Block.Ok.thermal k
  split
  · exact k.dieTemp
  · exact k

theorem Block.Ok.applyConfig {k : Chk} {arm : Bool} {evs : List Ev} (h : b.Ok) (hk : k.Ok) : (b.applyConfig k arm evs).Ok :=
  (h.setCfg hk).applyQuiet.events.applyLoud

end

section
variable {b : Block} {src : Src} {p : Packet}

/-! ### Packets that write, read, stage and commit -/

theorem Block.Ok.orRefuse {d : Option Nat} {go : Block → Block} (h : b.Ok) (hg : ∀ x, x.Ok → (go x).Ok) :
    (b.orRefuse src p d go).Ok := by
  unfold Block.orRefuse
  split
  · exact h.echo
  · exact hg _ h

theorem Block.Ok.unsaved (h : b.Ok) : b.unsaved.Ok := h.parts

theorem Block.Ok.configWrite (h : b.Ok) : (b.configWrite src p).Ok := by
  unfold Block.configWrite
  extract_lets id inst count size
  refine h.orRefuse fun x k => ite_ok k.echo ?_
  extract_lets chk body
  have hc : chk.Ok := checkPacket_ok k
  exact (k.unsaved.applyConfig hc).reply

theorem Block.Ok.configRead (h : b.Ok) : (b.configRead src p).Ok := h.orRefuse fun _ k => k.reply

theorem Block.Ok.dropTxn {id : Nat} (h : b.Ok) : (b.dropTxn src id).Ok := h.parts

theorem Block.Ok.configStage (h : b.Ok) : (b.configStage src p).Ok := by
  unfold Block.configStage
  extract_lets txn id inst off size
  refine h.orRefuse fun x k => ?_
  extract_lets y old n y' b1 _
  have h1 : b1.Ok := k.dropTxn
  exact ite_ok k.reply (Block.Ok.echo h1.parts)

theorem Block.Ok.configCommit (h : b.Ok) : (b.configCommit src p).Ok := by
  unfold Block.configCommit
  extract_lets txn
  split
  · exact h.answer
  · extract_lets objs k evs
    exact ite_ok h.events.replyHold (Block.Ok.replyHold (h.dropTxn.unsaved.applyConfig (checkPacket_ok h)))

theorem Block.Ok.configAbort (h : b.Ok) : (b.configAbort src p).Ok := h.dropTxn.echo

theorem Block.Ok.expire {txn : Nat} (h : b.Ok) : (b.expire src txn).Ok := by
  unfold Block.expire
  split
  · exact h
  · exact ite_ok h h.dropTxn.event

/-! ### The log, the counters and the soundings -/

theorem Block.Ok.eventsRead {f : SramFault} (h : b.Ok) : (Block.eventsRead f b src p).Ok := by
  unfold Block.eventsRead
  extract_lets first limit send
  have hs : ∀ x fault, x.Ok → (send x fault).Ok := by
    intro x fault hx
    unfold send
    dsimp only
    split
    · exact hx.parity.reply
    · exact hx.reply
  clear_value send
  split
  · extract_lets bad
    clear_value bad
    split
    · exact hs _ _ h.setLog
    · exact hs _ _ h
  · exact h.eventsClear.parity.reply
  · exact hs _ _ h

theorem Block.Ok.eventsSubscribe (h : b.Ok) : (b.eventsSubscribe src p).Ok := by
  unfold Block.eventsSubscribe
  extract_lets id inst owner set rep cfg
  have hc : risingKeys cfg = true :=
    foldl_holds (P := fun t => risingKeys t = true) (cfgReset_rising h.cfg) fun _ _ k => cfgSet_rising k
  exact Block.Ok.replyReport (h.setCfg hc)

theorem Block.Ok.soundingsRead {f : SramFault} (h : b.Ok) : (Block.soundingsRead f b src p).Ok := by
  unfold Block.soundingsRead
  extract_lets first n bad body b1
  have h1 : b1.Ok := ite_ok h.parity h
  exact h1.reply

theorem Block.Ok.soundingsControl (h : b.Ok) : (b.soundingsControl src p).Ok := by
  unfold Block.soundingsControl
  extract_lets k body b1
  have hk : k.Ok := checkPacket_ok h
  clear_value k
  have h1 : b1.Ok := (h.applyConfig hk).reply
  exact ite_ok h1.parts h1

theorem Block.Ok.queueSound (h : b.Ok) : b.queueSound.Ok := ite_ok h (foldl_holds h fun _ _ k => Block.Ok.holdSnd k)

theorem Block.Ok.windowEnds (h : b.Ok) : b.windowEnds.Ok := ite_ok h h.closeWindow.setLog

/-! ### Training and verify -/

theorem Block.Ok.takeOffline {cs : List Nat} (h : b.Ok) : (b.takeOffline cs).Ok :=
  foldl_holds (P := Block.Ok) h fun _ _ k => k.fence fun _ hx => hx

theorem Block.Ok.train (h : b.Ok) : (b.train src p).Ok := by
  unfold Block.train
  extract_lets cs off up ext b1 _ b2 b3
  have h1 : b1.Ok := ite_ok h.takeOffline h
  have h2 : b2.Ok := h1.parts
  have h3 : b3.Ok := foldl_holds (P := Block.Ok) h2 fun _ _ k => k.modChan fun _ k => k.stop
  exact ite_ok h2.answer (ite_ok h2.answer h3.beginOp)

theorem Block.Ok.trainOne {ext : Nat} {found : List SlotInfo} {spd : List SpdInfo} {res : TrainRes} {c : Nat} (h : b.Ok) :
    (b.trainOne ext found spd res c).1.Ok := by
  unfold Block.trainOne
  extract_lets fail k b1 r
  have hf : ∀ x evs, x.Ok → (fail x evs).1.Ok := fun _ _ hx => hx.modChan fun _ k => k
  have hk : k.1.Ok := h.fullRead.saveIds.spdCheck
  have h1 : b1.Ok := hk.trainChan
  split
  · exact h
  · split
    · exact hf _ _ hk
    · split
      · exact hf _ _ h1
      · exact h1.becomeReady

theorem Block.Ok.trained {found : List SlotInfo} {spd : List (Fin 8 × SpdInfo)} {res : List (Fin 8 × TrainRes)} {us : Nat} (h : b.Ok) :
    (b.trained found spd res us).Ok := by
  unfold Block.trained
  split
  · exact h
  · extract_lets cs a passed failed _ _ b1
    have ha : a.1.Ok := foldl_holds (P := fun a : Block × List Ev × Nat => a.1.Ok) h fun _ _ k => k.trainOne
    have h1 : b1.Ok := Block.Ok.events ha.parts
    exact ite_ok h h1.endOps

theorem Block.Ok.verify (h : b.Ok) : (b.verify src p).Ok := ite_ok h.answer h.beginOp

theorem Block.Ok.verified {res : List (Fin 8 × Option VerifyFail)} (h : b.Ok) : (b.verified res).Ok := by
  unfold Block.verified
  split
  · exact h
  · exact ite_ok h h.events.endOps

/-! ### Sparing and repair -/

theorem Block.Ok.spareAdd (h : b.Ok) : (b.spareAdd src p).Ok := by
  unfold Block.spareAdd
  extract_lets x ch have_
  split
  · exact h.answer
  · extract_lets b1
    have h1 : b1.Ok := ite_ok h.event h
    exact h1.answer
  · exact Block.Ok.beginOp (h.modChan fun _ k => k)

theorem Block.Ok.appendSpare {r : SpareRec} (h : b.Ok) : (b.appendSpare r).Ok := by
  refine ite_ok h { h with ret := fun i hi => ?_ }
  obtain ⟨j, hj, rfl⟩ := Option.map_eq_some_iff.1 hi
  exact h.ret j hj

theorem Block.Ok.spareAdded {c : Nat} (h : b.Ok) : (b.spareAdded c).Ok := by
  unfold Block.spareAdded
  extract_lets ch
  split
  · refine ite_ok h ?_
    split
    · exact h
    · exact Block.Ok.endOps (Block.Ok.event (Block.Ok.appendSpare (h.modChan fun _ k => k)))
  · exact h

theorem Block.Ok.spareList (h : b.Ok) : (b.spareList src p).Ok := h.reply

theorem Block.Ok.pprRun (h : b.Ok) : (b.pprRun src p).Ok := by
  unfold Block.pprRun
  extract_lets x no b1
  have hn : ∀ d, (no d).Ok := fun _ => h.answer
  have h1 : b1.Ok := ite_ok h.takeOffline h
  exact ite_ok (hn _) (ite_ok (hn _) (ite_ok (hn _) (Block.Ok.beginOp (h1.modChan fun _ k => k.stop))))

theorem pprRow_ok {a : Block × List Ev} {e : Coord × PprRow} (h : a.1.Ok) : (Block.pprRow a e).1.Ok := by
  unfold Block.pprRow
  extract_lets b x ev
  split
  · exact Block.Ok.parts (Block.Ok.appendSpare (Block.Ok.modChan h fun _ k => k))
  · exact h
  · exact h

theorem Block.Ok.pprDone {c : Nat} {rows : List PprRow} {verify : Option VerifyFail} (h : b.Ok) : (b.pprDone c rows verify).Ok := by
  unfold Block.pprDone
  split
  · exact h
  · extract_lets xs a good r
    have ha : a.1.Ok := foldl_holds (P := fun a : Block × List Ev => a.1.Ok) h fun _ _ k => pprRow_ok k
    have hr : r.1.Ok := by
      unfold r
      split
      · split
        · exact ha
        · exact ha.becomeReady
      · exact ha.modChan fun _ k => k
    exact ite_ok h hr.events.endOps

end
end Sys2Proof.Machine

/-! The image, the management port and the resets keep the block sound. -/

namespace Sys2Proof.Machine

/-! ### The configuration of an image -/

theorem lettered_rising {n : Nat} {t : Tab Nat} (h : risingKeys t = true) : risingKeys (lettered n t) = true := filter_rising h

theorem reducedCfg_rising {t : Tab Nat} {l : Lc} (h : risingKeys t = true) : risingKeys (reducedCfg t l) = true := by
  unfold reducedCfg
  split
  · rfl
  · exact filter_rising h

theorem withUnsaved_rising {t keep : Tab Nat} (h : risingKeys t = true) : risingKeys (withUnsaved t keep) = true :=
  foldl_holds (P := fun t => risingKeys t = true) h fun _ _ k => aput_rising k

/-- The configuration that bytes hold is built record by record. -/
theorem imageOf_ok (bs : List Byte) : (imageOf bs).Ok := by
  unfold imageOf
  extract_lets sec put t1 t2 t3
  have hp : ∀ t id inst x, risingKeys t = true → risingKeys (put t id inst x) = true := fun _ _ _ _ => stageRecord_rising
  have h1 : risingKeys t1 = true := foldl_holds (P := fun t => risingKeys t = true) rfl fun t _ => hp t _ _ _
  have h2 : risingKeys t2 = true := foldl_holds (P := fun t => risingKeys t = true) h1 fun t _ => hp t _ _ _
  clear_value put t2
  have h3 : risingKeys t3 = true := hp _ _ _ _ (hp _ _ _ _ h2)
  exact h3

theorem mirrorImage_ok {r : PortRead} {i : Image} (h : mirrorImage r = .inr i) : i.Ok := by
  unfold mirrorImage at h
  split at h
  · cases h
  · split at h
    · cases h
    · cases h
      exact imageOf_ok _

section
variable {b : Block} {src : Src} {p : Packet}

theorem Block.Ok.setRet {i : Image} (h : b.Ok) (hi : i.Ok) : ({ b with ret := some i } : Block).Ok :=
  { h with ret := fun _ hj => Option.some.inj hj ▸ hi }

theorem Block.Ok.sramImage {i : Image} (h : b.Ok) (hs : b.sramImage = .inr i) : i.Ok := by
  unfold Block.sramImage at hs
  split at hs
  · rename_i hr
    cases hs
    exact h.ret _ hr
  · cases hs

theorem Block.Ok.capture (h : b.Ok) : b.capture.Ok := lettered_rising h.cfg

theorem Block.Ok.imageSave (h : b.Ok) : (b.imageSave src p).Ok := Block.Ok.beginOp (h.setRet h.capture)

theorem Block.Ok.imageSaved {ok : Bool} {written : Nat} (h : b.Ok) : (b.imageSaved ok written).Ok := by
  unfold Block.imageSaved
  split
  · exact h
  · extract_lets fin b1
    have hf : ∀ x st d p0, x.Ok → (fin x st d p0).Ok := fun _ _ _ _ hx => hx.endOps
    have h1 : b1.Ok := h.events
    clear_value fin
    exact ite_ok (hf _ _ _ _ h) (ite_ok (hf _ _ _ _ h1.parts) (hf _ _ _ _ h1))

theorem Block.Ok.restoreFrom {objs : List Nat} {source : Nat} {x : (Nat × Nat) ⊕ Image} (h : b.Ok)
    (hx : ∀ i, x = .inr i → i.Ok) : (b.restoreFrom src p objs source x).Ok := by
  unfold Block.restoreFrom
  split
  · exact h.events.replyHold
  · extract_lets k body b1 b2
    have hk : k.Ok := checkImage_ok (hx _ rfl)
    have h2 : b2.Ok := Block.Ok.parts (b := b1) h.unsaved
    have hw : Chk.Ok { k with new := withUnsaved k.new b2.cfg } := withUnsaved_rising hk
    exact (h2.applyConfig hw).replyHold

theorem Block.Ok.imageRestore (h : b.Ok) : (b.imageRestore src p).Ok := ite_ok h.beginOp (h.restoreFrom fun _ => h.sramImage)

theorem Block.Ok.imageRestored {port : PortRead} (h : b.Ok) : (b.imageRestored port).Ok := by
  unfold Block.imageRestored
  split
  · exact h
  · exact Block.Ok.restoreFrom h.parts fun _ => mirrorImage_ok

/-! ### The image in RESTORE -/

theorem Block.Ok.startSampling (h : b.Ok) : b.startSampling.Ok := ite_ok h.parts h

theorem Block.Ok.debugSeeds (h : b.Ok) : b.debugSeeds.Ok := by
  unfold Block.debugSeeds
  extract_lets cs b1
  have h1 : b1.Ok := foldl_holds (P := Block.Ok) h fun _ _ k => k.modChan fun _ k => k
  exact h1.seedEvent.startSampling

theorem Block.Ok.imageTaken {rep : List RepEnt} (h : b.Ok) : (b.imageTaken rep).Ok := by
  unfold Block.imageTaken
  extract_lets _ b1 b2
  have h1 : b1.Ok := Block.Ok.modRestore h.parts
  have h2 : b2.Ok := h1.events
  exact Block.Ok.tryBringUp (ite_ok h2.debugSeeds h2)

theorem Block.Ok.applyImage {i : Image} {fromPort : Bool} (h : b.Ok) (hi : i.Ok) : (b.applyImage i fromPort).Ok := by
  unfold Block.applyImage
  extract_lets _ b1 k
  have h1 : b1.Ok := (h.setRet hi).parts
  have hk : k.Ok := chkIte_ok (checkImage_ok hi) (checkKept_ok h1)
  exact Block.Ok.imageTaken (h1.setCfg hk)

theorem Block.Ok.imageLoad {port : PortRead} (h : b.Ok) : (b.imageLoad port).Ok := by
  unfold Block.imageLoad
  refine ite_ok h ?_
  extract_lets b1
  have h1 : b1.Ok := h.phase
  split
  · rename_i hi
    exact h1.applyImage (h1.sramImage hi)
  · extract_lets b2
    have h2 : b2.Ok := h1.events
    split
    · rename_i hi
      exact h2.applyImage (mirrorImage_ok hi)
    · exact h2.events.imageTaken

/-! ### The management port -/

/-- What replaces the registers of the port, with a transmit FIFO no longer than before. -/
theorem Block.Ok.setMgmt {m : Mgmt} (h : b.Ok) (hm : m.tx.length ≤ 128) : ({ b with mgmt := m } : Block).Ok := { h with tx := hm }

theorem Block.Ok.mgmtAccess {g : Block → Block} (h : b.Ok) (hg : ∀ x, x.Ok → (g x).Ok) : (b.mgmtAccess g).Ok :=
  ite_ok h.parts (hg _ h.parts)

theorem Block.Ok.txWord {w : BitVec 32} (h : b.Ok) : (b.txWord w).Ok := by
  refine h.setMgmt ?_
  split
  · rw [List.length_append]
    simpa using ‹_›
  · exact h.tx

theorem Block.Ok.txAbort (h : b.Ok) : b.txAbort.Ok := h.setMgmt (Nat.zero_le _)

theorem Block.Ok.submit (h : b.Ok) : b.submit.Ok := ite_ok h (Block.Ok.arrive h.txAbort)

theorem Block.Ok.txCtrl {d : BitVec 32} (h : b.Ok) : (b.txCtrl d).Ok := by
  unfold Block.txCtrl
  extract_lets _ b1
  have h1 : b1.Ok := ite_ok h.parts h
  exact ite_ok h1.txAbort (ite_ok h1.submit h1)

theorem Mgmt.pop_tx (m : Mgmt) : m.pop.tx = m.tx := by
  unfold Mgmt.pop
  split <;> rfl

theorem Block.Ok.popRx (h : b.Ok) : ({ b with mgmt := b.mgmt.pop } : Block).Ok := h.setMgmt (by rw [Mgmt.pop_tx]; exact h.tx)

theorem Block.Ok.intClear {w : BitVec 4} (h : b.Ok) : (b.intClear w).Ok := h.parts

theorem Block.Ok.intMask {w : BitVec 4} (h : b.Ok) : (b.intMask w).Ok := h.parts

theorem Block.Ok.intRaise {w : BitVec 4} (h : b.Ok) : (b.intRaise w).Ok := h.parts

theorem Block.Ok.mgmtWrite {off : Nat} {d : BitVec 32} (h : b.Ok) : (b.mgmtWrite off d).Ok := by
  unfold Block.mgmtWrite
  extract_lets low
  split
  · exact h.intClear
  · exact h.intMask
  · exact h.intRaise
  · exact h.txWord
  · exact h.txCtrl
  · exact ite_ok h.parts h
  · exact h

/-! ### The debug port -/

theorem Block.Ok.dbgDone {st : Nat} (h : b.Ok) : (b.dbgDone st).Ok := h.parts

theorem Block.Ok.debugDenied {path opcode addr : Nat} (h : b.Ok) : (b.debugDenied path opcode addr).Ok := Block.Ok.event h.parts

/-- A debug access becomes the request of the next number. -/
theorem Block.Ok.dbgReq {op : Op} {addr : Nat} {data : BitVec 64} {be : BitVec 8} (h : b.Ok) : (b.dbgReq op addr data be).Ok := by
  unfold Block.dbgReq
  extract_lets k cls r _
  exact Block.Ok.stage2 (h.setReqs (h.reqs.append (r := r) rfl)).parts

theorem Block.Ok.dbgAccess {op : Op} {addr : Nat} {data : BitVec 64} {be : BitVec 8} (h : b.Ok) : (b.dbgAccess op addr data be).Ok :=
  ite_ok h (ite_ok h.debugDenied.dbgDone (ite_ok h.dbgDone h.dbgReq))

theorem Block.Ok.inFactory {g : Block → Block} (h : b.Ok) (hg : ∀ x, x.Ok → (g x).Ok) : (b.inFactory src p g).Ok :=
  ite_ok (hg _ h) h.debugDenied.echo

/-! ### Resets -/

theorem Chan.Ok.afterReset {ch : Chan} {keep : Bool} : (ch.afterReset keep).Ok := by
  unfold Chan.afterReset
  split
  · exact ⟨rfl, by simp [Queue.Ok, risingKeys], rfl, rfl, rfl⟩
  · exact Chan.Ok.init

theorem Block.Ok.afterReset {k : ResetKind} (h : b.Ok) : (b.afterReset k).Ok where
  fourInlets := rfl
  inlets := by
    intro n hn
    rw [List.eq_of_mem_replicate hn]
    simp [Inlet.Ok]
  eightChans := by
    have := h.eightChans
    simpa [Block.afterReset] using this
  chans := List.forall_mem_map.2 fun _ _ => Chan.Ok.afterReset
  keys := h.keys
  scratch := rfl
  lines := rfl
  reqs := ⟨List.nodup_nil, by simp [Block.afterReset]⟩
  cfg := lettered_rising h.cfg
  ret := h.ret
  tx := Nat.zero_le _
  queue := Nat.zero_le _

theorem Block.Ok.newLimits (h : b.Ok) : b.newLimits.Ok := h.setLog

theorem Block.Ok.enterRestore (h : b.Ok) : b.enterRestore.Ok := h.changeMode.event

theorem Block.Ok.resetBy {k : ResetKind} (h : b.Ok) : (b.resetBy k).Ok := h.closeWindow.afterReset.newLimits.enterRestore

theorem Block.Ok.toOff (h : b.Ok) : b.toOff.Ok where
  fourInlets := rfl
  inlets := by simp [Block.toOff, Inlet.Ok]
  eightChans := rfl
  chans := by
    intro ch hch
    have : ch = {} := by simpa [Block.toOff] using hch
    rw [this]
    exact Chan.Ok.init
  keys := h.keys
  scratch := rfl
  lines := rfl
  reqs := ⟨List.nodup_nil, by simp [Block.toOff]⟩
  cfg := rfl
  ret := h.ret
  tx := Nat.zero_le _
  queue := Nat.zero_le _

theorem Block.Ok.powerOnReset {n : Nat} (h : b.Ok) : (b.powerOnReset n).Ok := by
  refine ite_ok h.toOff (ite_ok ?_ h.parts)
  exact Block.Ok.toOff h.parts

theorem Block.Ok.release {r l : BitVec 2} (h : b.Ok) : (b.release r l).Ok := by
  refine ite_ok h (Block.Ok.enterRestore (Block.Ok.newLimits ?_))
  exact h.parts

theorem Block.Ok.warm (h : b.Ok) : b.warm.Ok := ite_ok h.parts h.resetBy

theorem Block.Ok.warmReset {n : Nat} (h : b.Ok) : (b.warmReset n).Ok := by
  refine ite_ok h (ite_ok h.warm (ite_ok ?_ h.parts))
  exact Block.Ok.warm h.parts

theorem Block.Ok.tailEmitted {n : Nat} (h : b.Ok) : (b.tailEmitted n).Ok := by
  unfold Block.tailEmitted
  split
  · exact h
  · extract_lets b1
    have h1 : b1.Ok := Block.Ok.event h.parts
    exact ite_ok h1.resetBy h1

/-! ### RESTORE -/

theorem Block.Ok.pllLock (h : b.Ok) : b.pllLock.Ok := ite_ok (Block.Ok.phase (Block.Ok.lowerCmd h.parts)) h

/-- A seed gives the sixteen keys; the channels keep all but their LFSRs. -/
theorem Block.Ok.takeSeed {seed : BitVec 128} (h : b.Ok) : (b.takeSeed seed).Ok := by
  unfold Block.takeSeed
  extract_lets _ b1 b2
  have hc : ∀ ch ∈ b1.chans, ch.Ok := by
    intro ch hch
    obtain ⟨⟨x, k⟩, hx, rfl⟩ := List.mem_map.1 hch
    exact (h.chans x (List.fst_mem_of_mem_zipIdx hx)).parts
  have hl : b1.chans.length = 8 := by
    have := h.eightChans
    simpa [b1] using this
  have h1 : b1.Ok := { h with eightChans := hl, chans := hc, keys := by simp [b1] }
  have h2 : b2.Ok := h1.modRestore.phase
  exact Block.Ok.tryBringUp (ite_ok h2.debugSeeds h2)

theorem Block.Ok.seedLate (h : b.Ok) : b.seedLate.Ok := by
  refine ite_ok (Block.Ok.takeSeed (Block.Ok.event ?_)) h
  exact h.parts

theorem Block.Ok.closeRestore {m : Mode} (h : b.Ok) : (b.closeRestore m).Ok := h.parts

theorem Block.Ok.endRestore (h : b.Ok) : b.endRestore.Ok := by
  unfold Block.endRestore
  refine ite_ok h ?_
  extract_lets us bad m b1 b2
  have h1 : b1.Ok := h.closeRestore.serveFrom
  have h2 : b2.Ok := foldl_holds h1 fun _ _ k => Block.Ok.losePonds k
  exact ite_ok h.closeRestore.changeMode (foldl_holds h2 fun _ _ k => Block.Ok.saveIds k)

/-! ### The life cycle -/

theorem Block.Ok.startWipe {l : Lc} (h : b.Ok) : (b.startWipe l).Ok := by
  unfold Block.startWipe
  extract_lets x _ y
  have hx : x.Ok := h.afterReset
  have hy : y.Ok := hx.parts
  exact Block.Ok.phase (Block.Ok.newLimits hy.parts)

theorem Block.Ok.strobe {seen : Lc} (h : b.Ok) : (b.strobe seen).Ok := by
  unfold Block.strobe
  refine ite_ok h ?_
  extract_lets b1
  have h1 : b1.Ok := h.wakeClocks
  exact ite_ok h1.event h1.startWipe

theorem Block.Ok.wipeFailed {c : Nat} (h : b.Ok) : (b.wipeFailed c).Ok := Block.Ok.event h.parts

theorem Block.Ok.wipeEnds {failed : BitVec 8} (h : b.Ok) : (b.wipeEnds failed).Ok := by
  unfold Block.wipeEnds
  split
  · exact h
  · refine ite_ok h ?_
    extract_lets cs good blocks b1 b2
    have hi : b.reducedImage.Ok := reducedCfg_rising h.cfg
    have h1 : b1.Ok := Block.Ok.modRestore ((h.setRet hi).setCfg (reducedCfg_rising h.cfg)).parts
    have h2 : b2.Ok := h1.event
    exact foldl_holds h2 fun _ _ k => Block.Ok.wipeFailed k

end
end Sys2Proof.Machine

/-! Drain and DORMANT keep the block sound. -/

namespace Sys2Proof.Machine

theorem sleep_ok {k : Cache} {keep : Nat} (h : k.Ok) : (k.sleep keep).Ok :=
  ⟨(foldl_holds (P := Cache.Ok) h fun _ _ k => by
    split
    · exact k
    · exact zeroWay_ok k).1, rfl⟩

theorem Chan.Ok.sleep {ch : Chan} (h : ch.Ok) : ch.sleep.Ok := by
  unfold Chan.sleep
  split
  · exact h.stop
  · exact h

section
variable {b : Block} {src : Src} {p : Packet}

/-! ### The power-fail warning and drain -/

theorem Block.Ok.shedReq {r : Req} (h : b.Ok) : (b.shedReq r).Ok := by
  unfold Block.shedReq
  extract_lets shed
  have hs : ∀ x, x.Ok → (shed x).Ok := fun _ hx => hx.finish
  clear_value shed
  split
  · exact h
  · exact h
  · split
    · exact hs _ h.withdraw
    · exact h
  · split
    · split
      · exact hs _ (h.onCache fun _ k => k)
      · exact h
    · exact h
  · exact hs _ h.unwait

theorem Block.Ok.shedEngines (h : b.Ok) : b.shedEngines.Ok := by
  unfold Block.shedEngines
  extract_lets fit gone lost mend copies _ b1
  have h1 : ({ b with chans := b1.chans } : Block).Ok := h.mapChans fun _ k => pump_ok k
  have h2 : b1.Ok := { h1 with lines := map_rising (g := fun e => (e.1, mend e.2)) (fun _ => rfl) h.lines }
  exact h2.recountJobs

theorem Block.Ok.shedSweep (h : b.Ok) : b.shedSweep.Ok :=
  Block.Ok.shedEngines (foldl_holds h.drainTiles fun _ _ k => Block.Ok.shedReq k)

theorem Block.Ok.stopWork {o : LongOp} (h : b.Ok) : (b.stopWork o).Ok := by
  unfold Block.stopWork
  split
  · exact h.parts
  · exact h.parts
  · exact h.onCache fun _ k => k
  · exact h.onCache fun _ k => k
  · exact h

theorem Block.Ok.stopOps (h : b.Ok) : b.stopOps.Ok := by
  unfold Block.stopOps
  extract_lets b1
  have h1 : b1.Ok := h.parts
  refine foldl_holds (P := Block.Ok) h1 fun x o hx => ?_
  split
  · exact hx
  · exact hx.stopWork.endOps

theorem Block.Ok.enterDrain (h : b.Ok) : b.enterDrain.Ok := by
  unfold Block.enterDrain
  extract_lets b1
  have h1 : b1.Ok := Block.Ok.event h.parts
  exact h1.abandon.shedSweep.stopOps.drainHold

theorem Block.Ok.warnDormant (h : b.Ok) : b.warnDormant.Ok := by
  unfold Block.warnDormant
  extract_lets b1
  have h1 : b1.Ok := h.wakeClocks
  split
  · exact Block.Ok.endOps h1.parts
  · exact h1

theorem Block.Ok.pfailWarn (h : b.Ok) : b.pfailWarn.Ok := by
  unfold Block.pfailWarn
  extract_lets first _ b1 asleep b2
  have h1 : b1.Ok := h.parts
  have h2 : b2.Ok := ite_ok h1 (ite_ok h1.warnDormant (ite_ok h1.enterDrain h1.stopOps))
  exact ite_ok h.parts h2.beginTail

theorem Block.Ok.pfailCleared {us : Nat} (h : b.Ok) : (b.pfailCleared us).Ok := by
  unfold Block.pfailCleared
  extract_lets high _ b1
  have h1 : b1.Ok := h.parts
  exact ite_ok h1 h1.event

/-! ### MODE_SET and DORMANT entry -/

theorem Block.Ok.leave {op : Bool} (h : b.Ok) : (b.leave op).Ok := h.parts

theorem Block.Ok.modeWake (h : b.Ok) : (b.modeWake src p).Ok := by
  unfold Block.modeWake
  extract_lets b1
  have h1 : b1.Ok := h.beginOp
  refine ite_ok (Block.Ok.answer h.parts) ?_
  split
  · exact h1
  · exact h1.leave

theorem Block.Ok.beginEntry (h : b.Ok) : (b.beginEntry src).Ok := Block.Ok.parts h.raiseReq.raiseCmd

theorem Block.Ok.modeSet (h : b.Ok) : (b.modeSet src p).Ok := by
  unfold Block.modeSet
  extract_lets to_ ok
  have ho : ∀ x, x.Ok → (ok x).Ok := fun _ hx => hx.answer
  clear_value ok
  refine ite_ok (ho _ h) ?_
  split
  · exact h.answer
  · split
    · exact ho _ h.serveFrom
    · exact ho _ h.changeMode
    · exact h.modeWake
    · exact ho _ h.changeMode
    · exact h.beginEntry.beginOp

theorem Block.Ok.lastRefresh {c : Nat} (h : b.Ok) : (b.lastRefresh c).Ok :=
  ite_ok h (foldl_holds h.claim fun _ _ k => Block.Ok.raaFall (Block.Ok.countC (Block.Ok.turnCmd k)))

theorem Block.Ok.setAsleep {keep : Nat} {q : Pkts} {d : Dorm} (h : b.Ok) (hq : q.queue = b.pkts.queue) :
    ({ b with cache := b.cache.sleep keep, chans := b.chans.map Chan.sleep, pkts := q, dorm := d } : Block).Ok :=
  { h with
    scratch := (sleep_ok h.cacheOk).1, lines := rfl, queue := hq ▸ h.queue
    eightChans := (h.mapChans fun _ k => k.sleep).eightChans, chans := (h.mapChans fun _ k => k.sleep).chans }

theorem Block.Ok.fallAsleep (h : b.Ok) : (b.fallAsleep src).Ok := by
  unfold Block.fallAsleep
  extract_lets b1 since _ b2
  have h1 : b1.Ok := foldl_holds h fun _ _ k => Block.Ok.lastRefresh k
  clear_value b1 since
  have h2 : b2.Ok := Block.Ok.stopSluice (h1.setAsleep rfl)
  exact h2.endOps

theorem Block.Ok.enterDormant {since : Nat} (h : b.Ok) : (b.enterDormant since).Ok := by
  unfold Block.enterDormant
  extract_lets _ b1
  have h1 : b1.Ok := Block.Ok.changeMode h.parts
  exact ite_ok h1.leave h1

theorem Block.Ok.replyLate (h : b.Ok) : b.replyLate.Ok := by
  unfold Block.replyLate
  split
  · exact Block.Ok.enterDormant h.parts
  · exact h

theorem Block.Ok.replyOut (h : b.Ok) : (b.replyOut src).Ok := by
  unfold Block.replyOut
  extract_lets mine asleep b1
  have h1 : b1.Ok := h.sendReply
  split
  · exact ite_ok h1.enterDormant h1
  · exact h1

/-! ### DORMANT exit -/

theorem Block.Ok.wakeLevel {level : Bool} (h : b.Ok) : (b.wakeLevel level).Ok := by
  unfold Block.wakeLevel
  extract_lets _ b1
  have h1 : b1.Ok := h.parts
  exact ite_ok h1.leave h1

theorem Block.Ok.wakeChans {cs : List Nat} (h : b.Ok) : (b.wakeChans cs).Ok :=
  foldl_holds (P := Block.Ok) h fun _ _ k =>
    k.makeReady.modChan fun _ k => k.mapQueues rfl rfl fun _ k => mapBanks_rising k

theorem Block.Ok.exitDone {faulted : BitVec 8} {temps : List (Fin 8 × Fin 6 × BitVec 16)} {drift : List (Fin 8 × DriftRead)}
    (h : b.Ok) : (b.exitDone faulted temps drift).Ok := by
  unfold Block.exitDone
  split
  · extract_lets cs b1 b2 b3 b4 b5
    have h1 : b1.Ok := h.wakeChans
    have h2 : b2.Ok := foldl_holds h1 fun _ _ k => ite_ok k.driftSample k
    have h3 : b3.Ok := foldl_holds h2 fun _ _ k => Block.Ok.pollSensors k
    have h4 : b4.Ok := Block.Ok.startRelock (Block.Ok.serveFrom h3.parts)
    have h5 : b5.Ok := h4.endOps
    exact foldl_holds (P := Block.Ok) h5 fun _ _ k => k.fence fun _ hx => hx
  · exact h

end
end Sys2Proof.Machine

/-! The step on an empty queue, and reset. -/

namespace Sys2Proof.Machine

/-- The tick of log entry 2: 1 cclk under the root PLL, 40 ns without it. -/
theorem advance_one_clk (k : Clk) :
    (k.pll = true → (k.advance 1).cclk = k.cclk + 1 ∧ k.ns ≤ (k.advance 1).ns) ∧
      (k.pll = false → (k.advance 1).cclk = k.cclk ∧ (k.advance 1).ns = k.ns + 40) := by
  refine ⟨fun h => ?_, fun h => ?_⟩ <;> simp [Clk.advance, h]

theorem step_of_pending_nil {s : State} (h : s.pending = []) : step s = .next { s with blk := s.blk.advance 1 } := by
  simp only [step, h]

/-- Settles O2: time that passes changes the clock and the counters alone. -/
theorem emptyQueueTicks : Obligations.EmptyQueueTicks := by
  intro s hs
  obtain ⟨c, hc⟩ := advance_only s.blk 1
  obtain ⟨hon, hoff⟩ := advance_one_clk s.blk.clk
  refine ⟨_, step_of_pending_nil hs, ?_⟩
  rw [hc]
  exact ⟨rfl, rfl, rfl, rfl, rfl, hon, hoff⟩

/-- The block at reset is sound: every list it holds is empty or of its fixed length. -/
theorem reset_ok : State.reset.blk.Ok where
  fourInlets := rfl
  inlets := by simp [State.reset, Inlet.Ok]
  eightChans := rfl
  chans := by
    intro ch hch
    have : ch = {} := by simpa [State.reset] using hch
    rw [this]
    exact Chan.Ok.init
  keys := rfl
  scratch := rfl
  lines := rfl
  reqs := ⟨List.nodup_nil, by simp [State.reset]⟩
  cfg := rfl
  ret := by simp [State.reset]
  tx := Nat.zero_le _
  queue := Nat.zero_le _

/-- Settles O3: each field is read off `State.reset`. -/
theorem resetIsOff : Obligations.ResetIsOff := by
  refine ⟨rfl, rfl, rfl, rfl, rfl, rfl, rfl, rfl, rfl, rfl, rfl, fun i => ?_, fun c => ?_, fun k => rfl, rfl, rfl, rfl, rfl, rfl, rfl,
    rfl, (Block.sound_iff _).2 reset_ok⟩
  · fin_cases i <;> exact ⟨rfl, rfl, rfl, rfl, rfl, rfl, rfl⟩
  · fin_cases c <;> rfl

end Sys2Proof.Machine

/-! Every step keeps the block sound. -/

namespace Sys2Proof.Machine

/-- An outcome whose next state, where there is one, is sound. -/
def outcomeOk (r : Host.Outcome State Fault Refusal) : Prop := ∀ t, r = .next t → t.blk.Ok

section
variable {s : State}

theorem run_keeps {g : Block → Block} (h : s.blk.Ok) (hg : ∀ b, b.Ok → (g b).Ok) : outcomeOk (s.run g) := by
  intro t ht
  cases ht
  exact hg _ h

theorem does_keeps {g : Block → Block} (h : s.blk.Ok) (hg : ∀ b, b.Ok → (g b).Ok) : outcomeOk (s.does g) :=
  run_keeps h fun _ k => (hg _ k).settle

theorem packet_keeps {op : Nat} {src : Src} {p : Packet} {act : Block → Src → Packet → Block} (h : s.blk.Ok)
    (ha : ∀ b src p, b.Ok → (act b src p).Ok) : outcomeOk (s.packet op src p act) :=
  does_keeps h fun _ k => k.packet ha

theorem execDormantEntryComplete_keeps (h : s.blk.Ok) : outcomeOk (execDormantEntryComplete s) := does_keeps h fun b k => by
  split
  · exact ite_ok k.fallAsleep k
  · exact k

/-- Every command keeps the block sound, by the rule of the operation that it runs. -/
theorem exec_keeps {i : Instr} (h : s.blk.Ok) : outcomeOk (exec i s) := by
  unfold exec
  cases i with
  | pwrGoodLow => exact run_keeps h fun _ k => k.toOff
  | resetRelease => exact does_keeps h fun _ k => k.release
  | powerOnReset => exact run_keeps h fun _ k => k.powerOnReset
  | warmReset => exact does_keeps h fun _ k => k.warmReset
  | softResetStart => exact does_keeps h fun _ k => ite_ok k.advance.resetBy k.advance
  | pfailWarn => exact does_keeps h fun _ k => k.pfailWarn
  | pfailCleared => exact does_keeps h fun _ k => k.pfailCleared
  | tailEmitted => exact does_keeps h fun _ k => k.tailEmitted
  | wake => exact does_keeps h fun _ k => k.wakeLevel
  | dormantExitComplete => exact does_keeps h fun _ k => k.exitDone
  | lifecycleStrobe => exact does_keeps h fun _ k => k.strobe
  | lifecycleFillEnd => exact does_keeps h fun _ k => k.advance.wipeEnds
  | lifecycleUnauthorised => exact does_keeps h fun _ k => ite_ok k k.event
  | seedValid => exact does_keeps h fun _ k => ite_ok k.takeSeed k
  | seedFallback => exact does_keeps h fun _ k => k.advance.seedLate
  | timeStep => exact run_keeps h fun _ k => k.timeStep
  | sluiceFreeRun => exact run_keeps h fun _ k => k.loseTime
  | timeValidReturn => exact run_keeps h fun _ k => k.timeReturns
  | sluiceRealigned => exact run_keeps h fun _ k => k.advance.realigned
  | pcapTaken => exact does_keeps h fun _ k => k.pcap
  | dieTempTaken => exact does_keeps h fun _ k => k.dieTemp
  | tempInputLost => exact does_keeps h fun _ k => k.loseDie
  | vddqCheck => exact does_keeps h fun _ k => k.vddqCheck
  | thermalPoll => exact does_keeps h fun _ k => k.thermalPoll
  | alert => exact does_keeps h fun _ k => k.alerted
  | missingBurst => exact does_keeps h fun _ k => ite_ok k k.alerted
  | alertReleased => exact does_keeps h fun _ k => k.released
  | stuckAlertFence => exact does_keeps h fun _ k => k.stuck
  | alertReplayed => exact does_keeps h fun _ k => k.replayed
  | read => exact does_keeps h fun _ k => k.present
  | writeFull => exact does_keeps h fun _ k => k.present
  | writePartial => exact does_keeps h fun _ k => k.present
  | cancel => exact does_keeps h fun _ k => k.present
  | fence => exact does_keeps h fun _ k => k.present
  | fenceComplete => exact does_keeps h fun _ k => k.fenceDone
  | requestFraming => exact does_keeps h fun _ k => k.present
  | inletCreditViolation => exact run_keeps h fun _ k => k.noCredit
  | arbiterGrant => exact does_keeps h fun _ k => k.grant
  | tenureFollowOn => exact does_keeps h fun _ k => k.tenureStep
  | enqueue => exact does_keeps h fun _ k => k.enqueueNext
  | commandSelect => exact does_keeps h fun _ k => k.select
  | governorCycle => exact does_keeps h fun _ k => k.advance.ckCycle
  | energyStall => exact run_keeps h fun _ k => k.energyStall
  | keepOpenTimeout => exact run_keeps h fun _ k => k.keepOpen
  | powerDownEntry => exact run_keeps h fun _ k => k.powerDown
  | readDataDecode => exact does_keeps h fun _ k => k.burst fun _ _ _ k => ite_ok k.copied k.demand
  | lineFillReturn => exact does_keeps h fun _ k => k.burst fun _ _ _ k => k.fillBurst
  | rmwMerge => exact does_keeps h fun _ k => k.burst fun _ _ _ k => k.rmw
  | writeDataSent => exact does_keeps h fun _ k => k.sent
  | responsePresent => exact does_keeps h fun _ k => k.respond
  | responseCreditGrant => exact run_keeps h fun _ k => k.grantRsp
  | replyCreditGrant => exact run_keeps h fun _ k => k.grantRpl
  | commandFlit => exact does_keeps h fun _ k => k.cmdFlit
  | commandFlitNoCredit => exact does_keeps h fun _ k => k.cmdFlit
  | packetFraming => exact does_keeps h fun _ k => ite_ok k (k.packet fun _ _ _ k => k)
  | replySend => exact does_keeps h fun _ k => k.replyOut
  | eventPacketSend => exact does_keeps h fun _ k => k.sendEventPkt
  | pktTxWord => exact does_keeps h fun _ k => k.mgmtAccess fun _ k => k.txWord
  | submit => exact does_keeps h fun _ k => k.mgmtAccess fun _ k => k.submit
  | abort => exact does_keeps h fun _ k => k.mgmtAccess fun _ k => k.txCtrl
  | pktRxRead => exact run_keeps h fun _ k => k.mgmtAccess fun _ k => k.popRx
  | overflowClear => exact run_keeps h fun _ k => k.mgmtAccess fun _ k => k.mgmtWrite
  | underflowClear => exact run_keeps h fun _ k => k.mgmtAccess fun _ k => k.mgmtWrite
  | intStatusClear => exact run_keeps h fun _ k => k.mgmtAccess fun _ k => k.intClear
  | intMaskWrite => exact run_keeps h fun _ k => k.mgmtAccess fun _ k => k.intMask
  | intSet => exact run_keeps h fun _ k => k.mgmtAccess fun _ k => k.intRaise
  | timeLoRead => exact run_keeps h fun _ k => k.mgmtAccess fun _ k => k.parts
  | mgmtRegisterWrite =>
    exact does_keeps h fun _ k => ite_ok (k.mgmtAccess fun _ k => k) (ite_ok k.parts (k.mgmtAccess fun _ k => k.mgmtWrite))
  | debugRead => exact does_keeps h fun _ k => k.dbgAccess
  | debugWrite => exact does_keeps h fun _ k => k.dbgAccess
  | attach => exact packet_keeps h fun _ _ _ k => k.attach
  | detach => exact packet_keeps h fun _ _ _ k => k.detach
  | detachDone => exact does_keeps h fun _ k => k.detached
  | queryCaps => exact packet_keeps h fun _ _ _ k => k.reply
  | ping => exact packet_keeps h fun _ _ _ k => k.reply
  | configWrite => exact packet_keeps h fun _ _ _ k => k.configWrite
  | configRead => exact packet_keeps h fun _ _ _ k => k.configRead
  | configStage => exact packet_keeps h fun _ _ _ k => k.configStage
  | configCommit => exact packet_keeps h fun _ _ _ k => k.configCommit
  | configAbort => exact packet_keeps h fun _ _ _ k => k.configAbort
  | stageExpired => exact does_keeps h fun _ k => k.expire
  | modeSet => exact packet_keeps h fun _ _ _ k => k.modeSet
  | dormantEntryComplete => exact execDormantEntryComplete_keeps h
  | dormantReplyTimeout => exact does_keeps h fun _ k => k.replyLate
  | dormantClockStop => exact does_keeps h fun _ k => ite_ok k.parts k
  | imageSave => exact packet_keeps h fun _ _ _ k => k.imageSave
  | imageSaved => exact does_keeps h fun _ k => k.imageSaved
  | imageRestore => exact packet_keeps h fun _ _ _ k => k.imageRestore
  | train => exact packet_keeps h fun _ _ _ k => k.train
  | trainingDone => exact does_keeps h fun _ k => k.trained
  | verify => exact packet_keeps h fun _ _ _ k => k.verify
  | verifyDone => exact does_keeps h fun _ k => k.verified
  | lifecycle => exact packet_keeps h fun _ _ _ k => Block.Ok.reply k.parts
  | reset => exact packet_keeps h fun _ _ _ k => Block.Ok.echo k.parts
  | pondRebuild => exact packet_keeps h fun _ _ _ k => k.rebuild
  | pondRebuilt => exact does_keeps h fun _ k => k.rebuilt
  | pondProtect => exact packet_keeps h fun _ _ _ k => k.protect
  | pondWipe => exact packet_keeps h fun _ _ _ k => k.wipePond
  | pondWipeDone => exact does_keeps h fun _ k => k.wiped
  | cachePreload => exact packet_keeps h fun _ _ _ k => k.preload
  | cachePreloadDone => exact does_keeps h fun _ k => k.preloaded
  | cacheLock => exact packet_keeps h fun _ _ _ k => k.lockRange
  | cacheLockDone => exact does_keeps h fun _ k => k.rangeDone
  | cacheUnlock => exact packet_keeps h fun _ _ _ k => k.unlockRange
  | cacheUnlockDone => exact does_keeps h fun _ k => k.rangeDone
  | cacheRange => exact packet_keeps h fun _ _ _ k => k.cacheRange
  | cacheRangeDone => exact does_keeps h fun _ k => k.cacheRangeDone
  | cacheEnable => exact packet_keeps h fun _ _ _ k => k.cacheEnable
  | relockDone => exact does_keeps h fun _ k => k.relocked
  | cacheDisable => exact packet_keeps h fun _ _ _ k => k.cacheDisable
  | cacheDisableDone => exact does_keeps h fun _ k => k.cacheDisabled
  | cacheWayMode => exact packet_keeps h fun _ _ _ k => k.cacheWayMode
  | wayConversionDone => exact does_keeps h fun _ k => k.converted
  | fill => exact packet_keeps h fun _ _ _ k => k.fill
  | fillDone => exact does_keeps h fun _ k => k.fillDone
  | eventsRead => exact packet_keeps h fun _ _ _ k => k.eventsRead
  | eventsSubscribe => exact packet_keeps h fun _ _ _ k => k.eventsSubscribe
  | eventsClear => exact packet_keeps h fun _ _ _ k => k.eventsClear.reply
  | countersRead => exact packet_keeps h fun _ _ _ k => k.reply
  | countersClear => exact packet_keeps h fun _ _ _ k => k.echo.clearSet
  | soundingsRead => exact packet_keeps h fun _ _ _ k => k.soundingsRead
  | soundingsControl => exact packet_keeps h fun _ _ _ k => k.soundingsControl
  | spareAdd => exact packet_keeps h fun _ _ _ k => k.spareAdd
  | spareAdded => exact does_keeps h fun _ k => k.spareAdded
  | spareList => exact packet_keeps h fun _ _ _ k => k.spareList
  | pprRun => exact packet_keeps h fun _ _ _ k => k.pprRun
  | pprDone => exact does_keeps h fun _ k => k.pprDone
  | statusRead => exact packet_keeps h fun _ _ _ k => k.reply
  | debugSramRead => exact packet_keeps h fun _ _ _ k => k.inFactory fun _ k => Block.Ok.reply k.parts
  | debugSramWrite => exact packet_keeps h fun _ _ _ k => k.inFactory fun _ k => Block.Ok.echo k.parts
  | imageLoad => exact does_keeps h fun _ k => k.imageLoad
  | imageReadTimeout => exact does_keeps h fun _ k => k.advance.imageLoad
  | discoveryDone => exact does_keeps h fun _ k => k.discovered
  | channelBringUpDone => exact does_keeps h fun _ k => k.bringUpDone
  | restoreEnd => exact does_keeps h fun _ k => k.endRestore
  | sluiceEntryStart => exact run_keeps h fun _ k => k.advance
  | sluiceActivated => exact run_keeps h fun _ k => k.advance.activate
  | leadInEnd => exact run_keeps h fun _ k => k.advance.endLeadIn
  | turnoverClaim => exact does_keeps h fun _ k => ite_ok k.advance.occasion k.advance
  | turnoverStallEnd => exact does_keeps h fun _ k => k.endStall
  | turnoverLate => exact does_keeps h fun _ k => k.advance.turnLate
  | doubledExtraOccasion => exact does_keeps h fun _ k => ite_ok k.advance.occasion k.advance
  | rfmEmergency => exact does_keeps h fun _ k => k.rfmEmergency
  | driftForced => exact does_keeps h fun _ k => k.driftForced
  | dirtyAgeWriteback => exact does_keeps h fun _ k => k.ageWriteback
  | shallowsStall => exact does_keeps h fun _ k => k.shallowsStall
  | admissionSaturated => exact run_keeps h fun _ k => k.saturated
  | dredgeRead => exact does_keeps h fun _ k => k.dredgeRead
  | dredgeDecode => exact does_keeps h fun _ k => k.burst fun _ _ _ k => k.dredged
  | rateWindowBoundary => exact does_keeps h fun _ k => k.advance.windowEnds
  | queueSounding => exact does_keeps h fun _ k => k.advance.queueSound
  | rootPllLock => exact does_keeps h fun _ k => k.pllLock
  | imageRestoreDone => exact does_keeps h fun _ k => k.imageRestored

theorem step_keeps (h : s.blk.Ok) : outcomeOk (step s) := by
  unfold step
  split
  · intro t ht
    cases ht
    exact h.advance
  · exact exec_keeps h

end

/-- Settles O60: `Block.Ok`, which is soundness as a proposition, is kept by each operation of the block, and so by each command. -/
theorem stepKeepsSound : Obligations.StepKeepsSound := by
  intro s t hs ht
  exact (Block.sound_iff _).2 (step_keeps ((Block.sound_iff _).1 hs) t ht)

end Sys2Proof.Machine

/-! Accesses of the management port. -/

namespace Sys2Proof.Machine

/-! ### Registers and FIFOs -/

section
variable {s : State} {b : Block} {g : Block → Block}

/-- The block in an access with every byte enabled: MGMT_ERR is low (R58). -/
def Block.accessed (b : Block) : Block := { b with mgmt := { b.mgmt with err := false } }

theorem mgmtAccess_of_on (h : b.mode ≠ .off) : b.mgmtAccess g = g b.accessed := by
  unfold Block.mgmtAccess
  rw [if_neg (by simpa using h)]
  rfl

theorem run_mgmtAccess (h : s.blk.mode ≠ .off) :
    s.run (fun b => b.mgmtAccess g) = .next { s with blk := g s.blk.accessed } := by
  rw [run_next, mgmtAccess_of_on h]

theorem does_mgmtAccess (h : s.blk.mode ≠ .off) :
    s.does (fun b => b.mgmtAccess g) = .next { s with blk := (g s.blk.accessed).settle } := by
  rw [does_next, mgmtAccess_of_on h]

/-- A block that has moved on from an effect that equals `e` has moved on from `e`. -/
theorem settlesTo_settle_of_eq {x e : Block} (h : x = e) : e.settlesTo x.settle := by
  subst h
  exact settle_settlesTo x

theorem intOut_of_on (h : b.mode ≠ .off) : b.intOut = b.mgmt.intStatus &&& ~~~ b.mgmt.intMask := by
  unfold Block.intOut
  rw [if_neg (by simpa using h)]

theorem Mgmt.pop_cons {m : Mgmt} {w : BitVec 32} {ws : List (BitVec 32)} {t : List (List (BitVec 32))} (h : m.rx = (w :: ws) :: t) :
    m.pop = { m with rdata := w, rx := if ws = [] then t else ws :: t } := by
  simp only [Mgmt.pop, h, List.isEmpty_iff]

theorem Mgmt.pop_nil {m : Mgmt} (h : m.rx = []) : m.pop = { m with rdata := 0, underflow := true } := by
  simp only [Mgmt.pop, h]

end

/-- Settles O4: each access is its effect on the block with MGMT_ERR low. -/
theorem interfaceRegisters : Obligations.InterfaceRegisters := by
  refine ⟨fun w s hon => ⟨run_mgmtAccess hon, run_mgmtAccess hon, run_mgmtAccess hon, ?_⟩, fun s hon => ⟨?_, ?_, run_mgmtAccess hon,
    run_mgmtAccess hon, run_mgmtAccess hon⟩⟩
  · intro b hb
    refine intOut_of_on ?_
    simp only [List.mem_cons, List.not_mem_nil, or_false] at hb
    rcases hb with rfl | rfl | rfl <;> exact hon
  · intro w ws t hrx
    have hpop : s.blk.accessed.mgmt.pop = _ := Mgmt.pop_cons hrx
    exact (run_mgmtAccess hon).trans (by rw [hpop]; rfl)
  · intro hrx
    have hpop : s.blk.accessed.mgmt.pop = _ := Mgmt.pop_nil hrx
    exact (run_mgmtAccess hon).trans (by rw [hpop]; rfl)

/-! ### The transmit FIFO (R59, R118) -/

theorem flatMap_wordBytes_length (l : List (BitVec 32)) : (l.flatMap wordBytes).length = 4 * l.length := by
  induction l with
  | nil => rfl
  | cons w l ih =>
    have hw : (wordBytes w).length = 4 := by simp [wordBytes, leBytes]
    rw [List.flatMap_cons, List.length_append, hw, ih, List.length_cons]
    omega

section
variable {b : Block} {p : Packet} {n : Nat} {bad : Bool}

theorem wakeClocks_pkts (b : Block) : b.wakeClocks.pkts = b.pkts := by
  obtain ⟨k, d, h⟩ := wakeClocks_only b
  rw [h]

theorem wakeClocks_entries (b : Block) (sel : Src → Bool) : b.wakeClocks.entries sel = b.entries sel := by
  simp only [Block.entries, wakeClocks_pkts]

/-- A packet of the management port that finds room takes an entry of the queue. -/
theorem arrive_mgmt_room (h : b.entries (fun _ => true) < 64) :
    b.arrive .mgmt p n bad =
      { b.wakeClocks with pkts := { b.wakeClocks.pkts with queue := b.wakeClocks.pkts.queue ++ [⟨.mgmt, p, n, bad, false⟩] } } := by
  unfold Block.arrive
  extract_lets b0 all
  have hall : all = b.entries (fun _ => true) := wakeClocks_entries b _
  have hfull : decide (64 ≤ all) = false := decide_eq_false (by omega)
  rw [hfull, if_neg (by simp)]
  rfl

/-- A packet of the management port that finds all 64 entries held is answered BUSY. -/
theorem arrive_mgmt_busy (h : 64 ≤ b.entries (fun _ => true)) :
    b.arrive .mgmt p n bad =
      (b.wakeClocks.event 0x22 [(1, 0), (1, p.requester.toNat), (1, p.opcode.toNat), (1, b.entries (fun _ => true))]).pushReply .mgmt
        (mkReply 3 p stBusy 0 1000 []) true [] := by
  unfold Block.arrive
  extract_lets b0 all b1
  have hall : all = b.entries (fun _ => true) := wakeClocks_entries b _
  have hfull : decide (64 ≤ all) = true := decide_eq_true (by omega)
  rw [hfull, if_pos (by simp), ← hall]
  rfl

theorem submit_nil (h : b.mgmt.tx = []) : b.submit = b := by
  unfold Block.submit
  rw [if_pos (by simp [h])]

theorem submit_words (h : b.mgmt.tx ≠ []) :
    b.submit = b.txAbort.arrive .mgmt (packetOf (b.mgmt.tx.flatMap wordBytes)) (4 * b.mgmt.tx.length) false := by
  unfold Block.submit
  rw [if_neg (by simpa using h), ← flatMap_wordBytes_length]
  rfl

end

/-- Settles O5: SUBMIT is the arrival of the words held as one packet of the management port. -/
theorem transmitFifoAndSubmit : Obligations.TransmitFifoAndSubmit := by
  refine ⟨fun s hon => ⟨fun w => ⟨_, does_mgmtAccess hon, settle_settlesTo _⟩, fun both => ?_⟩, fun s hon => ?_⟩
  · cases both <;> exact ⟨_, does_mgmtAccess hon, settle_settlesTo _⟩
  · intro b p all
    refine ⟨_, does_mgmtAccess hon, fun hnil => settlesTo_settle_of_eq (submit_nil hnil), fun hne hroom => ?_, fun hne hfull => ?_⟩
    · exact settlesTo_settle_of_eq ((submit_words (b := s.blk.accessed) hne).trans (arrive_mgmt_room hroom))
    · exact settlesTo_settle_of_eq ((submit_words (b := s.blk.accessed) hne).trans (arrive_mgmt_busy hfull))

/-! ### Writes by offset and byte enables (R57, R58) -/

section
variable {b : Block} {off : Nat} {d : BitVec 32}

/-- A read-only or unlisted offset ignores the write. -/
theorem mgmtWrite_ignored (h : 4 * off ∉ [0x010, 0x014, 0x018, 0x040, 0x044, 0x04C]) : b.mgmtWrite off d = b := by
  unfold Block.mgmtWrite
  split <;> simp_all

theorem mgmtWrite_intStatus (h : 4 * off = 0x010) : b.mgmtWrite off d = b.intClear (d.extractLsb' 0 4) := by
  simp only [Block.mgmtWrite, h]

theorem mgmtWrite_intMask (h : 4 * off = 0x014) : b.mgmtWrite off d = b.intMask (d.extractLsb' 0 4) := by
  simp only [Block.mgmtWrite, h]

theorem mgmtWrite_intSet (h : 4 * off = 0x018) : b.mgmtWrite off d = b.intRaise (d.extractLsb' 0 4) := by
  simp only [Block.mgmtWrite, h]

theorem mgmtWrite_txWord (h : 4 * off = 0x040) : b.mgmtWrite off d = b.txWord d := by
  simp only [Block.mgmtWrite, h]

theorem mgmtWrite_txCtrl (h : 4 * off = 0x044) : b.mgmtWrite off d = b.txCtrl d := by
  simp only [Block.mgmtWrite, h]

/-- The OVERFLOW bit of MW_PKT_TX_CTRL clears the flag; then ABORT prevails over SUBMIT. -/
theorem txCtrl_eq (b : Block) (d : BitVec 32) :
    let e : Block := { b with mgmt := { b.mgmt with overflow := b.mgmt.overflow && !(d.getLsbD 24) } }
    b.txCtrl d = if d.getLsbD 1 then e.txAbort else if d.getLsbD 0 then e.submit else e := by
  unfold Block.txCtrl
  cases d.getLsbD 24 <;> simp

theorem mgmtWrite_rxStatus (h : 4 * off = 0x04C) :
    b.mgmtWrite off d = { b with mgmt := { b.mgmt with underflow := b.mgmt.underflow && !(d.getLsbD 17) } } := by
  simp only [Block.mgmtWrite, h]
  cases d.getLsbD 17 <;> simp

end

theorem mgmtRegisterWrite_partial {s : State} {off : BitVec 10} {d : BitVec 32} {be : BitVec 4} (hon : s.blk.mode ≠ .off) (hbe : be ≠ 15) :
    exec (.mgmtRegisterWrite off d be) s =
      .next { s with blk := ({ s.blk with mgmt := { s.blk.mgmt with err := true } } : Block).settle } := by
  show execMgmtRegisterWrite off d be s = _
  unfold execMgmtRegisterWrite
  rw [does_next, if_neg (by simpa using hon), if_pos (by simpa using hbe)]

theorem mgmtRegisterWrite_whole {s : State} {off : BitVec 10} {d : BitVec 32} (hon : s.blk.mode ≠ .off) :
    exec (.mgmtRegisterWrite off d 15) s = .next { s with blk := (s.blk.accessed.mgmtWrite off.toNat d).settle } := by
  show execMgmtRegisterWrite off d 15 s = _
  unfold execMgmtRegisterWrite
  rw [does_next, if_neg (by simpa using hon), if_neg (by decide), mgmtAccess_of_on hon]

/-- Settles O6: a whole write is `Block.mgmtWrite` on the block with MGMT_ERR low, an equation for each register. -/
theorem registerWrites : Obligations.RegisterWrites := by
  intro off d be s hon m
  by_cases hbe : be = 15
  · subst hbe
    exact ⟨_, mgmtRegisterWrite_whole hon, fun hne => absurd rfl hne,
      fun _ h => settlesTo_settle_of_eq (mgmtWrite_ignored h), fun _ h => settlesTo_settle_of_eq (mgmtWrite_intStatus h),
      fun _ h => settlesTo_settle_of_eq (mgmtWrite_intMask h), fun _ h => settlesTo_settle_of_eq (mgmtWrite_intSet h),
      fun _ h => settlesTo_settle_of_eq (mgmtWrite_txWord h),
      fun _ h => settlesTo_settle_of_eq ((mgmtWrite_txCtrl h).trans (txCtrl_eq _ d)),
      fun _ h => settlesTo_settle_of_eq (mgmtWrite_rxStatus h)⟩
  · exact ⟨_, mgmtRegisterWrite_partial hon hbe, fun _ => settle_settlesTo _, fun h => absurd h hbe, fun h => absurd h hbe,
      fun h => absurd h hbe, fun h => absurd h hbe, fun h => absurd h hbe, fun h => absurd h hbe, fun h => absurd h hbe⟩

end Sys2Proof.Machine

/-! Credits, command flits and packets on the inlets. -/

namespace Sys2Proof.Machine

section
variable {b : Block}

/-! ### Credits and violations (R51, R52, R54, R55) -/

theorem grantRsp_room {i : Nat} (h : (b.inlet i).rspCred < 1023) :
    b.grantRsp i = b.modInlet i (fun n => { n with rspCred := n.rspCred + 1 }) := if_pos h

theorem grantRsp_full {i : Nat} (h : 1023 ≤ (b.inlet i).rspCred) : b.grantRsp i = b.violation i 1 0 0 := if_neg (by omega)

theorem grantRpl_room {i : Fin 4} (h : (b.inlet i).rplCred < 1023) :
    b.grantRpl i = (b.modInlet i (fun n => { n with rplCred := n.rplCred + 1 })).returnOwed i := if_pos h

theorem grantRpl_full {i : Fin 4} (h : 1023 ≤ (b.inlet i).rplCred) : b.grantRpl i = b.violation i 2 0 0 := if_neg (by omega)

/-- The fabric may present no request on the inlet: it holds no credit, or VOID is high past its grace (R50, R51). -/
def Block.reqClosed (b : Block) (i : Fin 4) : Prop :=
  (b.inlet i).reqVoid = false ∧ (b.inlet i).reqCred = 0 ∨
    (b.inlet i).reqVoid = true ∧ (b.inlet i).reqVoidAt + 1 < b.clk.cclk

theorem grace_of_reqClosed {i : Fin 4} (h : b.reqClosed i) : (b.inlet i).grace b.clk.cclk = false := by
  rcases h with ⟨hv, -⟩ | ⟨-, hlate⟩
  · simp [Inlet.grace, hv]
  · simp [Inlet.grace, hlate]

theorem present_of_reqClosed {i : Fin 4} {h : Hdr} {data : Block512} {mask : BitVec 64} {f : SramFault} (hpll : b.clk.pll = true)
    (hc : b.reqClosed i) : b.present i h data mask f = b.violation i 0 h.requester h.tag := by
  have hcred : (!(b.inlet i).reqVoid && decide (0 < (b.inlet i).reqCred)) = false := by
    rcases hc with ⟨-, h0⟩ | ⟨hv, -⟩
    · simp [h0]
    · simp [hv]
  simp [Block.present, hpll, hcred, grace_of_reqClosed hc]

theorem noCredit_of_reqClosed {i : Fin 4} {h : Hdr} (hpll : b.clk.pll = true) (hc : b.reqClosed i) :
    b.noCredit i h = b.violation i 0 h.requester h.tag := by
  have hclosed : ((b.inlet i).reqVoid || (b.inlet i).reqCred == 0 || !b.serving) = true := by
    rcases hc with ⟨-, h0⟩ | ⟨hv, -⟩
    · simp [h0]
    · simp [hv]
  simp [Block.noCredit, hpll, hclosed, grace_of_reqClosed hc]

/-- A command flit that the fabric may not present is discarded. -/
theorem cmdFlit_violation {i : Fin 4} {flit : BitVec 128} {last bad : Bool} (hon : b.mode ≠ .off)
    (hc : (b.inlet i).cmdVoid = false ∧ (b.inlet i).cmdCred = 0 ∨
      (b.inlet i).cmdVoid = true ∧ (b.inlet i).cmdVoidAt + 1 < b.clk.cclk) :
    b.cmdFlit i flit last bad =
      b.violation i 3 (if (b.inlet i).flits = [] then (flit.extractLsb' 24 8).toNat else 0) 0 := by
  unfold Block.cmdFlit
  rw [if_neg (by simpa using hon)]
  rcases hc with ⟨hv, h0⟩ | ⟨hv, hlate⟩
  · simp [hv, h0, List.isEmpty_iff]
  · have hpast : decide (b.clk.cclk ≤ (b.inlet i).cmdVoidAt + 1) = false := decide_eq_false (by omega)
    simp [hv, hpast, List.isEmpty_iff]

end

/-- Settles O8: a grant is counted below 1,023 and is a violation from there on. -/
theorem creditGrants : Obligations.CreditGrants := by
  intro i s n
  have hrsp : exec (.responseCreditGrant i) s = .next { s with blk := s.blk.grantRsp i } := rfl
  have hrpl : exec (.replyCreditGrant i) s = .next { s with blk := s.blk.grantRpl i } := rfl
  rw [hrsp, hrpl]
  refine ⟨fun h => ?_, fun h => ?_, fun h => ?_, fun h => ?_⟩
  · rw [grantRsp_room h]
  · rw [grantRsp_full h]; rfl
  · rw [grantRpl_room h]
  · rw [grantRpl_full h]; rfl

/-- Settles O9: every form of a request comes to `Block.present`, which takes none on a closed inlet. -/
theorem creditViolationDiscards : Obligations.CreditViolationDiscards := by
  intro i hdr h data mask f s n told hpll hclosed
  have hbeat : s.blk.noCredit i (parseHdr hdr) = told (bitsOf hdr.toNat 8 8) (bitsOf hdr.toNat 16 11) :=
    noCredit_of_reqClosed hpll hclosed
  refine ⟨by rw [← hbeat]; rfl, ⟨_, rfl, settlesTo_settle_of_eq (present_of_reqClosed hpll hclosed)⟩, fun c hc => ?_⟩
  simp only [List.mem_cons, List.not_mem_nil, or_false] at hc
  rcases hc with rfl | rfl | rfl | rfl | rfl <;> exact ⟨_, rfl, settlesTo_settle_of_eq (present_of_reqClosed hpll hclosed)⟩

/-! ### Command flits (R53, R54, R118) -/

section
variable {b : Block} {i : Fin 4} {flit : BitVec 128} {last bad : Bool}

theorem cmdFlit_taken (hon : b.mode ≠ .off) (hv : (b.inlet i).cmdVoid = false) (hcred : 0 < (b.inlet i).cmdCred) :
    b.cmdFlit i flit last bad = b.takeFlit i flit last bad := by
  unfold Block.cmdFlit
  rw [if_neg (by simpa using hon)]
  simp [hv, hcred]

/-- Two changes of an inlet are one, where they agree with it on what that inlet holds. -/
theorem modInlet_modInlet {i : Nat} {g1 g2 g : Inlet → Inlet} (hi : i < b.inlets.length) (h : g2 (g1 (b.inlet i)) = g (b.inlet i)) :
    (b.modInlet i g1).modInlet i g2 = b.modInlet i g := by
  have hl : (b.inlets.modify i g1).modify i g2 = b.inlets.modify i g := by
    rw [List.modify_modify_eq]
    apply List.ext_getElem
    · simp
    · intro k h1 h2
      have hk : b.inlet i = b.inlets[i] := by simp [Block.inlet, List.getD_eq_getElem?_getD, hi]
      rw [hk] at h
      simp only [List.getElem_modify, Function.comp_apply]
      split
      · rename_i hik
        subst hik
        exact h
      · rfl
  exact congrArg (fun l => ({ b with inlets := l } : Block)) hl

/-- The block with a flit taken under a credit, and `l` as the flits of the packet under way. -/
def Block.gotFlit (b : Block) (i : Fin 4) (l : List (BitVec 128)) (bad : Bool) : Block :=
  b.modInlet i (fun n => { n with cmdCred := n.cmdCred - 1, cmdOwed := n.cmdOwed + 1, flits := l, flitBad := bad })

/-- What COMMAND_FLIT does under a credit: a flit before the last is kept, and the last or flit 32 is a packet that arrives. -/
theorem cmdFlit_eq (hon : b.mode ≠ .off) (hv : (b.inlet i).cmdVoid = false) (hcred : 0 < (b.inlet i).cmdCred)
    (hi : i.val < b.inlets.length) :
    b.cmdFlit i flit last bad =
      (if last || ((b.inlet i).flits ++ [flit]).length = 32 then
        (b.gotFlit i [] false).arrive (.inlet i) (packetOf (((b.inlet i).flits ++ [flit]).flatMap flitBytes))
          (16 * ((b.inlet i).flits ++ [flit]).length) ((b.inlet i).flitBad || bad)
      else b.gotFlit i ((b.inlet i).flits ++ [flit]) ((b.inlet i).flitBad || bad)).returnOwed i := by
  have hgot : ∀ l x, (b.modInlet i (fun n => { n with
      cmdCred := n.cmdCred - 1, cmdOwed := if n.cmdVoid then 0 else n.cmdOwed + 1 })).modInlet i
        (fun n => { n with flits := l, flitBad := x }) = b.gotFlit i l x :=
    fun l x => modInlet_modInlet hi (by simp [hv])
  rw [cmdFlit_taken hon hv hcred]
  unfold Block.takeFlit
  simp only [hgot]

end

/-- Settles O10: a flit under a credit is kept, or ends a packet that arrives under R118. -/
theorem commandFlits : Obligations.CommandFlits := by
  refine ⟨?_, ?_⟩
  · intro i flit last f s n hon hclosed c hc
    simp only [List.mem_cons, List.not_mem_nil, or_false] at hc
    rcases hc with rfl | rfl <;> exact ⟨_, rfl, settlesTo_settle_of_eq (cmdFlit_violation hon hclosed)⟩
  · intro i flit last f s n bad flits p got inl all hon hv hcred hi hawake
    have heff := cmdFlit_eq (flit := flit) (last := last) (bad := !(f == .clean)) hon hv hcred hi
    have hends : last = true ∨ flits.length = 32 → (last || decide (flits.length = 32)) = true := by
      rintro (h | h) <;> simp [h]
    refine ⟨_, rfl, fun hl hn => ?_, fun he hall hinl => ?_, fun he hfull => ?_⟩
    · have hmore : ¬ (last || decide (flits.length = 32)) = true := by
        rw [hl, decide_eq_false (by omega)]
        decide
      exact settlesTo_settle_of_eq (heff.trans (congrArg (Block.returnOwed · i) (if_neg hmore)))
    · have hput := arrive_room (s.blk.gotFlit i [] false) i p (16 * flits.length) bad hawake hall hinl
      exact settlesTo_settle_of_eq (heff.trans (congrArg (Block.returnOwed · i) ((if_pos (hends he)).trans hput)))
    · have hbusy := arrive_busy (s.blk.gotFlit i [] false) i p (16 * flits.length) bad hawake hfull
      exact settlesTo_settle_of_eq (heff.trans (congrArg (Block.returnOwed · i) ((if_pos (hends he)).trans hbusy)))

/-! ### Replies and event packets (R55, R56, R59, R146) -/

theorem takeFirst_append {α : Type} {p : α → Bool} {pre post : List α} {x : α} (hpre : ∀ y ∈ pre, p y = false) (hx : p x = true) :
    takeFirst p (pre ++ x :: post) = (pre ++ post, some x) := by
  induction pre with
  | nil => simp [takeFirst, hx]
  | cons y pre ih =>
    have hy : p y = false := hpre y (List.mem_cons_self ..)
    simp [takeFirst, hy, ih (fun z hz => hpre z (List.mem_cons_of_mem y hz))]

section
variable {b : Block} {src : Src}

theorem returnOwed_dorm (b : Block) (i : Fin 4) : (b.returnOwed i).dorm = b.dorm := by
  unfold Block.returnOwed
  split <;> rfl

theorem sendReply_dorm (b : Block) (src : Src) : (b.sendReply src).dorm = b.dorm := by
  unfold Block.sendReply
  extract_lets r
  split
  · rfl
  · split
    · rfl
    · cases src with
      | mgmt => rfl
      | inlet i => exact returnOwed_dorm _ i

/-- Outside DORMANT entry a reply that leaves changes no mode. -/
theorem replyOut_eq_sendReply (h : ∀ t, b.dorm ≠ .replying t) : b.replyOut src = b.sendReply src := by
  unfold Block.replyOut
  extract_lets mine asleep b1
  split
  · rename_i t ht
    exact absurd ((sendReply_dorm b src).symm.trans ht) (h t)
  · rfl

section
variable {pre post : List Reply} {x : Reply} (hr : b.pkts.replies = pre ++ x :: post) (hpre : ∀ r ∈ pre, r.src ≠ src) (hx : x.src = src)
include hr hpre hx

theorem takeFirst_replies : takeFirst (fun r : Reply => r.src == src) b.pkts.replies = (pre ++ post, some x) := by
  rw [hr]
  exact takeFirst_append (fun r hm => by simpa using hpre r hm) (by simpa using hx)

/-- A reply that cannot leave waits. -/
theorem sendReply_waits (h : b.canSend src x.pkt = false) : b.sendReply src = b := by
  simp [Block.sendReply, takeFirst_replies hr hpre hx, h]

end

section
variable {pre post : List Reply} {x : Reply} (hr : b.pkts.replies = pre ++ x :: post)
include hr

theorem sendReply_mgmt (hpre : ∀ r ∈ pre, r.src ≠ .mgmt) (hx : x.src = .mgmt) (h : b.canSend .mgmt x.pkt = true) :
    b.sendReply .mgmt = { b with pkts := { b.pkts with replies := pre ++ post } }.emitPacket .mgmt x.pkt := by
  simp [Block.sendReply, takeFirst_replies hr hpre hx, h]

theorem sendReply_inlet {i : Fin 4} (hpre : ∀ r ∈ pre, r.src ≠ .inlet i) (hx : x.src = .inlet i)
    (h : b.canSend (.inlet i) x.pkt = true) :
    b.sendReply (.inlet i) =
      ({ b with pkts := { b.pkts with replies := pre ++ post } }.emitPacket (.inlet i) x.pkt).returnOwed i := by
  simp [Block.sendReply, takeFirst_replies hr hpre hx, h]

end

/-- An event packet waits while a reply of its inlet does (R56). -/
theorem sendEventPkt_behind_reply {i : Fin 4} (h : ∃ r ∈ b.pkts.replies, r.src = .inlet i) : b.sendEventPkt (.inlet i) = b := by
  unfold Block.sendEventPkt
  rw [if_pos (by simpa using h)]

theorem sendEventPkt_sent {i : Fin 4} {pre post : List (Src × EvPkt)} {e : EvPkt} (he : b.pkts.evq = pre ++ (.inlet i, e) :: post)
    (hpre : ∀ x ∈ pre, x.1 ≠ .inlet i) (hr : ∀ r ∈ b.pkts.replies, r.src ≠ .inlet i)
    (h : b.canSend (.inlet i) (b.eventPacket e) = true) :
    b.sendEventPkt (.inlet i) =
      { b with pkts := { b.pkts with evq := pre ++ post },
               recips := tmod {} b.recips e.recipient (fun q => { q with dropped := 0 }) }.emitPacket (.inlet i) (b.eventPacket e) := by
  have hfirst : takeFirst (fun x : Src × EvPkt => x.1 == .inlet i) b.pkts.evq = (pre ++ post, some (.inlet i, e)) := by
    rw [he]
    exact takeFirst_append (fun x hm => by simpa using hpre x hm) (by simp)
  unfold Block.sendEventPkt
  rw [if_neg (by simpa using hr)]
  simp [hfirst, h]

end

/-- Settles O11: the first packet of a source is the one that `takeFirst` takes, and `Block.canSend` says whether it leaves. -/
theorem packetsSent : Obligations.PacketsSent := by
  refine ⟨?_, ?_⟩
  · intro src pre post x s hr hx hpre hdorm e
    have hout : s.blk.replyOut src = s.blk.sendReply src := replyOut_eq_sendReply hdorm
    refine ⟨_, rfl, fun hm hfits => ?_, fun i hi hcred => ?_, fun hm hfull => ?_, fun i hi hshort => ?_⟩
    · subst hm
      exact settlesTo_settle_of_eq (hout.trans (sendReply_mgmt hr hpre hx (decide_eq_true hfits)))
    · subst hi
      exact settlesTo_settle_of_eq (hout.trans (sendReply_inlet hr hpre hx (decide_eq_true hcred)))
    · subst hm
      exact settlesTo_settle_of_eq (hout.trans (sendReply_waits hr hpre hx (decide_eq_false (by omega))))
    · subst hi
      exact settlesTo_settle_of_eq (hout.trans (sendReply_waits hr hpre hx (decide_eq_false (by omega))))
  · intro i pre post e s he hpre p
    refine ⟨_, rfl, fun hr hcred => ?_, fun hr => settlesTo_settle_of_eq (sendEventPkt_behind_reply hr), rfl, rfl, rfl, rfl, rfl⟩
    exact settlesTo_settle_of_eq (sendEventPkt_sent he hpre hr (decide_eq_true hcred))

end Sys2Proof.Machine

/-! Network time that returns or steps, the power cap and the die temperature, and the image that a save captures. -/

namespace Sys2Proof.Machine

/-! ### Network time (R65, R191, R192) -/

/-- The next boundary of a list lies no earlier than the time from which it is sought (R185). -/
theorem le_nextBoundary {t : Tab Nat} {id : Nat} {x : Int} (h : 0 < listCycle t id) : x ≤ nextBoundary t id x := by
  have hphase : 0 ≤ modFloor (listBase t id - x) (listCycle t id) := Int.emod_nonneg _ (by omega)
  unfold nextBoundary
  omega

/-- The block with a sample of network time: the offset of the local counter, and whether time is valid. -/
def Block.sampled (b : Block) (n : Net) (nt : Nat) : Block :=
  { b with net := { n with off := (nt : Int) - b.clk.ns, lastValid := nt } }

/-- A realignment is planned on the time of the sample: while the engine runs, for the first boundary 10,000 ns ahead (R192). -/
theorem planRealign_sampled (b : Block) (n : Net) (nt : Nat) :
    (b.sampled n nt).planRealign = { b with net :=
      if b.sluice.running then
        { (b.sampled n nt).net with timeValid := false, realign := some (nextBoundary b.cfg 0x0701 ((nt : Int) + 10000)) }
      else (b.sampled n nt).net } := by
  have htime : (b.sampled n nt).netTime = nt := by
    show (b.clk.ns : Int) + (nt - b.clk.ns) = nt
    omega
  unfold Block.planRealign
  rw [htime]
  cases hrun : b.sluice.running
  · rw [if_neg (by simpa [Block.sampled] using hrun)]
    rfl
  · rw [if_pos (by simpa [Block.sampled] using hrun)]
    rfl

theorem timeReturns_eq {b : Block} {nt : Nat} (hv : b.net.valid = false) (hon : b.mode ≠ .off) :
    b.timeReturns nt = (b.sampled { b.net with valid := true, ever := true } nt).planRealign := by
  unfold Block.timeReturns
  rw [if_neg (by simpa [hv] using hon)]
  rfl

theorem timeStep_eq {b : Block} {k nt : Nat} (hv : b.net.valid = true) (hpll : b.clk.pll = true) :
    b.timeStep k nt = (b.sampled b.net nt).planRealign.event 0x06 [(1, k), (8, twos 8 ((nt : Int) - b.netTime))] := by
  unfold Block.timeStep
  rw [if_neg (by simp [hv, hpll])]
  rfl

/-- Time lost while the engine stands is not recorded (R191). -/
theorem loseTime_standing {b : Block} (hv : b.net.valid = true) (hstand : b.sluice.running = false) :
    b.loseTime = { b with net := { b.net with valid := false, timeValid := false, lastValid := b.netTime, realign := none } } := by
  unfold Block.loseTime
  rw [if_neg (by simp [hv])]
  extract_lets last n b1
  exact if_neg (by simp [b1, hstand])

/-- Settles O21: both commands plan the realignment on the time sampled. -/
theorem timeReturnsAndSteps : Obligations.TimeReturnsAndSteps := by
  intro nt s off bound used plan
  have hret : exec (.timeValidReturn nt) s = .next { s with blk := s.blk.timeReturns nt.toNat } := rfl
  have hstep : ∀ k, exec (.timeStep k nt) s = .next { s with blk := s.blk.timeStep (stepCode k) nt.toNat } := fun _ => rfl
  have hlose : exec .sluiceFreeRun s = .next { s with blk := s.blk.loseTime } := rfl
  refine ⟨fun hv hon => ?_, fun k hv hpll => ?_, fun hv hstand => ?_, by omega, fun hc => le_nextBoundary hc⟩
  · rw [hret, timeReturns_eq hv hon, planRealign_sampled]
    rfl
  · rw [hstep, timeStep_eq hv hpll, planRealign_sampled]
    rfl
  · rw [hlose, loseTime_standing hv hstand]

/-! ### Power cap and die temperature (R66, R67, R272, R273) -/

section
variable {b : Block}

theorem pcap_of_on {mw : Nat} {valid : Bool} (hon : b.mode ≠ .off) :
    b.pcap mw valid = if valid then { b with pins := { b.pins with capMw := mw, capValid := true } } else b := by
  have hm : (!(b.mode == .off)) = true := by simpa using hon
  simp [Block.pcap, hm]

/-- Hold and the die warning, with their hysteresis of 2 °C. -/
def Block.heated (b : Block) (t : BitVec 12) : Block :=
  { b with
    pins := { b.pins with dieTemp := some t, lastDie := t }
    stat := { b.stat with
      dieHold := decide (8 * (b.limit 3 : Int) ≤ t.toInt) || (b.stat.dieHold && !decide (t.toInt ≤ 8 * (b.limit 3 : Int) - 16))
      dieWarned := decide (8 * (b.limit 2 : Int) ≤ t.toInt) || (b.stat.dieWarned && !decide (t.toInt ≤ 8 * (b.limit 2 : Int) - 16)) } }

/-- A flag set at a limit and cleared 16 below it: the crossings spelled one by one come to the same. -/
theorem hysteresis_eq (on : Bool) (lim t : Int) :
    (!on && decide (lim ≤ t) || (on && !(on && decide (t ≤ lim - 16)))) =
      (decide (lim ≤ t) || (on && !decide (t ≤ lim - 16))) := by
  by_cases hhot : lim ≤ t
  · have hcool : ¬ t ≤ lim - 16 := by omega
    cases on <;> simp [hhot, hcool]
  · cases on <;> simp [hhot]

/-- What no event changes, the events of one step do not change. -/
theorem events_keeps {γ : Type} (p : Block → γ) (h : ∀ b code l, p (b.event code l) = p b) (b : Block) (l : List Ev) :
    p (b.events l) = p b :=
  foldl_keeps p (fun (x : Block) (e : Ev) => x.event e.1 e.2) (fun x e => h x e.1 e.2) _ b

theorem events_single (b : Block) (e : Ev) : b.events [e] = b.event e.1 e.2 := rfl

/-- Two events of one step whose codes ascend occur in the order given. -/
theorem events_pair (b : Block) {e1 e2 : Ev} (h : e1.1 ≤ e2.1) : b.events [e1, e2] = (b.event e1.1 e1.2).event e2.1 e2.2 := by
  have hins : insEv e2 [e1] = [e1, e2] := by
    unfold insEv
    rw [if_neg (by omega)]
    rfl
  show ([e2].foldl (fun l e => insEv e l) [e1]).foldl _ b = _
  rw [List.foldl_cons, hins]
  rfl

/-- The events of a die temperature: 0x10 where the warning is crossed, then 0x11 where hold is entered or left. -/
def Block.dieTold (b : Block) (t : BitVec 12) (cross enter leave : Bool) : Block :=
  let told := if cross then b.event 0x10 [(2, twos 2 t.toInt), (2, b.dieScale)] else b
  if enter then told.event 0x11 [(1, 0), (2, twos 2 t.toInt)]
  else if leave then told.event 0x11 [(1, 1), (2, twos 2 t.toInt)] else told

theorem events_dieTold (b : Block) (t : BitVec 12) (cross enter leave : Bool) :
    b.events ((if cross then [(0x10, [tempField (dieT8 t), (2, b.dieScale)])] else []) ++
      (if enter then [(0x11, [(1, 0), tempField (dieT8 t)])] else if leave then [(0x11, [(1, 1), tempField (dieT8 t)])] else [])) =
      b.dieTold t cross enter leave := by
  have hpair : ∀ x y, b.events [(0x10, x), (0x11, y)] = (b.event 0x10 x).event 0x11 y := fun x y => events_pair b (Nat.le_succ 0x10)
  cases cross <;> cases enter
  case true.true => exact hpair _ _
  case true.false => cases leave; exacts [events_single b _, hpair _ _]
  case false.true => exact events_single b _
  case false.false => cases leave; exacts [rfl, events_single b _]

theorem dieTold_stat (b : Block) (t : BitVec 12) (cross enter leave : Bool) : (b.dieTold t cross enter leave).stat = b.stat := by
  rw [← events_dieTold]
  exact events_keeps Block.stat event_stat b _

theorem dieTold_drain (b : Block) (t : BitVec 12) (cross enter leave : Bool) : (b.dieTold t cross enter leave).drain = b.drain := by
  rw [← events_dieTold]
  exact events_keeps Block.drain event_drain b _

theorem dieTemp_of_on {t : BitVec 12} (hon : b.mode ≠ .off) :
    b.dieTemp t = (b.heated t).dieTold t (!b.stat.dieWarned && decide (8 * (b.limit 2 : Int) ≤ t.toInt))
      (!b.stat.dieHold && decide (8 * (b.limit 3 : Int) ≤ t.toInt))
      (b.stat.dieHold && decide (t.toInt ≤ 8 * (b.limit 3 : Int) - 16)) := by
  rw [← events_dieTold]
  unfold Block.dieTemp Block.heated
  rw [if_neg (by simpa using hon), ← hysteresis_eq b.stat.dieHold, ← hysteresis_eq b.stat.dieWarned]
  rfl

/-- Die hold leaves a channel no power but in drain (R272, R273). -/
theorem chanMw_of_dieHold {c : Nat} (hhold : b.stat.dieHold = true) (hd : b.drain = false) : b.chanMw c = 0 := by
  have hscale : b.scale c = 0 := by simp [Block.scale, hhold, hd]
  unfold Block.chanMw
  split <;> simp [hscale]

theorem loseDie_some {t : BitVec 12} (h : b.pins.dieTemp = some t) :
    b.loseDie = ({ b with pins := { b.pins with dieTemp := none }, stat := { b.stat with dieHold := false, dieWarned := false } } : Block).event
      0x08 [(2, twos 2 t.toInt)] := by
  unfold Block.loseDie
  rw [h]
  rfl

theorem loseDie_none (h : b.pins.dieTemp = none) : b.loseDie = b := by
  unfold Block.loseDie
  rw [h]

end

/-- Settles O26: the cap, the die temperature with its events, and the loss of the input, each by its equation. -/
theorem capAndDieTemperature : Obligations.CapAndDieTemperature := by
  intro s hon b0
  refine ⟨fun mw valid => ⟨_, rfl, settlesTo_settle_of_eq (pcap_of_on hon)⟩, ?_,
    fun t h => ⟨_, rfl, settlesTo_settle_of_eq (loseDie_some h)⟩, fun h => ⟨_, rfl, settlesTo_settle_of_eq (loseDie_none h)⟩⟩
  intro t warn crit hot cool e told
  have hs := settlesTo_settle_of_eq (dieTemp_of_on (b := s.blk) (t := t) hon)
  refine ⟨_, rfl, hs, fun hcrit hd c => chanMw_of_dieHold ?_ ?_⟩
  · rw [hs.stat_eq, dieTold_stat]
    have hhot : decide (8 * (s.blk.limit 3 : Int) ≤ t.toInt) = true := decide_eq_true hcrit
    simp [Block.heated, hhot]
  · rw [hs.drain_eq, dieTold_drain]
    exact hd

/-! ### IMAGE_SAVE (R407, R62, R123) -/

/-- A field as a table less its unsaved fields holds it: its value where it is saved, and otherwise its Default. -/
theorem cfgGet_lettered (t : Tab Nat) (letter : Nat) {id inst bit : Nat} (hi : inst < 2 ^ 12) (hb : bit < 2 ^ 16) :
    cfgGet (lettered letter t) id inst bit =
      if (recFields id inst).any (fun f => f.bit == bit && f.kept / letter % 2 == 1) then cfgGet t id inst bit
      else fieldDefault id inst bit := by
  have hid : cfgKey id inst bit / 2 ^ 28 = id := by unfold cfgKey; omega
  have hinst : cfgKey id inst bit / 2 ^ 16 % 2 ^ 12 = inst := by unfold cfgKey; omega
  have hbit : cfgKey id inst bit % 2 ^ 16 = bit := by unfold cfgKey; omega
  unfold cfgGet lettered
  cases hsaved : (recFields id inst).any (fun f => f.bit == bit && f.kept / letter % 2 == 1)
  · rw [aget_filter_none _ _ _ (fun _ => by simp only [hid, hinst, hbit, hsaved])]
    rfl
  · rw [aget_filter _ _ _ (fun _ => by simp only [hid, hinst, hbit, hsaved])]
    rfl

section
variable {b : Block} {ok : Bool} {written : Nat} {o : LongOp}

/-- The IMAGE_SAVE in progress is answered. -/
def Block.endSave (b : Block) (st detail p0 : Nat) : Block :=
  b.endOps (fun x => x.pkt.opcode == 0x21) st detail (fun _ => p0) (fun _ => [])

/-- Event 0x07 of a save that has ended. -/
def Block.saveTold (b : Block) (o : LongOp) (ok : Bool) : Block := b.event 0x07 [(4, o.n), (4, o.m), (1, if ok then 0 else 1)]

theorem saveTold_op? (b : Block) (o : LongOp) (ok : Bool) (n : Nat) : (b.saveTold o ok).op? n = b.op? n := by
  simp [Block.saveTold, Block.op?]

/-- The block whose save has ended with its burst written: no change is unsaved. -/
def Block.saveDone (b : Block) (o : LongOp) : Block := { b.saveTold o true with stat := { b.stat with savedSince := true } }

theorem op?_some {n : BitVec 8} (h : b.op? n.toNat = some o) : o ∈ b.pkts.ops ∧ (o.pkt.opcode == n) = true := by
  have hop : o.pkt.opcode.toNat = n.toNat := by simpa using List.find?_some h
  exact ⟨List.mem_of_find?_eq_some h, by simpa using BitVec.eq_of_toNat_eq hop⟩

theorem endSave_reply (ho : b.op? 0x21 = some o) (st detail p0 : Nat) :
    ∃ lvl, (⟨o.src, mkReply lvl o.pkt st detail p0 [], false, o.objs⟩ : Reply) ∈ (b.endSave st detail p0).pkts.replies := by
  obtain ⟨hm, hop⟩ := op?_some (n := 0x21) ho
  exact endOps_reply b _ st detail _ _ o hm hop

theorem endSave_mode (b : Block) (st detail p0 : Nat) : (b.endSave st detail p0).mode = b.mode := by
  obtain ⟨_, _, h⟩ := endOps_outline b (fun x => x.pkt.opcode == 0x21) st detail (fun _ => p0) (fun _ => [])
  exact congrArg Outline.mode h

theorem endSave_ret (b : Block) (st detail p0 : Nat) : (b.endSave st detail p0).ret = b.ret := by
  obtain ⟨_, _, h⟩ := endOps_outline b (fun x => x.pkt.opcode == 0x21) st detail (fun _ => p0) (fun _ => [])
  exact congrArg Outline.ret h

theorem endOps_stat (b : Block) (sel : LongOp → Bool) (st d : Nat) (p0 : LongOp → Nat) (body : LongOp → List Byte) :
    (b.endOps sel st d p0 body).stat = b.stat := by
  refine (foldl_keeps Block.stat _ (fun x o => ?_) _ _).trans rfl
  obtain ⟨c, h⟩ := replyHold_only x o.src o.pkt o.objs st d (p0 o) (body o)
  rw [h]

theorem imageSaved_stopped (ho : b.op? 0x21 = some o) (hc : b.mode = .commission) (hp : b.pins.pfail = true) :
    b.imageSaved ok written = b.endSave stNotReady 2 (written % 2 ^ 32) := by
  simp [Block.imageSaved, ho, hc, hp, Block.endSave]

theorem imageSaved_ok (ho : b.op? 0x21 = some o) (h : ¬ (b.mode = .commission ∧ b.pins.pfail = true)) :
    b.imageSaved true written = (b.saveDone o).endSave stOk 0 o.m := by
  simp [Block.imageSaved, ho, h, Block.endSave, Block.saveDone, Block.saveTold, events_single]

theorem imageSaved_failed (ho : b.op? 0x21 = some o) (h : ¬ (b.mode = .commission ∧ b.pins.pfail = true)) :
    b.imageSaved false written = (b.saveTold o false).endSave stRejected 6 (written % 2 ^ 32) := by
  simp [Block.imageSaved, ho, h, Block.endSave, Block.saveTold, events_single]

/-- The end of a save changes neither the image held nor the mode. -/
theorem imageSaved_ret_mode (ho : b.op? 0x21 = some o) :
    (b.imageSaved ok written).ret = b.ret ∧ (b.imageSaved ok written).mode = b.mode := by
  by_cases h : b.mode = .commission ∧ b.pins.pfail = true
  · rw [imageSaved_stopped ho h.1 h.2, endSave_ret, endSave_mode]
    exact ⟨rfl, rfl⟩
  · cases ok
    · rw [imageSaved_failed ho h, endSave_ret, endSave_mode]
      exact ⟨event_ret b _ _, event_mode b _ _⟩
    · rw [imageSaved_ok ho h, endSave_ret, endSave_mode]
      exact ⟨event_ret b _ _, event_mode b _ _⟩

end

/-- Settles O40: the image is `Block.capture` of the block as the packet is taken, and each end of the save answers it. -/
theorem imageSaves : Obligations.ImageSaves := by
  intro s
  refine ⟨?_, ?_⟩
  · intro src p hc hop t i
    obtain ⟨b, hexec, hb⟩ := packet_settles s 0x21 src p Block.imageSave hop hc
    exact ⟨⟨b, hexec, hb.ret_eq, hb⟩, rfl, rfl, rfl, rfl, by simp [i, Block.capture],
      fun id inst bit hi hb => cfgGet_lettered t.cfg 8 hi hb⟩
  · intro ok written o ho stopped answered
    obtain ⟨hret, hmode⟩ := imageSaved_ret_mode (ok := ok) (written := written) ho
    have hb := settle_settlesTo (s.blk.imageSaved ok written)
    have hans : ∀ {e : Block} {st d p0 : Nat}, s.blk.imageSaved ok written = e.endSave st d p0 → e.op? 0x21 = some o →
        answered (s.blk.imageSaved ok written).settle st d p0 := by
      intro e st d p0 he ho'
      obtain ⟨lvl, hr⟩ := endSave_reply ho' st d p0
      refine ⟨lvl, ?_⟩
      rw [hb.replies_eq, he]
      exact hr
    refine ⟨_, does_next s (·.imageSaved ok written), hb.ret_eq.trans hret, hb.mode_eq.trans hmode,
      fun hs => ?_, fun hs hk => ?_, fun hs hk => ?_⟩
    · exact hans (imageSaved_stopped ho hs.1 hs.2) ho
    · subst hk
      have he := imageSaved_ok (written := written) ho hs
      have hsaved : (s.blk.imageSaved true written).stat = (s.blk.saveDone o).stat := by rw [he]; exact endOps_stat ..
      exact ⟨hans he ((saveTold_op? ..).trans ho), (congrArg Stat.savedSince (hb.stat_eq.trans hsaved) :)⟩
    · subst hk
      exact hans (imageSaved_failed ho hs) ((saveTold_op? ..).trans ho)

end Sys2Proof.Machine

/-! DORMANT entry and exit. -/

namespace Sys2Proof.Machine

section
variable {b : Block} {src : Src} {since : Nat}

/-! ### Entry (R400) -/

/-- Steps 4 and 5 of R400 once every channel has had its last refresh: self-refresh, and the sluice stops. -/
def Block.slept (b : Block) : Block :=
  { b with
    cache := b.cache.sleep (b.f 0x0E00 0 16), chans := b.chans.map Chan.sleep, pkts := { b.pkts with txns := [] }
    dorm := .replying ((b.pkts.ops.map LongOp.started).head?.getD b.clk.ns) }.stopSluice

/-- Every channel that serves has had its last refresh. -/
def Block.refreshed (b : Block) : Block := (List.range 8).foldl Block.lastRefresh b

theorem fallAsleep_eq (b : Block) (src : Src) :
    b.fallAsleep src =
      b.refreshed.slept.endOps (fun o => o.pkt.opcode == 0x20 && o.src == src) stOk 0 (fun _ => 5) (fun _ => []) := by
  unfold Block.fallAsleep Block.refreshed
  generalize (List.range 8).foldl Block.lastRefresh b = r
  rfl

/-- The state of a channel once those that serve are in self-refresh. -/
def sleptState (st : Nat) : Nat := if st == 3 || st == 4 then 6 else st

theorem sleep_state_eq (ch : Chan) : ch.sleep.state = sleptState ch.state := by
  unfold Chan.sleep sleptState
  split <;> rfl

theorem slept_outline (b : Block) :
    ∃ since, b.slept.outline = { b.outline with dorm := .replying since, states := b.outline.states.map sleptState } := by
  have hst : (b.chans.map Chan.sleep).map Chan.state = b.outline.states.map sleptState := by
    simp [Block.outline, sleep_state_eq, Function.comp_def]
  refine ⟨(b.pkts.ops.map LongOp.started).head?.getD b.clk.ns, ?_⟩
  rw [← hst]
  exact stopSluice_outline _

theorem refreshed_outline (b : Block) : b.refreshed.outline = b.outline := foldl_outline Block.lastRefresh lastRefresh_outline _ b

theorem state_eq_getD (b : Block) (c : Nat) : (b.chan c).state = b.outline.states.getD c 0 := by
  simp only [Block.outline, Block.chan, List.getD_eq_getElem?_getD, List.getElem?_map]
  cases b.chans[c]? <;> rfl

theorem fallAsleep_outline (b : Block) (src : Src) :
    ∃ since ops reps, (b.fallAsleep src).outline =
      { b.outline with dorm := .replying since, states := b.outline.states.map sleptState, ops := ops, replies := reps } := by
  obtain ⟨since, hs⟩ := slept_outline b.refreshed
  obtain ⟨ops, reps, he⟩ :=
    endOps_outline b.refreshed.slept (fun o => o.pkt.opcode == 0x20 && o.src == src) stOk 0 (fun _ => 5) (fun _ => [])
  exact ⟨since, ops, reps, by rw [fallAsleep_eq, he, hs, refreshed_outline]⟩

theorem fallAsleep_sluice (b : Block) (src : Src) : (b.fallAsleep src).sluice = { running := false, leadIn := false, boundary := 0 } := by
  rw [fallAsleep_eq, endOps_sluice]
  exact stopSluice_sluice _

theorem fallAsleep_state {c : Nat} (h : (b.chan c).state = 3 ∨ (b.chan c).state = 4) : ((b.fallAsleep src).chan c).state = 6 := by
  obtain ⟨_, _, _, ho⟩ := fallAsleep_outline b src
  have hstates : (b.fallAsleep src).outline.states = b.outline.states.map sleptState := congrArg Outline.states ho
  have hmap : (b.outline.states.map sleptState).getD c 0 = sleptState (b.outline.states.getD c 0) := List.getD_map _ 0 sleptState
  rw [state_eq_getD, hstates, hmap, ← state_eq_getD]
  rcases h with h | h <;> rw [h] <;> rfl

theorem replies_ops_of_outline {o : Outline} (h : b.outline = o) : b.pkts.replies = o.replies ∧ b.pkts.ops = o.ops :=
  ⟨congrArg Outline.replies h, congrArg Outline.ops h⟩

theorem slept_replies_ops (b : Block) :
    b.refreshed.slept.pkts.replies = b.pkts.replies ∧ b.refreshed.slept.pkts.ops = b.pkts.ops := by
  obtain ⟨_, hs⟩ := slept_outline b.refreshed
  rw [refreshed_outline] at hs
  exact replies_ops_of_outline hs

theorem fallAsleep_replies {r : Reply} (h : r ∈ b.pkts.replies) : r ∈ (b.fallAsleep src).pkts.replies := by
  rw [fallAsleep_eq]
  refine endOps_keep _ _ _ _ _ _ r ?_
  rw [(slept_replies_ops b).1]
  exact h

/-- MODE_SET 5 is answered OK with PARAM0 5. -/
theorem fallAsleep_answer {o : LongOp} (ho : o ∈ b.pkts.ops) (hop : o.pkt.opcode = 0x20) (hsrc : o.src = src) :
    ∃ r ∈ (b.fallAsleep src).pkts.replies, r.src = src ∧ r.pkt.seq = o.pkt.seq ∧ r.pkt.status = 0 ∧ r.pkt.param0 = 5 := by
  have hm : o ∈ b.refreshed.slept.pkts.ops := by
    rw [(slept_replies_ops b).2]
    exact ho
  obtain ⟨lvl, hr⟩ := endOps_reply b.refreshed.slept (fun o => o.pkt.opcode == 0x20 && o.src == src) stOk 0 (fun _ => 5) (fun _ => [])
    o hm (by simp [hop, hsrc])
  rw [← fallAsleep_eq] at hr
  exact ⟨_, hr, hsrc, rfl, rfl, rfl⟩

/-! ### The mode becomes DORMANT (R69, R400, R401) -/

/-- The mode is DORMANT and the clocks stand. -/
def Block.down (b : Block) (since : Nat) : Block :=
  { b with clk := { b.clk with pll := false }, dorm := .asleep }.changeMode .dormant 1 (b.usSince since)

theorem changeMode_clk (b : Block) (m : Mode) (cause us : Nat) : (b.changeMode m cause us).clk = b.clk := by
  unfold Block.changeMode
  extract_lets old b1 n b2
  split
  · rfl
  · exact event_clk b2 _ _

theorem down_outline (b : Block) (since : Nat) : (b.down since).outline = { b.outline with dorm := .asleep, mode := .dormant } :=
  changeMode_outline ..

theorem down_clk (b : Block) (since : Nat) : (b.down since).clk = { b.clk with pll := false } := changeMode_clk ..

theorem down_pins (b : Block) (since : Nat) : (b.down since).pins = b.pins := congrArg Outline.pins (down_outline b since)

theorem enterDormant_stays (h : b.pins.wake = false ∨ b.pins.pfail = true) : b.enterDormant since = b.down since := by
  have hw : ¬ ((b.down since).pins.wake && !(b.down since).pins.pfail) = true := by
    rw [down_pins]
    rcases h with h | h <;> simp [h]
  exact if_neg hw

/-- WAKE that is high begins an exit at once (R69). -/
theorem enterDormant_leaves (hw : b.pins.wake = true) (hp : b.pins.pfail = false) : b.enterDormant since = (b.down since).leave false := by
  have hgo : ((b.down since).pins.wake && !(b.down since).pins.pfail) = true := by
    rw [down_pins]
    simp [hw, hp]
  exact if_pos hgo

theorem enterDormant_mode_replies (b : Block) (since : Nat) :
    (b.enterDormant since).mode = .dormant ∧ (b.enterDormant since).pkts.replies = b.pkts.replies := by
  have hd : (b.down since).mode = .dormant ∧ (b.down since).pkts.replies = b.pkts.replies :=
    ⟨congrArg Outline.mode (down_outline b since), congrArg Outline.replies (down_outline b since)⟩
  unfold Block.enterDormant
  extract_lets n b1
  split
  · exact hd
  · exact hd

theorem enterDormant_asleep (h : b.pins.wake = false ∨ b.pins.pfail = true) :
    (b.enterDormant since).dorm = .asleep ∧ (b.enterDormant since).clk.pll = false := by
  rw [enterDormant_stays h, down_clk]
  exact ⟨congrArg Outline.dorm (down_outline b since), rfl⟩

theorem enterDormant_leaving (hw : b.pins.wake = true) (hp : b.pins.pfail = false) :
    (b.enterDormant since).dorm = .leaving false b.clk.ns ∧ (b.enterDormant since).clk.pll = true := by
  rw [enterDormant_leaves hw hp]
  unfold Block.leave
  rw [down_clk]
  exact ⟨rfl, rfl⟩

/-- The block with the replies of MODE_SET discarded. -/
def Block.dropModeReplies (b : Block) : Block :=
  { b with pkts := { b.pkts with replies := b.pkts.replies.filter (fun r => !(r.pkt.opcode == 0x20)) } }

theorem replyLate_eq (h : b.dorm = .replying since) : b.replyLate = b.dropModeReplies.enterDormant since := by
  unfold Block.replyLate
  rw [h]
  rfl

/-! ### WAKE and exit (R69, R402) -/

theorem wakeLevel_leaves (hm : b.mode = .dormant) (hp : b.pins.pfail = false) (hd : b.dorm = .asleep ∨ b.dorm = .clocked) :
    b.wakeLevel true = { b with pins := { b.pins with wake := true } }.leave false := by
  unfold Block.wakeLevel
  rcases hd with hd | hd <;> simp [hm, hp, hd]

theorem wakeLevel_stays {level : Bool} (h : b.mode ≠ .dormant ∨ level = false ∨ b.pins.pfail = true) :
    b.wakeLevel level = { b with pins := { b.pins with wake := level } } := by
  unfold Block.wakeLevel
  rcases h with h | h | h <;> simp [h]

/-- The channels in self-refresh. -/
def Block.sleepers (b : Block) : List Nat := (List.range 8).filter (fun c => (b.chan c).state == 6)

/-- DORMANT exit with no faulted channel: SERVE, channels in self-refresh ready, every VOID low, and MODE_SET answered. -/
theorem exitDone_outline {op : Bool} {temps : List (Fin 8 × Fin 6 × BitVec 16)} {drift : List (Fin 8 × DriftRead)}
    (h : b.dorm = .leaving op since) :
    ∃ v ops reps, (b.exitDone 0 temps drift).outline = { b.outline with
      states := b.sleepers.foldl (fun l c => l.modify c (fun _ => if b.ddr4 c then 4 else 3)) b.outline.states
      dorm := .none, mode := .serve, voids := v, ops := ops, replies := reps } ∧ ∀ x ∈ v, x.1 = false := by
  unfold Block.exitDone
  split
  · rename_i op' since' _
    extract_lets cs b1 b2 b3 b4 b5
    have h1 := wakeChans_outline cs b
    have h2 : b2.outline = b1.outline := foldl_outline _ (fun x e => by
      split
      · exact driftSample_outline x _ _
      · rfl) drift b1
    have h3 : b3.outline = b1.outline := (foldl_outline _ (fun x c => pollSensors_outline x c _) cs b2).trans h2
    obtain ⟨v, h4, hv⟩ := serveFrom_outline { b3 with dorm := .none } .serve (if op' then 1 else 3) (b3.usSince since')
    obtain ⟨ops, reps, h5⟩ := endOps_outline b4 (fun o => o.pkt.opcode == 0x20) stOk 0 (fun _ => 3) (fun _ => [])
    have hnone : cs.filter (fun c => (0 : BitVec 8).getLsbD c) = [] := List.filter_eq_nil_iff.2 (fun c _ => by simp)
    have h3' : ({ b3 with dorm := .none } : Block).outline = { b1.outline with dorm := .none } := by
      rw [← h3]
      rfl
    have h4' : b4.outline = _ := (startRelock_outline _ 0).trans h4
    refine ⟨v, ops, reps, ?_, hv⟩
    rw [hnone, List.foldl_nil]
    refine h5.trans ?_
    rw [h4', h3', h1]
    rfl
  · rename_i hne
    exact absurd h (hne op since)

/-- A channel that leaves self-refresh reads state 3 or 4. -/
theorem sleepers_wake {c : Fin 8} (h : (b.chan c).state = 6) :
    (b.sleepers.foldl (fun l k => l.modify k (fun _ => if b.ddr4 k then 4 else 3)) b.outline.states).getD c 0 =
      if b.ddr4 c then 4 else 3 := by
  have hlt : c.val < b.outline.states.length := by
    by_contra hge
    rw [state_eq_getD, List.getD_eq_default _ _ (Nat.le_of_not_lt hge)] at h
    cases h
  rw [foldl_modify_getD (fun k => if b.ddr4 k then 4 else 3) _ _ _ hlt, if_pos (by simp [Block.sleepers, h])]

end

theorem execDormantEntryComplete_eq {s : State} {src : Src} (hd : s.blk.dorm = .entering src) (hs : s.blk.stilled = true) :
    exec .dormantEntryComplete s = .next { s with blk := (s.blk.fallAsleep src).settle } := by
  show execDormantEntryComplete s = _
  unfold execDormantEntryComplete
  rw [does_next, hd]
  simp only [hs, if_true]

theorem execDormantClockStop_eq {s : State} (hd : s.blk.dorm = .clocked) (hq : s.blk.pkts.queue = []) (hr : s.blk.pkts.replies = [])
    (ho : s.blk.pkts.ops = []) (ht : s.blk.tail = none) :
    exec .dormantClockStop s =
      .next { s with blk := ({ s.blk with clk := { s.blk.clk with pll := false }, dorm := .asleep } : Block).settle } := by
  show execDormantClockStop s = _
  unfold execDormantClockStop
  rw [does_next, if_pos (by simp [hd, hq, hr, ho, ht])]

/-- What settling keeps of an outline. -/
theorem settlesTo_of_outline {e b : Block} {o : Outline} (hb : e.settlesTo b) (ho : e.outline = o) :
    b.mode = o.mode ∧ b.dorm = o.dorm ∧ b.keys = o.keys ∧ b.lc = o.lc ∧ (∀ c : Nat, (b.chan c).state = o.states.getD c 0) ∧
      b.inlets.map Inlet.cmdVoid = o.voids.map Prod.fst := by
  subst ho
  refine ⟨hb.mode_eq, hb.dorm_eq, hb.keys_eq, hb.lc_eq, fun c => (hb.state_eq c).trans (state_eq_getD e c), ?_⟩
  rw [hb.voids_eq]
  simp [Block.outline, Function.comp_def]

/-- Settles O19: entry, the clocks, WAKE and exit are each read off their effect, of which settling keeps what is claimed. -/
theorem dormantEntryAndExit : Obligations.DormantEntryAndExit := by
  refine ⟨⟨fun src s hd hstill => ?_, fun since s hd => ?_, fun s hd hq hr ho ht => ?_⟩, fun level s => ?_,
    fun op since temps drift s hd hm => ?_⟩
  · have hb := settle_settlesTo (s.blk.fallAsleep src)
    obtain ⟨since, ops, reps, ho⟩ := fallAsleep_outline s.blk src
    obtain ⟨hmode, hdorm, -⟩ := settlesTo_of_outline hb ho
    refine ⟨_, execDormantEntryComplete_eq hd hstill, hb, ⟨since, hdorm⟩, hmode, hb.sluice_eq.trans (fallAsleep_sluice ..),
      fun c hc => (hb.state_eq c).trans (fallAsleep_state hc), ?_, ?_⟩
    · rw [hb.replies_eq]
      exact fun r hr => fallAsleep_replies hr
    · rw [hb.replies_eq]
      exact fun o hm hop hsrc => fallAsleep_answer hm hop hsrc
  · have hb := settlesTo_settle_of_eq (replyLate_eq hd)
    obtain ⟨hmode, hreps⟩ := enterDormant_mode_replies s.blk.dropModeReplies since
    refine ⟨_, does_next s Block.replyLate, hb.mode_eq.trans hmode, hb.replies_eq.trans hreps, fun hstay => ?_, fun hw hp => ?_⟩
    · obtain ⟨hdorm, hpll⟩ := enterDormant_asleep (b := s.blk.dropModeReplies) (since := since) hstay
      exact ⟨hb.dorm_eq.trans hdorm, (congrArg Clk.pll hb.clk_eq).trans hpll⟩
    · obtain ⟨hdorm, hpll⟩ := enterDormant_leaving (b := s.blk.dropModeReplies) (since := since) hw hp
      exact ⟨hb.dorm_eq.trans hdorm, (congrArg Clk.pll hb.clk_eq).trans hpll⟩
  · exact ⟨_, execDormantClockStop_eq hd hq hr ho ht, settle_settlesTo _⟩
  · refine ⟨_, rfl, fun hm hl hp hd => ?_, fun h => settlesTo_settle_of_eq (wakeLevel_stays h)⟩
    subst hl
    exact settlesTo_settle_of_eq (wakeLevel_leaves hm hp hd)
  · have hb := settle_settlesTo (s.blk.exitDone 0 temps drift)
    obtain ⟨v, ops, reps, ho, hv⟩ := exitDone_outline (temps := temps) (drift := drift) hd
    obtain ⟨hmode, hdorm, hkeys, hlc, hstate, hvoids⟩ := settlesTo_of_outline hb ho
    refine ⟨_, does_next s (·.exitDone 0 temps drift), hmode, hdorm, hkeys, hlc, fun c hc => (hstate c).trans (sleepers_wake hc),
      fun n hn => ?_⟩
    have hmem : n.cmdVoid ∈ v.map Prod.fst := hvoids ▸ List.mem_map_of_mem hn
    obtain ⟨x, hx, hxn⟩ := List.mem_map.1 hmem
    exact hxn.symm.trans (hv x hx)

end Sys2Proof.Machine

/-! Headers as rows of fields, and their parity (R82, R85, R112). -/

namespace Sys2Proof.Machine

section
variable {fs : List (Nat × Nat)} {w k x : Nat}

/-- The number that a row of fields spells, each field a width and a value, the first field in the lowest bits. -/
def packFields : List (Nat × Nat) → Nat
  | [] => 0
  | f :: t => f.2 + 2 ^ f.1 * packFields t

/-- Each value fits in its width. -/
def FieldsFit : List (Nat × Nat) → Prop
  | [] => True
  | f :: t => f.2 < 2 ^ f.1 ∧ FieldsFit t

theorem packFields_lt (h : FieldsFit fs) : packFields fs < 2 ^ (fs.map Prod.fst).sum := by
  induction fs with
  | nil => simp [packFields]
  | cons f t ih =>
    obtain ⟨hf, ht⟩ := h
    calc f.2 + 2 ^ f.1 * packFields t < 2 ^ f.1 * (packFields t + 1) := by rw [Nat.mul_succ]; omega
      _ ≤ 2 ^ f.1 * 2 ^ (t.map Prod.fst).sum := Nat.mul_le_mul_left _ (ih ht)
      _ = 2 ^ ((f :: t).map Prod.fst).sum := by rw [← Nat.pow_add, List.map_cons, List.sum_cons]

/-- A field is read back at the sum of the widths below it. -/
theorem FieldsFit.read {m v : Nat} (h : FieldsFit fs) (i : Nat) (hi : fs[i]? = some (m, v)) :
    bitsOf (packFields fs) ((fs.take i).map Prod.fst).sum m = v := by
  induction fs generalizing i with
  | nil => cases hi
  | cons f t ih =>
    obtain ⟨hf, ht⟩ := h
    cases i with
    | zero =>
      cases hi
      exact (Nat.add_mul_mod_self_left ..).trans (Nat.mod_eq_of_lt hf)
    | succ i =>
      have hshift : (f.2 + 2 ^ f.1 * packFields t) >>> f.1 = packFields t := by
        rw [Nat.shiftRight_eq_div_pow, Nat.add_mul_div_left _ _ (Nat.two_pow_pos _), Nat.div_eq_of_lt hf, Nat.zero_add]
      rw [← ih ht i hi, List.take_succ_cons, List.map_cons, List.sum_cons, bitsOf, packFields, Nat.shiftRight_add, hshift, bitsOf]

theorem testBit_of_bitsOf {v : Bool} (h : bitsOf x k 1 = v.toNat) : x.testBit k = v := by
  rw [Nat.testBit_eq_decide_div_mod_eq, ← Nat.shiftRight_eq_div_pow]
  have hv : x >>> k % 2 = v.toNat := h
  cases v <;> simp [hv]

theorem ite_two_pow (v : Bool) (n : Nat) : (if v then 2 ^ n else 0) = v.toNat * 2 ^ n := by
  cases v <;> simp

/-! ### Parity -/

theorem evenParity_succ (w x : Nat) : evenParity (w + 1) x = (x.testBit 0 ^^ evenParity w (x / 2)) := by
  simp only [evenParity, popcount, Nat.testBit_zero]
  rcases Nat.mod_two_eq_zero_or_one x with hx | hx <;> rcases Nat.mod_two_eq_zero_or_one (popcount w (x / 2)) with hp | hp <;>
    simp [hx, hp, Nat.add_mod]

theorem evenParity_succ_of_clear (h : x.testBit w = false) : evenParity (w + 1) x = evenParity w x := by
  induction w generalizing x with
  | zero => rw [evenParity_succ, h]; rfl
  | succ w ih => rw [evenParity_succ (w + 1), ih (by rwa [Nat.testBit_div_two]), ← evenParity_succ]

theorem two_pow_succ_half (k : Nat) : 2 ^ (k + 1) / 2 = 2 ^ k := by
  rw [Nat.pow_succ, Nat.mul_div_cancel _ Nat.two_pos]

/-- A single bit turned turns the parity. -/
theorem evenParity_xor_two_pow (hk : k < w) : evenParity w (x ^^^ 2 ^ k) = !evenParity w x := by
  induction w generalizing k x with
  | zero => exact absurd hk (Nat.not_lt_zero k)
  | succ w ih =>
    rw [evenParity_succ, evenParity_succ, Nat.testBit_xor, Nat.xor_div_two]
    cases k with
    | zero => simp
    | succ k =>
      rw [two_pow_succ_half, ih (Nat.lt_of_succ_lt_succ hk), Nat.testBit_two_pow_of_ne (Nat.succ_ne_zero k)]
      simp

theorem add_two_pow_eq_xor (h : x.testBit k = false) : x + 2 ^ k = x ^^^ 2 ^ k := by
  induction k generalizing x with
  | zero =>
    have heven : x % 2 = 0 := by simpa using h
    have hhalf : (x ^^^ 2 ^ 0) / 2 = x / 2 := by rw [Nat.xor_div_two]; simp
    have hodd : (x ^^^ 2 ^ 0) % 2 = (x + 2 ^ 0) % 2 := Nat.xor_mod_two_eq
    omega
  | succ k ih =>
    have hhalf : (x ^^^ 2 ^ (k + 1)) / 2 = x / 2 + 2 ^ k := by
      rw [Nat.xor_div_two, two_pow_succ_half, ih (by rwa [Nat.testBit_div_two])]
    have hlow : (x ^^^ 2 ^ (k + 1)) % 2 = (x + 2 ^ (k + 1)) % 2 := Nat.xor_mod_two_eq
    omega

/-- A clear parity bit, set where the parity is odd, makes the parity even. -/
theorem completed_eq_packFields {f : Bool → List (Nat × Nat)} (hset : packFields (f true) = packFields (f false) + 2 ^ k) (hk : k < w)
    (hclear : (packFields (f false)).testBit k = false) :
    ∃ parity, (if evenParity w (packFields (f false)) then packFields (f false) else packFields (f false) + 2 ^ k) =
      packFields (f parity) ∧ evenParity w (packFields (f parity)) = true := by
  split
  case isTrue he => exact ⟨false, rfl, he⟩
  case isFalse he =>
    refine ⟨true, hset.symm, ?_⟩
    rw [hset, add_two_pow_eq_xor hclear, evenParity_xor_two_pow hk, Bool.eq_false_iff.2 he, Bool.not_false]

end

/-! ### The request header (R82) -/

/-- The fields of a request header, HDR_PARITY last. -/
def hdrFields (op : Op) (h : ReqHdr) (parity : Bool) : List (Nat × Nat) :=
  [(4, op.code), (3, h.cls.toNat), (1, 0), (8, h.requester.toNat), (11, h.tag.toNat), (5, 0), (38, h.addr.toNat),
    (1, h.noAlloc.toNat), (1, h.forceSound.toNat), (55, 0), (1, parity.toNat)]

section
variable (op : Op) (h : ReqHdr) (parity : Bool)

theorem Op.code_lt : op.code < 2 ^ 4 := by cases op <;> decide

theorem Op.ofCode_code : Op.ofCode op.code = some op := by cases op <;> rfl

theorem hdrFields_fit : FieldsFit (hdrFields op h parity) :=
  ⟨op.code_lt, h.cls.isLt, Nat.two_pow_pos 1, h.requester.isLt, h.tag.isLt, Nat.two_pow_pos 5, h.addr.isLt, h.noAlloc.toNat_lt,
    h.forceSound.toNat_lt, Nat.two_pow_pos 55, parity.toNat_lt, trivial⟩

theorem hdrFields_parity : packFields (hdrFields op h true) = packFields (hdrFields op h false) + 2 ^ 127 := by
  simp only [hdrFields, packFields, Bool.toNat_true, Bool.toNat_false]
  omega

theorem hdrFields_unset : packFields (hdrFields op h false) =
    op.code + h.cls.toNat * 2 ^ 4 + h.requester.toNat * 2 ^ 8 + h.tag.toNat * 2 ^ 16 + h.addr.toNat * 2 ^ 32 +
      (if h.noAlloc then 2 ^ 70 else 0) + (if h.forceSound then 2 ^ 71 else 0) := by
  simp only [hdrFields, packFields, Bool.toNat_false, ite_two_pow]
  omega

/-- The header spelled is the row of its fields, with the parity bit that makes its parity even. -/
theorem encodeHdr_toNat : ∃ parity, (encodeHdr op h).toNat = packFields (hdrFields op h parity) ∧
    evenParity 128 (packFields (hdrFields op h parity)) = true := by
  have hclear : (packFields (hdrFields op h false)).testBit 127 = false :=
    testBit_of_bitsOf ((hdrFields_fit op h false).read 10 rfl)
  obtain ⟨parity, heq, heven⟩ := completed_eq_packFields (w := 128) (hdrFields_parity op h) (by decide) hclear
  refine ⟨parity, ?_, heven⟩
  rw [encodeHdr, ← hdrFields_unset, ← evenParity_succ_of_clear hclear, heq, BitVec.toNat_ofNat]
  exact Nat.mod_eq_of_lt (packFields_lt (hdrFields_fit op h parity))

theorem parseHdr_encodeHdr : parseHdr (encodeHdr op h) = hdrOf op h := by
  obtain ⟨parity, hx, heven⟩ := encodeHdr_toNat op h
  have hfit := hdrFields_fit op h parity
  simp only [parseHdr, hdrOf, ← BitVec.testBit_toNat, hx, Hdr.mk.injEq]
  exact ⟨hfit.read 0 rfl, hfit.read 1 rfl, hfit.read 3 rfl, hfit.read 4 rfl, hfit.read 6 rfl,
    testBit_of_bitsOf (hfit.read 7 rfl), testBit_of_bitsOf (hfit.read 8 rfl), heven⟩

theorem parityOk_turned (k : Fin 128) : (parseHdr (encodeHdr op h ^^^ (1#128 <<< k.val))).parityOk = false := by
  obtain ⟨parity, hx, heven⟩ := encodeHdr_toNat op h
  have hbit : (1#128 <<< k.val).toNat = 2 ^ k.val := by
    rw [← BitVec.twoPow_eq, BitVec.toNat_twoPow_of_lt k.isLt]
  show evenParity 128 (encodeHdr op h ^^^ (1#128 <<< k.val)).toNat = false
  rw [BitVec.toNat_xor, hbit, hx, evenParity_xor_two_pow k.isLt, heven, Bool.not_true]

end

/-! ### The response header (R85) -/

/-- The fields of a response header at level `lvl`, what the level leaves out at zero; `parity` is RSP_PARITY. -/
def rspFields (lvl : Nat) (r : Req) (latency : Nat) (parity : Bool) : List (Nat × Nat) :=
  [(8, if lvl ≤ 1 then mapped r.status else r.status), (11, r.tag), (8, r.requester), (1, r.rdata.isSome.toNat), (1, r.dup.toNat),
    (1, if lvl ≤ 1 then 0 else r.cancelHit.toNat), (1, if lvl ≤ 2 then 0 else r.snd.sampled.toNat), (1, parity.toNat),
    (3, if lvl ≤ 1 then 0 else r.served), (1, if lvl ≤ 2 then 0 else r.cacheHit.toNat), (12, 0),
    (16, if lvl ≤ 2 then 0 else latencyField latency)]

theorem ite_lt {c : Prop} [Decidable c] {a b n : Nat} (ha : a < n) (hb : b < n) : (if c then a else b) < n := by
  split <;> assumption

theorem latencyField_lt (latency : Nat) : latencyField latency < 2 ^ 16 := Nat.lt_succ_of_le (Nat.min_le_right ..)

theorem rspFields_parity (lvl : Nat) (r : Req) (latency : Nat) :
    packFields (rspFields lvl r latency true) = packFields (rspFields lvl r latency false) + 2 ^ 31 := by
  simp only [rspFields, packFields, Bool.toNat_true, Bool.toNat_false]
  omega

theorem rspFields_unset (lvl : Nat) (r : Req) (latency : Nat) :
    packFields (rspFields lvl r latency false) = rspBits lvl r latency := by
  simp only [rspFields, packFields, rspBits, Bool.toNat_false, ite_two_pow]
  split <;> split <;> omega

section
variable {r : Req} (hst : r.status < 2 ^ 8) (htag : r.tag < 2 ^ 11) (hrq : r.requester < 2 ^ 8) (hsv : r.served < 2 ^ 3)
include hst htag hrq hsv

theorem rspFields_fit (lvl latency : Nat) (parity : Bool) : FieldsFit (rspFields lvl r latency parity) := by
  have hmapped : mapped r.status < 2 ^ 8 := (Nat.div_mul_le_self ..).trans_lt hst
  exact ⟨ite_lt hmapped hst, htag, hrq, Bool.toNat_lt _, Bool.toNat_lt _, ite_lt Nat.two_pos (Bool.toNat_lt _),
    ite_lt Nat.two_pos (Bool.toNat_lt _), Bool.toNat_lt _, ite_lt (Nat.two_pow_pos 3) hsv, ite_lt Nat.two_pos (Bool.toNat_lt _),
    Nat.two_pow_pos 12, ite_lt (Nat.two_pow_pos 16) (latencyField_lt latency), trivial⟩

/-- The response header is the row of its fields, with the parity bit that makes its parity even. -/
theorem rspHeader_toNat (lvl latency : Nat) : ∃ parity, (rspHeader lvl r latency).toNat = packFields (rspFields lvl r latency parity) ∧
    evenParity 64 (packFields (rspFields lvl r latency parity)) = true := by
  have hfit := rspFields_fit hst htag hrq hsv lvl latency
  have hclear : (packFields (rspFields lvl r latency false)).testBit 31 = false :=
    testBit_of_bitsOf ((hfit false).read 7 rfl)
  obtain ⟨parity, heq, heven⟩ := completed_eq_packFields (w := 64) (rspFields_parity lvl r latency) (by decide) hclear
  refine ⟨parity, ?_, heven⟩
  rw [rspHeader, ← rspFields_unset, heq, BitVec.toNat_ofNat]
  exact Nat.mod_eq_of_lt (packFields_lt (hfit parity))

end

/-! ### Bytes and words (R9, R59) -/

theorem leBytes_succ (n x : Nat) : leBytes (n + 1) x = BitVec.ofNat 8 x :: leBytes n (x / 256) := by
  simp [leBytes, List.range_succ_eq_map, Nat.pow_succ', Nat.div_div_eq_div_mul]

theorem leNat_leBytes (n x : Nat) : leNat (leBytes n x) = x % 256 ^ n := by
  induction n generalizing x with
  | zero => simp [leBytes, leNat, Nat.mod_one]
  | succ n ih => rw [leBytes_succ, leNat, ih, BitVec.toNat_ofNat, Nat.pow_succ' (m := 256), Nat.mod_mul]

theorem leNat_lt (bs : List Byte) : leNat bs < 256 ^ bs.length := by
  induction bs with
  | nil => exact Nat.one_pos
  | cons b t ih =>
    have hb := b.isLt
    rw [leNat, List.length_cons, Nat.pow_succ']
    omega

theorem leBytes_leNat (bs : List Byte) : leBytes bs.length (leNat bs) = bs := by
  induction bs with
  | nil => rfl
  | cons b t ih =>
    have hb := b.isLt
    have hdiv : (b.toNat + 256 * leNat t) / 256 = leNat t := by omega
    have hmod : BitVec.ofNat 8 (b.toNat + 256 * leNat t) = b := BitVec.eq_of_toNat_eq (by rw [BitVec.toNat_ofNat]; omega)
    rw [List.length_cons, leNat, leBytes_succ, hdiv, ih, hmod]

theorem wordBytes_ofNat {bs : List Byte} (h : bs.length = 4) : wordBytes (BitVec.ofNat 32 (leNat bs)) = bs := by
  have hlt : leNat bs < 2 ^ 32 := by
    have := leNat_lt bs
    rwa [h] at this
  rw [wordBytes, BitVec.toNat_ofNat, Nat.mod_eq_of_lt hlt, ← h, leBytes_leNat]

/-- Whole words carry their bytes. -/
theorem flatMap_wordBytes_bytesWords {bs : List Byte} (h : bs.length % 4 = 0) : (bytesWords bs).flatMap wordBytes = bs := by
  induction bs using bytesWords.induct with
  | case1 a b c d t ih =>
    have ht : t.length % 4 = 0 := (Nat.add_mod_right t.length 4).symm.trans h
    rw [bytesWords, List.flatMap_cons, ih ht, wordBytes_ofNat rfl]
    rfl
  | case2 => rfl
  | case3 t hlong hne =>
    rcases t with _ | ⟨a, _ | ⟨b, _ | ⟨c, _ | ⟨d, t⟩⟩⟩⟩
    · exact absurd rfl hne
    · simp at h
    · simp at h
    · simp at h
    · exact (hlong a b c d t rfl).elim

/-! ### Packets (R112) -/

/-- The fields of the first header byte of a packet. -/
def flagFields (p : Packet) : List (Nat × Nat) := [(4, p.level.toNat), (1, p.reply.toNat), (1, p.event.toNat), (2, p.rsvd.toNat)]

theorem flagFields_fit (p : Packet) : FieldsFit (flagFields p) :=
  ⟨p.level.isLt, p.reply.toNat_lt, p.event.toNat_lt, p.rsvd.isLt, trivial⟩

/-- The first header byte of a packet. -/
def flagByte (p : Packet) : Byte := BitVec.ofNat 8 (packFields (flagFields p))

theorem flagByte_toNat (p : Packet) : (flagByte p).toNat = packFields (flagFields p) :=
  (BitVec.toNat_ofNat ..).trans (Nat.mod_eq_of_lt (packFields_lt (flagFields_fit p)))

theorem flagByte_fields (p : Packet) : (flagByte p).extractLsb' 0 4 = p.level ∧ (flagByte p).getLsbD 4 = p.reply ∧
    (flagByte p).getLsbD 5 = p.event ∧ (flagByte p).extractLsb' 6 2 = p.rsvd := by
  have hfit := flagFields_fit p
  simp only [← BitVec.testBit_toNat, flagByte_toNat]
  refine ⟨BitVec.eq_of_toNat_eq ?_, testBit_of_bitsOf (hfit.read 1 rfl), testBit_of_bitsOf (hfit.read 2 rfl), BitVec.eq_of_toNat_eq ?_⟩
  · exact (BitVec.extractLsb'_toNat ..).trans (flagByte_toNat p ▸ hfit.read 0 rfl)
  · exact (BitVec.extractLsb'_toNat ..).trans (flagByte_toNat p ▸ hfit.read 3 rfl)

theorem packetBytes_eq (p : Packet) : packetBytes p =
    flagByte p :: p.opcode :: p.length :: p.requester :: p.status :: p.detail ::
      (leBytes 2 p.seq.toNat ++ (leBytes 8 p.param0.toNat ++ p.body)) := by
  have hflags : packFields (flagFields p) =
      p.level.toNat + (if p.reply then 2 ^ 4 else 0) + (if p.event then 2 ^ 5 else 0) + p.rsvd.toNat * 64 := by
    simp only [flagFields, packFields, ite_two_pow]
    omega
  rw [flagByte, hflags, packetBytes, packetHead, List.append_assoc, List.append_assoc]
  rfl

theorem packetBytes_length (p : Packet) : (packetBytes p).length = 16 + p.body.length := by
  simp +arith [packetBytes, packetHead, leBytes]

theorem packetOf_packetBytes (p : Packet) : packetOf (packetBytes p) = p := by
  have hseq : leNat (leBytes 2 p.seq.toNat) = p.seq.toNat := (leNat_leBytes ..).trans (Nat.mod_eq_of_lt p.seq.isLt)
  have hparam : leNat (leBytes 8 p.param0.toNat) = p.param0.toNat := (leNat_leBytes ..).trans (Nat.mod_eq_of_lt p.param0.isLt)
  obtain ⟨hlevel, hreply, hevent, hrsvd⟩ := flagByte_fields p
  calc packetOf (packetBytes p)
    _ = ⟨(flagByte p).extractLsb' 0 4, (flagByte p).getLsbD 4, (flagByte p).getLsbD 5, (flagByte p).extractLsb' 6 2, p.opcode, p.length,
          p.requester, p.status, p.detail, BitVec.ofNat 16 (leNat (leBytes 2 p.seq.toNat)),
          BitVec.ofNat 64 (leNat (leBytes 8 p.param0.toNat)), p.body⟩ := by rw [packetBytes_eq]; rfl
    _ = p := by rw [hlevel, hreply, hevent, hrsvd, hseq, hparam, BitVec.ofNat_toNat, BitVec.ofNat_toNat]; rfl

/-- Settles O58: each header is a row of fields, read back by its place, and turning a bit turns its parity. -/
theorem headersComeBack : Obligations.HeadersComeBack := by
  refine ⟨fun op h => ⟨parseHdr_encodeHdr op h, op.ofCode_code, parityOk_turned op h⟩, fun lvl latency r hst htag hrq hsv => ?_,
    fun p => ⟨packetOf_packetBytes p, packetBytes_length p, fun h4 => ?_⟩⟩
  · intro x bit
    obtain ⟨parity, hx, heven⟩ := rspHeader_toNat hst htag hrq hsv lvl latency
    have hfit := rspFields_fit hst htag hrq hsv lvl latency parity
    have hbit : ∀ v, bit v = v.toNat := fun v => by cases v <;> rfl
    simp only [show x = packFields (rspFields lvl r latency parity) from hx, hbit]
    exact ⟨heven, hfit.read 0 rfl, hfit.read 1 rfl, hfit.read 2 rfl, hfit.read 3 rfl, hfit.read 4 rfl, hfit.read 5 rfl, hfit.read 6 rfl,
      hfit.read 8 rfl, hfit.read 9 rfl, hfit.read 10 rfl, hfit.read 11 rfl⟩
  · have hwords := flatMap_wordBytes_bytesWords (bs := packetBytes p) (by rw [packetBytes_length]; omega)
    exact ⟨by rw [hwords, packetOf_packetBytes], by rw [← flatMap_wordBytes_length, hwords, packetBytes_length]⟩

end Sys2Proof.Machine

/-! Packets that are refused at framing, the fields of replies, and the opcodes that only report. -/

namespace Sys2Proof.Machine

/-! ### Framing (R115) -/

section
variable {b : Block} {src : Src} {p : Packet} {q : QPkt}

/-- A packet that is next is taken and checked. -/
theorem packet_of_next (hon : b.mode ≠ .off) (hnext : (b.offered src p).nextPacket = some q) (hsrc : q.src = src) (hpkt : q.pkt = p)
    (act : Block → Src → Packet → Block) : b.packet src p act = (b.taken src p).check q act := by
  have htaken : b.taken src p = (b.offered src p).dequeue q := by
    unfold Block.taken
    rw [hnext]
  unfold Block.packet
  rw [if_neg (by simpa using hon), htaken]
  change (match (b.offered src p).nextPacket with
    | none => b.offered src p
    | some q => if q.src == src && q.pkt == p then ((b.offered src p).dequeue q).check q act else b.offered src p) = _
  rw [hnext]
  exact if_pos (by simp [hsrc, hpkt])

/-- The block that has answered a framing fault: event 0x20, and BAD_REQUEST with the fault's DETAIL. -/
def Block.misframed (b : Block) (q : QPkt) (d : Nat) : Block :=
  ({ b with free := b.free + 1 }.event 0x20
    [(1, srcNum q.src), (1, q.pkt.requester.toNat), (1, q.pkt.opcode.toNat), (1, d), (2, q.pkt.seq.toNat)]).reply q.src q.pkt stBadRequest d
    (b.refusedP0 q) []

theorem check_misframed (hpar : q.parityBad = false) (hd : b.framing q ≠ 0) (act : Block → Src → Packet → Block) :
    b.check q act = b.misframed q (b.framing q) := by
  unfold Block.check
  rw [if_neg (by simp [hpar])]
  exact if_pos (by simpa using hd)

theorem taken_framing : (b.taken src p).framing q = (b.offered src p).framing q := by
  unfold Block.taken
  split
  · rfl
  · rfl

end

/-- Settles O12: the packet is taken, and the check of its framing answers it. -/
theorem framingAnswersBadRequest : Obligations.FramingAnswersBadRequest := by
  intro src p q s d hon hd hnext hsrc hpkt hpar _ hframe
  have htaken : (s.blk.taken src p).framing q = d := taken_framing.trans hframe
  have heff : s.blk.packet src p (fun b _ _ => b) = (s.blk.taken src p).misframed q d := by
    rw [packet_of_next hon hnext hsrc hpkt, check_misframed hpar (by rw [htaken]; exact hd), htaken]
  obtain ⟨b, hexec, hb⟩ := does_settlesTo s (fun b =>
    if b.framing ⟨src, p, 16 + p.body.length, false, b.isLate src p⟩ = 0 then b else b.packet src p (fun b _ _ => b))
  rw [if_neg hd, heff] at hb
  subst hsrc hpkt
  exact ⟨b, hexec, hb⟩

/-! ### Replies (R112, R113) -/

/-- Padding adds zeros up to the next multiple. -/
theorem padTo_spec (n : Nat) (hn : 0 < n) (bs : List Byte) :
    (padTo n bs).take bs.length = bs ∧ (padTo n bs).length % n = 0 ∧ (∀ x ∈ (padTo n bs).drop bs.length, x = 0) ∧
      (padTo n bs).length < bs.length + n := by
  have hlt : (n - bs.length % n) % n < n := Nat.mod_lt _ hn
  have hsum : (bs.length + (n - bs.length % n) % n) % n = 0 := by
    rw [Nat.add_mod_mod, ← Nat.mod_add_mod, Nat.add_sub_cancel' (Nat.mod_lt _ hn).le, Nat.mod_self]
  refine ⟨?_, ?_, ?_, ?_⟩
  · simp [padTo]
  · simpa [padTo] using hsum
  · simp [padTo]
  · simpa [padTo] using hlt

theorem mkReply_length {lvl : Nat} {p : Packet} {st detail p0 : Nat} {body : List Byte} (h : body.length ≤ 496) :
    8 * (mkReply lvl p st detail p0 body).length.toNat = 16 + (mkReply lvl p st detail p0 body).body.length := by
  obtain ⟨-, hpad, -, hlt⟩ := padTo_spec 16 (by decide) body
  show 8 * (BitVec.ofNat 8 (unitsOf (padTo 16 body).length)).toNat = 16 + (padTo 16 body).length
  rw [BitVec.toNat_ofNat]
  unfold unitsOf
  omega

/-- Settles O14: the reply is `mkReply`, and beside the counters it changes the line of replies alone. -/
theorem replyFields : Obligations.ReplyFields := by
  intro b src p st detail p0 body hlen
  obtain ⟨c, hreply⟩ := reply_only b src p st detail p0 body
  obtain ⟨hbody, hpad, hzero, -⟩ := padTo_spec 16 (by decide) body
  refine ⟨mkReply (b.replyLevel src p.requester.toNat) p st detail p0 body, ?_, rfl, rfl, rfl, rfl, rfl, rfl, rfl, rfl, rfl, hbody, hpad,
    hzero, mkReply_length hlen⟩
  rw [hreply]
  rfl

/-! ### Packets that are executed (R124) -/

section
variable (b : Block) (src : Src) (p : Packet)

theorem taken_lc : (b.taken src p).lc = b.lc := by
  obtain ⟨k, d, q, r, h⟩ := taken_sansLog b src p
  exact (congrArg Block.lc h :)

theorem taken_cfg : (b.taken src p).cfg = b.cfg := by
  obtain ⟨k, d, q, r, h⟩ := taken_sansLog b src p
  exact (congrArg Block.cfg h :)

theorem taken_ops : (b.taken src p).pkts.ops = b.pkts.ops := by
  obtain ⟨k, d, q, r, h⟩ := taken_sansLog b src p
  exact (congrArg (fun x : Block => x.pkts.ops) h :)

end

/-- A packet that is executed, where its opcode's work on the block that it was taken from comes to `e`. -/
theorem packet_settles_of_eq {s : State} {op : Nat} {src : Src} {p : Packet} {act : Block → Src → Packet → Block} {e : Block}
    (hop : p.opcode = BitVec.ofNat 8 op) (hc : s.blk.clears src p = true) (he : act (s.blk.taken src p) src p = e) :
    ∃ b, s.packet op src p act = .next { s with blk := b } ∧ e.settlesTo b := by
  subst he
  exact packet_settles s op src p act hop hc

/-! ### Debug opcodes (R133) -/

section
variable {b : Block} {src : Src} {p : Packet} {g : Block → Block}

theorem inFactory_factory (h : b.lc = .factory) : b.inFactory src p g = g b := by
  unfold Block.inFactory
  rw [if_pos (by simp [h])]

theorem inFactory_other (h : b.lc ≠ .factory) :
    b.inFactory src p g = (b.debugDenied 1 p.opcode.toNat 0).echo src p stAccessDenied 0 := by
  unfold Block.inFactory
  rw [if_neg (by simpa using h)]

end

/-- Settles O13: each opcode is executed on the block that the packet has been taken from, the debug opcodes under their life-cycle
state. -/
theorem queryPingAndDebugSram : Obligations.QueryPingAndDebugSram := by
  refine ⟨?_, ?_⟩
  · intro src p s hc t
    exact ⟨fun hop => packet_settles s 0x03 src p _ hop hc, fun hop => packet_settles s 0x04 src p _ hop hc⟩
  · intro src p s hc t
    have hlc : t.lc = s.blk.lc := taken_lc s.blk src p
    refine ⟨fun hop hf => ?_, fun hop hf => ?_, fun hop hf => ?_, fun hop hf => ?_⟩
    · exact packet_settles_of_eq hop hc (inFactory_factory (hlc.trans hf))
    · exact packet_settles_of_eq hop hc (inFactory_factory (hlc.trans hf))
    · exact packet_settles_of_eq hop hc ((inFactory_other (hlc.trans_ne hf)).trans (by rw [hop]; rfl))
    · exact packet_settles_of_eq hop hc ((inFactory_other (hlc.trans_ne hf)).trans (by rw [hop]; rfl))

end Sys2Proof.Machine

/-! Slots that are bound and freed. -/

namespace Sys2Proof.Machine

/-! ### ATTACH (R125 to R128) -/

@[simp] theorem event_attachP0 (b : Block) (code : Nat) (l : List (Nat × Nat)) (rq level : Nat) :
    (b.event code l).attachP0 rq level = b.attachP0 rq level := by
  simp [Block.attachP0, Block.blockMin]

/-- A slot's records at their defaults, and its recipient's numbers from the start. -/
def Block.freshRecords (b : Block) (n : Nat) : Block :=
  { b with cfg := cfgReset (cfgReset b.cfg 0x0400 n) 0x0F02 n, recips := tput {} b.recips n {} }

/-- The slot bound to the inlet at the level, with empty buckets, fresh records and cleared counters, and event 0x24. -/
def Block.bindSlot (b : Block) (n : Nat) (i : Fin 4) (l : Nat) : Block :=
  let bound := b.modSlot n (fun _ => { attach := .att i l, polC := ⟨0, b.clk.cclk⟩, polP := ⟨0, b.clk.cclk⟩, reds := 0 })
  ((bound.freshRecords n).clearVis n).event 0x24 [(1, n), (1, i.val), (1, l)]

/-- An ATTACH that binds nothing is answered with LEVEL 0. -/
def Block.attachRefused (b : Block) (i : Fin 4) (p : Packet) (st detail : Nat) : Block :=
  b.pushReply (.inlet i) (mkReply 0 p st detail (b.attachP0 p.requester.toNat 0) []) false []

/-- ATTACH refuses a slot that is not free, and levels that do not meet; it binds otherwise. -/
theorem attach_eq (b : Block) (i : Fin 4) (p : Packet) :
    let n := p.requester.toNat
    let l := min (pP0 p 4 4) 3
    b.attach (.inlet i) p =
      if (b.slot n).attach ≠ .free then b.attachRefused i p stAccessDenied 0
      else if l < max (pP0 p 0 4) b.blockMin then
        (b.event 0x26 [(1, n), (1, i.val), (1, pP0 p 0 4), (1, pP0 p 4 4), (1, b.blockMin)]).attachRefused i p stRejected 1
      else (b.bindSlot n i l).reply (.inlet i) p stOk 0 ((b.bindSlot n i l).attachP0 n l) [] := by
  intro n l
  have hfree : (b.slot n).attach ≠ .free ↔ (!decide ((b.slot n).attach = .free)) = true := by simp
  simp only [hfree]
  rfl

/-! ### DETACH and its end (R129) -/

section
variable {b : Block} {src : Src} {p : Packet} {n : Nat} {i : Fin 4} {l : Nat}

/-- The slot detaches from now on, and the DETACH of it waits. -/
def Block.beginDetach (b : Block) (n : Nat) (i : Fin 4) (l : Nat) (src : Src) (p : Packet) : Block :=
  { b.modSlot n (fun k => { k with attach := .detaching i l }) with
    pkts := { b.pkts with detachers := b.pkts.detachers ++ [(n, src, p)] } }

theorem detach_attached (h : (b.slot (pP0 p 0 8)).attach = .att i l) : b.detach src p = b.beginDetach (pP0 p 0 8) i l src p := by
  simp only [Block.detach, h]
  rfl

theorem detach_other (h : ∀ i l, (b.slot (pP0 p 0 8)).attach ≠ .att i l) : b.detach src p = b.echo src p stOk 1 := by
  cases hs : (b.slot (pP0 p 0 8)).attach with
  | att i l => exact absurd hs (h i l)
  | detaching i l => simp only [Block.detach, hs]
  | free => simp only [Block.detach, hs]

/-- The DETACH of the slot waits no more. -/
def Block.dropDetacher (b : Block) (n : Nat) : Block :=
  { b with pkts := { b.pkts with detachers := b.pkts.detachers.filter (fun x => !(x.1 == n)) } }

/-- The slot is free, with fresh records and without its event packets, and event 0x25 names who detached it. -/
def Block.freeSlot (b : Block) (n : Nat) (i : Fin 4) (who : Nat) : Block :=
  let t := (b.modSlot n (fun k => { k with attach := .free })).freshRecords n
  ({ t with pkts := { t.pkts with evq := t.pkts.evq.filter (fun e => !(e.2.recipient == n)) } } : Block).event 0x25
    [(1, n), (1, i.val), (1, who)]

theorem detached_frees {d : Nat × Src × Packet} (hs : (b.slot n).attach = .detaching i l)
    (hd : b.pkts.detachers.find? (fun x => x.1 == n) = some d) (hidle : b.slotBusy n i = false) :
    b.detached n = ((b.dropDetacher n).echo d.2.1 d.2.2 stOk 0).freeSlot n i d.2.2.requester.toNat := by
  simp only [Block.detached, hs, hd, hidle]
  rfl

end

/-- Settles O15: a free slot is bound or left by the level it reaches, DETACH waits while the slot detaches, and its end frees the
slot. -/
theorem slotsBoundAndFreed : Obligations.SlotsBoundAndFreed := by
  refine ⟨?_, ?_, ?_⟩
  · intro i p s hc hop t n l
    obtain ⟨b, hexec, hb⟩ := packet_settles s 0x01 (.inlet i) p Block.attach hop hc
    refine ⟨b, hexec, fun hfree hl => ?_, fun hfree hl => ?_, fun hheld => ?_⟩
    · rw [attach_eq, if_neg (not_not.2 hfree), if_neg (Nat.not_lt.2 hl)] at hb
      exact ⟨hb, (le_max_right _ _).trans hl, min_le_right _ _⟩
    · rw [attach_eq, if_neg (not_not.2 hfree), if_pos hl, Block.attachRefused, event_attachP0] at hb
      exact hb
    · rw [attach_eq, if_pos hheld] at hb
      exact hb
  · intro src p s hc hop t n
    obtain ⟨b, hexec, hb⟩ := packet_settles s 0x02 src p Block.detach hop hc
    refine ⟨b, hexec, fun i l hs => ?_, fun hs => ?_⟩
    · rw [detach_attached hs] at hb
      exact hb
    · rw [detach_other hs] at hb
      exact hb
  · intro slot i l d s hs hd hidle t
    exact ⟨_, rfl, settlesTo_settle_of_eq (detached_frees hs hd hidle)⟩

end Sys2Proof.Machine

/-! Packets that write, read, stage and commit configuration. -/

namespace Sys2Proof.Machine

/-! ### Records and their instances (R136) -/

section
variable {b : Block} {src : Src} {p : Packet}

theorem recordRefused_none {id inst count size n : Nat} (hs : recShape id = some (size, n)) (hi : inst + count ≤ n) :
    recordRefused id inst count = none := by
  simp [recordRefused, hs, hi]

theorem configWrite_refused {k : Nat} (h : recordRefused (pP0 p 0 16) (pP0 p 16 16) (pP0 p 32 8) = some k) :
    b.configWrite src p = b.echo src p stRejected k := by
  simp only [Block.configWrite, Block.orRefuse, h]

theorem configRead_refused {k : Nat} (h : recordRefused (pP0 p 0 16) (pP0 p 16 16) (pP0 p 32 8) = some k) :
    b.configRead src p = b.echo src p stRejected k := by
  simp only [Block.configRead, Block.orRefuse, h]

/-- The instances of a CONFIG_WRITE with their bytes, `size` for each. -/
def writtenRecs (p : Packet) (size : Nat) : List (Nat × Nat × Nat) :=
  (List.range (pP0 p 32 8)).map (fun j => (pP0 p 0 16, pP0 p 16 16 + j, pBody p (size * j) size))

theorem configWrite_applies {size n : Nat} (hs : recShape (pP0 p 0 16) = some (size, n)) (hi : pP0 p 16 16 + pP0 p 32 8 ≤ n)
    (hc : 0 < pP0 p 32 8) :
    let k := checkPacket b (writtenRecs p size)
    b.configWrite src p = (b.unsaved.applyConfig k false (repEvents src p k.rep)).reply src p (repStatus k.rep) 0 p.param0.toNat
      (b.repBody k.rep) := by
  have hnone := recordRefused_none hs hi
  simp only [Block.configWrite, Block.orRefuse, hnone, hs, if_neg hc.ne']
  rfl

theorem configRead_returns {size n : Nat} (hs : recShape (pP0 p 0 16) = some (size, n)) (hi : pP0 p 16 16 + pP0 p 32 8 ≤ n) :
    b.configRead src p = b.reply src p stOk 0 p.param0.toNat (b.configBytes (pP0 p 0 16) (pP0 p 16 16) (pP0 p 32 8) (pP0 p 40 16)) := by
  simp only [Block.configRead, Block.orRefuse, recordRefused_none hs hi]

theorem configBytes_length (b : Block) (id inst count off : Nat) : (b.configBytes id inst count off).length ≤ 496 :=
  List.length_take_le _ _

theorem reply_noRebuild (b : Block) (src : Src) (p : Packet) (st detail p0 : Nat) (body : List Byte) :
    (b.reply src p st detail p0 body).noRebuild = b.noRebuild := by
  obtain ⟨c, h⟩ := reply_only b src p st detail p0 body
  rw [h]
  rfl

theorem reply_cfg (b : Block) (src : Src) (p : Packet) (st detail p0 : Nat) (body : List Byte) :
    (b.reply src p st detail p0 body).cfg = b.cfg := by
  obtain ⟨c, h⟩ := reply_only b src p st detail p0 body
  rw [h]

theorem taken_noRebuild (b : Block) (src : Src) (p : Packet) : (b.taken src p).noRebuild = b.noRebuild := by
  unfold Block.noRebuild
  rw [taken_ops]

/-- With no POND_REBUILD in progress, what waited leaves the configuration alone. -/
theorem Block.settlesTo.cfg_eq {e b : Block} (h : e.settlesTo b) (hn : e.noRebuild = true) : b.cfg = e.cfg :=
  congrArg (fun x : Frame => x.rest.cfg) (h.2.1 hn)

end

/-- Settles O16: what is not there is refused; otherwise a write applies what the checker leaves, and a read answers with the
bytes. -/
theorem configWriteAndRead : Obligations.ConfigWriteAndRead := by
  intro src p s hc t id inst count
  refine ⟨fun k hk => ⟨fun hop => ?_, fun hop => ?_⟩, fun size n hs hi => ⟨fun hop hcount => ?_, fun hop => ?_⟩⟩
  · exact packet_settles_of_eq hop hc (configWrite_refused hk)
  · exact packet_settles_of_eq hop hc (configRead_refused hk)
  · exact packet_settles_of_eq hop hc (configWrite_applies hs hi hcount)
  · obtain ⟨b, hexec, hb⟩ := packet_settles_of_eq hop hc (configRead_returns hs hi)
    refine ⟨b, hexec, hb, configBytes_length .., fun hn => ?_⟩
    rw [hb.cfg_eq (by rw [reply_noRebuild, taken_noRebuild, hn]), reply_cfg, taken_cfg]

/-! ### Transactions (R137 to R139) -/

section
variable {b : Block} {src : Src} {p : Packet}

/-- The transaction that a CONFIG_STAGE names: the open one of its source, or a new one. -/
def Block.stagedTxn (b : Block) (src : Src) (p : Packet) : Txn :=
  (b.txn? src (pP0 p 0 16)).getD { src := src, id := pP0 p 0 16 }

/-- What the record of a CONFIG_STAGE holds after it, and how many of its bytes are new. -/
def Block.stagedRec (b : Block) (src : Src) (p : Packet) (size : Nat) : Tab Nat × Nat :=
  stageBytes ((((b.stagedTxn src p).staged.find? (fun e => e.1 == pP0 p 16 16 && e.2.1 == pP0 p 32 16)).map (·.2.2)).getD [])
    (8 * pP0 p 48 16) (p.body.take (size - 8 * pP0 p 48 16))

/-- The stage would open a fifth transaction, or pass 32 KiB (R137). -/
def Block.overStaged (b : Block) (src : Src) (p : Packet) (new : Nat) : Bool :=
  ((b.txn? src (pP0 p 0 16)).isNone && 4 ≤ b.pkts.txns.length) || 32768 < b.stagedBytes + new

/-- The transaction after a CONFIG_STAGE whose record then holds `m.1`, with `m.2` new bytes. -/
def Block.grownTxn (b : Block) (src : Src) (p : Packet) (m : Tab Nat × Nat) : Txn :=
  { b.stagedTxn src p with
    staged := putStaged (pP0 p 16 16) (pP0 p 32 16) m.1 (b.stagedTxn src p).staged
    bytes := (b.stagedTxn src p).bytes + m.2
    last := b.clk.ns }

/-- The block with the transaction beside the others. -/
def Block.putTxn (b : Block) (src : Src) (id : Nat) (x : Txn) : Block :=
  { b with pkts := { b.pkts with txns := (b.dropTxn src id).pkts.txns ++ [x] } }

theorem overStaged_iff {new : Nat} : b.overStaged src p new = true ↔
    ((b.txn? src (pP0 p 0 16)).isNone = true ∧ 4 ≤ b.pkts.txns.length) ∨ 32768 < b.stagedBytes + new := by
  simp only [Block.overStaged, Bool.or_eq_true, Bool.and_eq_true, decide_eq_true_eq]

/-- CONFIG_STAGE that names what is there. -/
theorem configStage_eq {size n : Nat} (hs : recShape (pP0 p 16 16) = some (size, n)) (hi : pP0 p 32 16 < n) :
    b.configStage src p =
      if b.overStaged src p (b.stagedRec src p size).2 then b.reply src p stNotReady 0 0 []
      else (b.putTxn src (pP0 p 0 16) (b.grownTxn src p (b.stagedRec src p size))).echo src p stOk 0 := by
  simp only [Block.configStage, Block.orRefuse, recordRefused_none (count := 1) hs hi, hs]
  rfl

theorem configCommit_closed (h : b.txn? src (pP0 p 0 16) = none) :
    b.configCommit src p = b.answer src p stRejected 3 p.param0.toNat [] := by
  simp only [Block.configCommit, h]

/-- The check of a whole transaction. -/
def Block.txnCheck (b : Block) (x : Txn) : Chk := checkPacket b (x.staged.map (fun e => (e.1, e.2.1, b.stagedNat e)))

/-- CONFIG_COMMIT of an open transaction: CHECK_ONLY tells what the check finds; without it the results apply and the transaction is
closed. -/
theorem configCommit_open {x : Txn} (h : b.txn? src (pP0 p 0 16) = some x) :
    let k := b.txnCheck x
    let evs := repEvents src p k.rep
    b.configCommit src p =
      if pP0 p 16 1 == 1 then
        (b.events evs).replyHold src p (b.objects src p) (repStatus k.rep) 0 p.param0.toNat (reportBody k.rep 30 0)
      else
        ((b.dropTxn src (pP0 p 0 16)).unsaved.applyConfig k (k.carried.contains (0x0700, 0)) evs).replyHold src p (b.objects src p)
          (repStatus k.rep) 0 p.param0.toNat (b.repBody k.rep) := by
  simp only [Block.configCommit, h]
  rfl

theorem expire_due {x : Txn} {id : Nat} (h : b.txn? src id = some x) (hdue : x.last + 10 ^ 9 ≤ b.clk.ns) :
    b.expire src id = (b.dropTxn src id).event 0x27 [(1, srcNum src), (2, id), (4, x.bytes)] := by
  simp only [Block.expire, h]
  exact if_neg (Nat.not_lt.2 hdue)

end

/-- Settles O17: a stage is kept or turned away by what it would come to, a commit is told or applied, and a transaction is closed by an
abort or by its age. -/
theorem transactions : Obligations.Transactions := by
  intro src p s t txn others
  refine ⟨?_, ?_, ?_, ?_⟩
  · intro hc hop size n hs hi x old m more
    obtain ⟨b, hexec, hb⟩ := packet_settles s 0x12 src p Block.configStage hop hc
    have hover : (s.blk.taken src p).overStaged src p ((s.blk.taken src p).stagedRec src p size).2 = true ↔ more := overStaged_iff
    rw [configStage_eq hs hi] at hb
    refine ⟨b, hexec, fun hmore => ?_, fun hmore => ?_⟩
    · rw [if_pos (hover.2 hmore)] at hb
      exact hb
    · rw [if_neg (mt hover.1 hmore)] at hb
      exact hb
  · intro hc hop
    obtain ⟨b, hexec, hb⟩ := packet_settles s 0x13 src p Block.configCommit hop hc
    refine ⟨b, hexec, fun hnone => ?_, ?_⟩
    · rw [configCommit_closed hnone] at hb
      exact hb
    · intro x hx k st
      rw [configCommit_open hx] at hb
      refine ⟨fun hcheck => ?_, fun happly => ?_⟩
      · rw [if_pos (by simp [hcheck])] at hb
        exact hb
      · rw [if_neg (by simp [happly])] at hb
        exact hb
  · intro hc hop
    exact packet_settles s 0x14 src p Block.configAbort hop hc
  · intro id x hx hdue
    exact ⟨_, rfl, settlesTo_settle_of_eq (expire_due hx hdue)⟩

end Sys2Proof.Machine

/-! Addresses of ponds: runs of bits, the members of a mask, and the two decodes of a set. -/

namespace Sys2Proof.Machine

/-! ### Runs of bits -/

section
variable {x lo v w n k : Nat}

theorem bitsOf_lt : bitsOf x lo w < 2 ^ w := Nat.mod_lt _ (Nat.two_pow_pos w)

theorem bitsOf_add : bitsOf x lo (v + w) = bitsOf x lo v + bitsOf x (lo + v) w * 2 ^ v := by
  simp only [bitsOf, Nat.shiftRight_eq_div_pow]
  rw [pow_add, Nat.mod_mul, Nat.div_div_eq_div_mul, ← pow_add, mul_comm (2 ^ v)]

/-- A number is its low bits and the rest. -/
theorem bitsOf_zero_add_div : bitsOf x 0 w + x / 2 ^ w * 2 ^ w = x := Nat.mod_add_div' x (2 ^ w)

theorem foldl_add_eq_sum {α : Type} (f : α → Nat) (l : List α) : l.foldl (fun n e => n + f e) 0 = (l.map f).sum := by
  rw [List.sum_eq_foldl, List.foldl_map]

/-- The single bits of a run, each at its place, add up to the run. -/
theorem sum_bits_range : ((List.range n).map (fun k => bitsOf x (lo + k) 1 * 2 ^ (lo + k))).sum = bitsOf x lo n * 2 ^ lo := by
  induction n with
  | zero => simp [bitsOf, Nat.mod_one]
  | succ n ih => rw [List.sum_range_succ, ih, bitsOf_add, pow_add]; ring

end

/-- The number with the digits `f k` of base 2 below place `n`. -/
def digitSum (f : Nat → Nat) (n : Nat) : Nat := (List.range n).foldl (fun s k => s + f k * 2 ^ k) 0

theorem digitSum_succ (f : Nat → Nat) (n : Nat) : digitSum f (n + 1) = digitSum f n + f n * 2 ^ n := by
  simp [digitSum, List.range_succ]

section
variable {f : Nat → Nat} (hf : ∀ k, f k < 2)
include hf

theorem digitSum_lt (n : Nat) : digitSum f n < 2 ^ n := by
  induction n with
  | zero => simp [digitSum]
  | succ n ih =>
    have hdigit : f n * 2 ^ n ≤ 1 * 2 ^ n := Nat.mul_le_mul_right _ (Nat.le_of_lt_succ (hf n))
    rw [digitSum_succ, pow_succ]
    omega

theorem digitSum_digit {n k : Nat} (hk : k < n) : digitSum f n / 2 ^ k % 2 = f k := by
  induction n with
  | zero => omega
  | succ n ih =>
    rw [digitSum_succ]
    rcases Nat.lt_succ_iff_lt_or_eq.1 hk with hlt | rfl
    · obtain ⟨d, rfl⟩ := Nat.exists_eq_add_of_lt hlt
      rw [show f (k + d + 1) * 2 ^ (k + d + 1) = 2 ^ k * (2 * (f (k + d + 1) * 2 ^ d)) by ring,
        Nat.add_mul_div_left _ _ (Nat.two_pow_pos k), Nat.add_mul_mod_self_left, ih hlt]
    · rw [Nat.add_mul_div_right _ _ (Nat.two_pow_pos k), Nat.div_eq_of_lt (digitSum_lt hf k), zero_add]
      exact Nat.mod_eq_of_lt (hf k)

end

/-! ### The members of a mask (R161) -/

section
variable {mask c k : Nat}

theorem mem_maskList : c ∈ maskList mask ↔ c < 8 ∧ mask.testBit c = true := by simp [maskList]

theorem maskList_nodup : (maskList mask).Nodup := List.nodup_range.filter _

theorem memberChan_mem (hk : k < maskCount mask) : memberChan mask k ∈ maskList mask := by
  rw [memberChan, List.getD_eq_getElem _ _ hk]
  exact List.getElem_mem hk

theorem memberIdx_memberChan (hk : k < maskCount mask) : memberIdx mask (memberChan mask k) = k := by
  rw [memberChan, memberIdx, List.getD_eq_getElem _ _ hk]
  exact maskList_nodup.idxOf_getElem k hk

/-- Two masks with the same bits below 8 have the same members. -/
theorem maskList_congr {other : Nat} (h : ∀ c < 8, mask.testBit c = other.testBit c) : maskList mask = maskList other :=
  List.filter_congr fun c hc => h c (List.mem_range.1 hc)

/-- A mask has a member as soon as it has a bit below 8. -/
theorem maskCount_pos (hc : c < 8) (hbit : mask.testBit c = true) : 0 < maskCount mask :=
  List.length_pos_of_mem (mem_maskList.2 ⟨hc, hbit⟩)

end

/-- The mask that keeps of `mask` the channels below `n` that `exclude` does not name. -/
def keptMask (mask exclude n : Nat) : Nat :=
  ((List.range n).filter (fun c => mask.testBit c)).foldl (fun m c => if exclude.testBit c then m else m + 2 ^ c) 0

theorem keptMask_succ (mask exclude n : Nat) :
    keptMask mask exclude (n + 1) = keptMask mask exclude n + (mask.testBit n && !exclude.testBit n).toNat * 2 ^ n := by
  cases hm : mask.testBit n <;> cases he : exclude.testBit n <;> simp [keptMask, List.range_succ, hm, he]

theorem keptMask_eq_digitSum (mask exclude n : Nat) :
    keptMask mask exclude n = digitSum (fun c => (mask.testBit c && !exclude.testBit c).toNat) n := by
  induction n with
  | zero => rfl
  | succ n ih => rw [keptMask_succ, ih, digitSum_succ]

section
variable {t : Tab Nat} {p : Place} {c : Nat}

/-- The bits of the member mask of a pond (R161). -/
theorem testBit_memberMask (hc : c < 8) :
    (memberMask t p).testBit c = ((setMask t p.set).testBit c && !p.exclude.testBit c) := by
  change (keptMask (setMask t p.set) p.exclude 8).testBit c = _
  rw [Nat.testBit_eq_decide_div_mod_eq, keptMask_eq_digitSum, digitSum_digit (fun _ => Bool.toNat_lt _) hc]
  simp

theorem memberMask_lt : memberMask t p < 2 ^ 8 := by
  change keptMask (setMask t p.set) p.exclude 8 < _
  rw [keptMask_eq_digitSum]
  exact digitSum_lt (fun _ => Bool.toNat_lt _) 8

/-- A pond that excludes no channel has the members of its set. -/
theorem maskList_memberMask (h : p.exclude = 0) : maskList (memberMask t p) = maskList (setMask t p.set) :=
  maskList_congr fun c hc => by simp [testBit_memberMask hc, h]

/-- A member of a pond is a channel of its set that the pond does not exclude. -/
theorem of_mem_memberMask (h : c ∈ maskList (memberMask t p)) :
    c < 8 ∧ (setMask t p.set).testBit c = true ∧ p.exclude.testBit c = false := by
  obtain ⟨hc, hbit⟩ := mem_maskList.1 h
  rw [testBit_memberMask hc] at hbit
  exact ⟨hc, by simpa using hbit⟩

theorem maskCount_memberMask_pos (h : memberMask t p ≠ 0) : 0 < maskCount (memberMask t p) := by
  obtain ⟨c, hbit⟩ := Nat.exists_testBit_of_ne_zero h
  refine maskCount_pos (c := c) ?_ hbit
  by_contra hc
  rw [Nat.testBit_lt_two_pow (memberMask_lt.trans_le (Nat.pow_le_pow_right (by decide) (Nat.not_lt.1 hc)))] at hbit
  cases hbit

theorem maskCount_setMask_pos (h : memberMask t p ≠ 0) : 0 < maskCount (setMask t p.set) := by
  obtain ⟨hc, hbit, -⟩ := of_mem_memberMask (memberChan_mem (maskCount_memberMask_pos h))
  exact maskCount_pos hc hbit

end

/-! ### The entries of a set map (R157, R161) -/

section
variable {t : Tab Nat} {s : Nat} {g : Geo}

theorem entries_length (g : Geo) : (entries g).length = g.hb := by
  cases hd : g.ddr4 <;> simp [entries, Geo.hb, Geo.sc, Geo.bg, Geo.ba, hd]

/-- SC and BG2 are the entries that DDR4 lacks. -/
theorem notMem_entries_of_ddr4 (h : g.ddr4 = true) : 3 ∉ entries g ∧ 6 ∉ entries g := by
  simp [entries, Geo.sc, Geo.bg, Geo.ba, h]

theorem positions_fst : (positions t s g).map Prod.fst = entries g := by
  simp only [positions]
  split
  · exact List.zipIdx_map_fst 0 _
  · simp [Function.comp_def]

theorem positions_length : (positions t s g).length = g.hb := by
  rw [← List.length_map (f := Prod.fst), positions_fst, entries_length]

/-- Distinct positions below HB are all the positions of the sub-region. -/
theorem positions_snd_perm (hnodup : ((positions t s g).map Prod.snd).Nodup) (hlt : ∀ e ∈ positions t s g, e.2 < g.hb) :
    ((positions t s g).map Prod.snd).Perm (List.range g.hb) := by
  refine (List.subperm_of_subset hnodup fun k hk => ?_).perm_of_length_le (by simp [positions_length])
  obtain ⟨e, he, rfl⟩ := List.mem_map.1 hk
  exact List.mem_range.2 (hlt e he)

theorem find_fst_of_mem {l : List (Nat × Nat)} {e : Nat × Nat} (hnodup : (l.map Prod.fst).Nodup) (he : e ∈ l) :
    l.find? (fun d => d.1 == e.1) = some e := by
  induction l with
  | nil => cases he
  | cons d l ih =>
    obtain ⟨hd, hl⟩ := List.nodup_cons.1 hnodup
    rcases List.mem_cons.1 he with rfl | he
    · simp
    · have hne : d.1 ≠ e.1 := fun heq => hd (heq ▸ List.mem_map_of_mem he)
      rw [List.find?_cons_of_neg (by simpa using hne), ih hl he]

theorem find_position {e : Nat × Nat} (he : e ∈ positions t s g) : (positions t s g).find? (fun d => d.1 == e.1) = some e :=
  find_fst_of_mem (positions_fst ▸ List.Nodup.filter _ (by decide)) he

theorem mem_entries_of_mem_positions {e : Nat × Nat} (he : e ∈ positions t s g) : e.1 ∈ entries g :=
  positions_fst ▸ List.mem_map_of_mem he

/-- An entry that does not exist has no position. -/
theorem find_position_eq_none {j : Nat} (hj : j ∉ entries g) : (positions t s g).find? (fun d => d.1 == j) = none := by
  refine List.find?_eq_none.2 fun e he heq => hj ?_
  rw [← beq_iff_eq.1 heq]
  exact mem_entries_of_mem_positions he

end

/-! ### The decode of a set, field by field (R160, R161) -/

/-- COL_LOW_BITS of a set. -/
def colLow (t : Tab Nat) (s : Nat) : Nat := cfgGet t 0x1200 s 8

/-- The bit of an address at which the sub-region begins. -/
def subStart (t : Tab Nat) (s ch : Nat) : Nat := 6 + colLow t s + ch

/-- The bit of an address at which the upper region begins. -/
def upStart (t : Tab Nat) (s ch : Nat) : Nat := subStart t s ch + (setGeo t s).hb + ((setGeo t s).colb - colLow t s)

/-- The bit of entry `j` whose base bit is bit `k` of the address. -/
def mapBit (t : Tab Nat) (s ch a j k : Nat) : Nat :=
  (bitsOf a k 1 + selParity (a / 2 ^ upStart t s ch) (xorMask t s j)) % 2

/-- The bit that an address gives entry `j`: 0 where the entry does not exist. -/
def entryBit (t : Tab Nat) (s ch a j : Nat) : Nat :=
  match (positions t s (setGeo t s)).find? (fun e => e.1 == j) with
  | some e => mapBit t s ch a j (subStart t s ch + e.2)
  | none => 0

/-- The bit of entry `j` in coordinates. -/
def coordBit (c : Coord) (j : Nat) : Nat :=
  if j == 3 then c.sc % 2 else if j ≤ 6 then c.bg / 2 ^ (j - 4) % 2 else c.ba / 2 ^ (j - 7) % 2

/-- The upper region that coordinates come from. -/
def coordUp (g : Geo) (c : Coord) : Nat := c.rank + c.cid * 2 ^ g.rk + c.row * 2 ^ (g.rk + g.cid)

section
variable {t : Tab Nat} {s ch a : Nat}

theorem decodeSet_eq : decodeSet t s ch a =
    { chan := digitSum (fun k => mapBit t s ch a k (6 + colLow t s + k)) ch
      sc := entryBit t s ch a 3
      rank := a / 2 ^ upStart t s ch % 2 ^ (setGeo t s).rk
      cid := a / 2 ^ upStart t s ch / 2 ^ (setGeo t s).rk % 2 ^ (setGeo t s).cid
      bg := entryBit t s ch a 4 + 2 * entryBit t s ch a 5 + 4 * entryBit t s ch a 6
      ba := entryBit t s ch a 7 + 2 * entryBit t s ch a 8
      row := a / 2 ^ upStart t s ch / 2 ^ ((setGeo t s).rk + (setGeo t s).cid)
      col := bitsOf a 6 (colLow t s) +
        bitsOf a (subStart t s ch + (setGeo t s).hb) ((setGeo t s).colb - colLow t s) * 2 ^ colLow t s } := rfl

theorem encodeSet_eq {idx : Nat} {c : Coord} : encodeSet t s ch idx c =
    c.col % 2 ^ colLow t s * 2 ^ 6 +
      ((List.range ch).map fun k =>
        (idx / 2 ^ k % 2 + selParity (coordUp (setGeo t s) c) (xorMask t s k)) % 2 * 2 ^ (6 + colLow t s + k)).sum +
      ((positions t s (setGeo t s)).map fun e =>
        (coordBit c e.1 + selParity (coordUp (setGeo t s) c) (xorMask t s e.1)) % 2 * 2 ^ (subStart t s ch + e.2)).sum +
      c.col / 2 ^ colLow t s * 2 ^ (subStart t s ch + (setGeo t s).hb) + coordUp (setGeo t s) c * 2 ^ upStart t s ch := by
  rw [← foldl_add_eq_sum, ← foldl_add_eq_sum]
  rfl

theorem mapBit_lt (j k : Nat) : mapBit t s ch a j k < 2 := Nat.mod_lt _ (by decide)

/-- The parity of the masked upper bits, taken off again, leaves the base bit (R163). -/
theorem mapBit_add_selParity (j k : Nat) :
    (mapBit t s ch a j k + selParity (a / 2 ^ upStart t s ch) (xorMask t s j)) % 2 = bitsOf a k 1 := by
  have hbit : bitsOf a k 1 < 2 := bitsOf_lt
  unfold mapBit
  omega

theorem entryBit_of_mem {e : Nat × Nat} (he : e ∈ positions t s (setGeo t s)) :
    entryBit t s ch a e.1 = mapBit t s ch a e.1 (subStart t s ch + e.2) := by
  rw [entryBit, find_position he]

theorem entryBit_of_notMem {j : Nat} (hj : j ∉ entries (setGeo t s)) : entryBit t s ch a j = 0 := by
  rw [entryBit, find_position_eq_none hj]

theorem entryBit_lt (j : Nat) : entryBit t s ch a j < 2 := by
  unfold entryBit
  split
  · exact mapBit_lt _ _
  · decide

/-- Coordinates hold the bit of every existing entry at its place. -/
theorem coordBit_decodeSet {j : Nat} (hj : j ∈ entries (setGeo t s)) : coordBit (decodeSet t s ch a) j = entryBit t s ch a j := by
  have h3 : entryBit t s ch a 3 < 2 := entryBit_lt 3
  have h4 : entryBit t s ch a 4 < 2 := entryBit_lt 4
  have h5 : entryBit t s ch a 5 < 2 := entryBit_lt 5
  have h6 : entryBit t s ch a 6 < 2 := entryBit_lt 6
  have h7 : entryBit t s ch a 7 < 2 := entryBit_lt 7
  have h8 : entryBit t s ch a 8 < 2 := entryBit_lt 8
  have hmem : j ∈ [3, 4, 5, 6, 7, 8] := List.mem_of_mem_filter hj
  fin_cases hmem <;> simp [coordBit, decodeSet_eq] <;> omega

/-- Rank, chip ID and row make up the upper region again. -/
theorem coordUp_decodeSet : coordUp (setGeo t s) (decodeSet t s ch a) = a / 2 ^ upStart t s ch := by
  simp only [coordUp, decodeSet_eq, pow_add, ← Nat.div_div_eq_div_mul]
  generalize a / 2 ^ upStart t s ch = up
  have hrank := Nat.mod_add_div' up (2 ^ (setGeo t s).rk)
  have hcid := Nat.mod_add_div' (up / 2 ^ (setGeo t s).rk) (2 ^ (setGeo t s).cid)
  calc _ = up % 2 ^ (setGeo t s).rk + (up / 2 ^ (setGeo t s).rk % 2 ^ (setGeo t s).cid +
        up / 2 ^ (setGeo t s).rk / 2 ^ (setGeo t s).cid * 2 ^ (setGeo t s).cid) * 2 ^ (setGeo t s).rk := by ring
    _ = up := by rw [hcid, hrank]

theorem decodeSet_col_mod : (decodeSet t s ch a).col % 2 ^ colLow t s = bitsOf a 6 (colLow t s) := by
  rw [decodeSet_eq, Nat.add_mul_mod_self_right, Nat.mod_eq_of_lt bitsOf_lt]

theorem decodeSet_col_div : (decodeSet t s ch a).col / 2 ^ colLow t s =
    bitsOf a (subStart t s ch + (setGeo t s).hb) ((setGeo t s).colb - colLow t s) := by
  rw [decodeSet_eq, Nat.add_mul_div_right _ _ (Nat.two_pow_pos _), Nat.div_eq_of_lt bitsOf_lt, zero_add]

theorem decodeSet_chan_lt : (decodeSet t s ch a).chan < 2 ^ ch := digitSum_lt (fun k => mapBit_lt k _) ch

theorem decodeSet_sc_lt : (decodeSet t s ch a).sc < 2 ^ (setGeo t s).sc := by
  change entryBit t s ch a 3 < _
  cases hd : (setGeo t s).ddr4 with
  | false => simpa [Geo.sc, hd] using entryBit_lt 3
  | true => simp [Geo.sc, hd, entryBit_of_notMem (notMem_entries_of_ddr4 hd).1]

theorem decodeSet_bg_lt : (decodeSet t s ch a).bg < 2 ^ (setGeo t s).bg := by
  change entryBit t s ch a 4 + 2 * entryBit t s ch a 5 + 4 * entryBit t s ch a 6 < _
  have h4 : entryBit t s ch a 4 < 2 := entryBit_lt 4
  have h5 : entryBit t s ch a 5 < 2 := entryBit_lt 5
  cases hd : (setGeo t s).ddr4 with
  | false =>
    have h6 : entryBit t s ch a 6 < 2 := entryBit_lt 6
    simp only [Geo.bg, hd, Bool.false_eq_true, if_false]
    omega
  | true =>
    simp only [Geo.bg, hd, if_true, entryBit_of_notMem (notMem_entries_of_ddr4 hd).2]
    omega

theorem decodeSet_ba_lt : (decodeSet t s ch a).ba < 2 ^ (setGeo t s).ba := by
  change entryBit t s ch a 7 + 2 * entryBit t s ch a 8 < 2 ^ 2
  have h7 : entryBit t s ch a 7 < 2 := entryBit_lt 7
  have h8 : entryBit t s ch a 8 < 2 := entryBit_lt 8
  omega

theorem decodeSet_col_lt (hcl : colLow t s ≤ (setGeo t s).colb) : (decodeSet t s ch a).col < 2 ^ (setGeo t s).colb := by
  rw [← Nat.sub_add_cancel hcl, pow_add, ← Nat.div_lt_iff_lt_mul (Nat.two_pow_pos _), decodeSet_col_div]
  exact bitsOf_lt

/-! ### The reverse decode of a set (R163) -/

/-- The layout of a block address: column, channel bits, sub-region, column and upper region (R160). -/
theorem address_layout (ha : a % 64 = 0) :
    bitsOf a 6 (colLow t s) * 2 ^ 6 + bitsOf a (6 + colLow t s) ch * 2 ^ (6 + colLow t s) +
      bitsOf a (subStart t s ch) (setGeo t s).hb * 2 ^ subStart t s ch +
      bitsOf a (subStart t s ch + (setGeo t s).hb) ((setGeo t s).colb - colLow t s) * 2 ^ (subStart t s ch + (setGeo t s).hb) +
      a / 2 ^ upStart t s ch * 2 ^ upStart t s ch = a := by
  have hbyte : bitsOf a 0 6 = 0 := ha
  conv_rhs => rw [← bitsOf_zero_add_div (x := a) (w := upStart t s ch)]
  simp only [upStart, subStart, bitsOf_add, hbyte, zero_add]

/-- The channel bits of an address come back from the member index. -/
theorem chanBits_comeBack : ((List.range ch).map fun k =>
    ((decodeSet t s ch a).chan / 2 ^ k % 2 + selParity (a / 2 ^ upStart t s ch) (xorMask t s k)) % 2 * 2 ^ (6 + colLow t s + k)).sum =
      bitsOf a (6 + colLow t s) ch * 2 ^ (6 + colLow t s) := by
  rw [← sum_bits_range]
  refine congrArg List.sum (List.map_congr_left fun k hk => ?_)
  have hdigit : (decodeSet t s ch a).chan / 2 ^ k % 2 = mapBit t s ch a k (6 + colLow t s + k) :=
    digitSum_digit (fun k => mapBit_lt k _) (List.mem_range.1 hk)
  rw [hdigit, mapBit_add_selParity]

/-- The sub-region of an address comes back from the field bits. -/
theorem subRegion_comesBack (hnodup : ((positions t s (setGeo t s)).map Prod.snd).Nodup)
    (hlt : ∀ e ∈ positions t s (setGeo t s), e.2 < (setGeo t s).hb) :
    ((positions t s (setGeo t s)).map fun e =>
      (coordBit (decodeSet t s ch a) e.1 + selParity (a / 2 ^ upStart t s ch) (xorMask t s e.1)) % 2 * 2 ^ (subStart t s ch + e.2)).sum =
      bitsOf a (subStart t s ch) (setGeo t s).hb * 2 ^ subStart t s ch := by
  rw [← sum_bits_range, ← ((positions_snd_perm hnodup hlt).map _).sum_nat, List.map_map]
  refine congrArg List.sum (List.map_congr_left fun e he => ?_)
  rw [coordBit_decodeSet (mem_entries_of_mem_positions he), entryBit_of_mem he, mapBit_add_selParity]
  rfl

/-- The reverse decode of a set gives back the block address that was decoded. -/
theorem encodeSet_decodeSet (hnodup : ((positions t s (setGeo t s)).map Prod.snd).Nodup)
    (hlt : ∀ e ∈ positions t s (setGeo t s), e.2 < (setGeo t s).hb) (ha : a % 64 = 0) :
    encodeSet t s ch (decodeSet t s ch a).chan (decodeSet t s ch a) = a := by
  rw [encodeSet_eq, coordUp_decodeSet, decodeSet_col_mod, decodeSet_col_div, chanBits_comeBack, subRegion_comesBack hnodup hlt,
    address_layout ha]

end

/-! The two decodes of a pond's placement, hashed and striped. -/

/-! ### Hashed ponds -/

/-- Each entry of the set map has a position of its own in the sub-region (R165). -/
def SetMapOk (t : Tab Nat) (s : Nat) : Prop :=
  ((positions t s (setGeo t s)).map Prod.snd).Nodup ∧ ∀ e ∈ positions t s (setGeo t s), e.2 < (setGeo t s).hb

section
variable {t : Tab Nat} {p : Place} {rel : Nat}

/-- The set address of a pond-relative address of a hashed pond. -/
def Place.hashedAddr (p : Place) (rel : Nat) : Nat := p.setOff * 2 ^ 28 + rel

/-- CH of a hashed pond. -/
def hashedBits (t : Tab Nat) (p : Place) : Nat := Nat.log2 (maskCount (setMask t p.set))

theorem placeDecode_hashed (hs : p.striped = false) : placeDecode t p rel =
    { decodeSet t p.set (hashedBits t p) (p.hashedAddr rel) with
      chan := memberChan (memberMask t p) (decodeSet t p.set (hashedBits t p) (p.hashedAddr rel)).chan } := by
  simp [placeDecode, hs, hashedBits, Place.hashedAddr]

theorem placeEncode_hashed {c : Coord} (hs : p.striped = false) (hchan : (memberMask t p).testBit c.chan = true)
    (ha : encodeSet t p.set (hashedBits t p) (memberIdx (memberMask t p) c.chan) c = p.hashedAddr rel) (hrel : rel < p.size * 2 ^ 28) :
    placeEncode t p c = some rel := by
  unfold hashedBits Place.hashedAddr at ha
  simpa [placeEncode, hs, hchan, ha] using hrel

/-- 1, 2, 4 and 8 are the powers of their logarithms. -/
theorem two_pow_log2_of_mem {m : Nat} (hm : m ∈ [1, 2, 4, 8]) : 2 ^ Nat.log2 m = m :=
  (by decide : ∀ k ∈ [1, 2, 4, 8], 2 ^ Nat.log2 k = k) m hm

/-- The member index of a hashed pond that excludes no channel is one of its members. -/
theorem hashed_chan_lt {a : Nat} (hex : p.exclude = 0) (hm : maskCount (setMask t p.set) ∈ [1, 2, 4, 8]) :
    (decodeSet t p.set (hashedBits t p) a).chan < maskCount (memberMask t p) := by
  have hcount : 2 ^ hashedBits t p = maskCount (memberMask t p) := by
    rw [hashedBits, two_pow_log2_of_mem hm, maskCount, maskCount, maskList_memberMask hex]
  exact hcount ▸ decodeSet_chan_lt

/-- An address of a hashed pond comes back. -/
theorem placeEncode_placeDecode_hashed (hs : p.striped = false) (hmap : SetMapOk t p.set) (hex : p.exclude = 0)
    (hm : maskCount (setMask t p.set) ∈ [1, 2, 4, 8]) (hrel : rel < p.size * 2 ^ 28) (hblk : rel % 64 = 0) :
    placeEncode t p (placeDecode t p rel) = some rel := by
  have hlt : (decodeSet t p.set (hashedBits t p) (p.hashedAddr rel)).chan < maskCount (memberMask t p) := hashed_chan_lt hex hm
  rw [placeDecode_hashed hs]
  refine placeEncode_hashed hs (mem_maskList.1 (memberChan_mem hlt)).2 ?_ hrel
  dsimp only
  rw [memberIdx_memberChan hlt]
  exact encodeSet_decodeSet hmap.1 hmap.2 (by unfold Place.hashedAddr; omega)

end

/-! ### Striped ponds (R162) -/

section
variable {t : Tab Nat} {p : Place} {rel : Nat}

/-- W0: where the part of each channel begins (R163). -/
def stripeBase (t : Tab Nat) (p : Place) : Nat := p.setOff * 2 ^ 28 / maskCount (setMask t p.set)

/-- w: the address within the channel (R162). -/
def stripeAddr (t : Tab Nat) (p : Place) (rel : Nat) : Nat :=
  stripeBase t p + (rel / (p.grainBytes * maskCount (memberMask t p)) * p.grainBytes + rel % p.grainBytes)

/-- The member index of an address (R162). -/
def stripeIdx (t : Tab Nat) (p : Place) (rel : Nat) : Nat := rel / p.grainBytes % maskCount (memberMask t p)

theorem grainBytes_pos : 0 < p.grainBytes := Nat.mul_pos (by decide) (Nat.two_pow_pos _)

theorem grainBytes_dvd (hg : p.grain ≤ 8) : p.grainBytes ∣ 2 ^ 25 := by
  have hpow : p.grainBytes = 2 ^ (8 + p.grain) := (pow_add 2 8 p.grain).symm
  exact hpow ▸ pow_dvd_pow 2 (by omega)

theorem dvd_grainBytes : 64 ∣ p.grainBytes := Dvd.dvd.mul_right (by decide) _

/-- The part of each channel begins at a multiple of 32 MiB: M divides 8 or SET_OFFSET. -/
theorem dvd_stripeBase (hpos : 0 < maskCount (setMask t p.set))
    (hm : maskCount (setMask t p.set) ∈ [1, 2, 4, 8] ∨ p.setOff % maskCount (setMask t p.set) = 0) : 2 ^ 25 ∣ stripeBase t p := by
  unfold stripeBase
  generalize maskCount (setMask t p.set) = m at *
  rcases hm with hm | hm
  · obtain ⟨d, hd⟩ := (by decide : ∀ k ∈ [1, 2, 4, 8], k ∣ 8) m hm
    refine ⟨p.setOff * d, Nat.div_eq_of_eq_mul_right hpos ?_⟩
    calc p.setOff * 2 ^ 28 = p.setOff * 8 * 2 ^ 25 := by ring
      _ = m * (2 ^ 25 * (p.setOff * d)) := by rw [hd]; ring
  · obtain ⟨d, hd⟩ := Nat.dvd_of_mod_eq_zero hm
    refine ⟨8 * d, Nat.div_eq_of_eq_mul_right hpos ?_⟩
    rw [hd]
    ring

/-- A start that is a whole number of grains moves the address of a channel and leaves the member. -/
theorem placeDecode_striped (hs : p.striped = true) (hmp : 0 < maskCount (memberMask t p)) (hdvd : p.grainBytes ∣ stripeBase t p) :
    placeDecode t p rel =
      { decodeSet t p.set 0 (stripeAddr t p rel) with chan := memberChan (memberMask t p) (stripeIdx t p rel) } := by
  obtain ⟨k, hk⟩ := hdvd
  have hg : 0 < p.grainBytes := grainBytes_pos
  simp only [placeDecode, hs, if_true, stripeAddr, stripeIdx]
  rw [show p.setOff * 2 ^ 28 / maskCount (setMask t p.set) = p.grainBytes * k from hk, hk]
  generalize maskCount (memberMask t p) = mp at *
  generalize p.grainBytes = g at *
  have hquot : (g * k * mp + rel) / (g * mp) = k + rel / (g * mp) := by
    rw [show g * k * mp = g * mp * k by ring, Nat.mul_add_div (Nat.mul_pos hg hmp)]
  have hgrain : (g * k * mp + rel) / g = mp * k + rel / g := by
    rw [show g * k * mp = g * (mp * k) by ring, Nat.mul_add_div hg]
  have hrest : (g * k * mp + rel) % g = rel % g := by
    rw [show g * k * mp = g * (k * mp) by ring, Nat.mul_add_mod]
  rw [hquot, hgrain, hrest, Nat.mul_add_mod, show (k + rel / (g * mp)) * g + rel % g = g * k + (rel / (g * mp) * g + rel % g) by ring]

theorem stripeAddr_sub_base : stripeAddr t p rel - stripeBase t p =
    rel / (p.grainBytes * maskCount (memberMask t p)) * p.grainBytes + rel % p.grainBytes := Nat.add_sub_cancel_left ..

/-- The inverse that R163 gives for striped mode. -/
theorem stripe_inverse :
    ((stripeAddr t p rel - stripeBase t p) / p.grainBytes * maskCount (memberMask t p) + stripeIdx t p rel) * p.grainBytes +
      (stripeAddr t p rel - stripeBase t p) % p.grainBytes = rel := by
  have hg : 0 < p.grainBytes := grainBytes_pos
  have hquot (q : Nat) : (q * p.grainBytes + rel % p.grainBytes) / p.grainBytes = q := by
    rw [mul_comm, Nat.mul_add_div hg, Nat.div_eq_of_lt (Nat.mod_lt _ hg), add_zero]
  rw [stripeAddr_sub_base, hquot, Nat.mul_add_mod', Nat.mod_mod, stripeIdx, ← Nat.div_div_eq_div_mul, Nat.div_add_mod', Nat.div_add_mod']

theorem placeEncode_striped {c : Coord} (hs : p.striped = true) (hchan : (memberMask t p).testBit c.chan = true)
    (hidx : memberIdx (memberMask t p) c.chan = stripeIdx t p rel) (hw : encodeSet t p.set 0 0 c = stripeAddr t p rel)
    (hrel : rel < p.size * 2 ^ 28) : placeEncode t p c = some rel := by
  have hbase : ¬ stripeAddr t p rel < stripeBase t p := Nat.not_lt.2 (Nat.le_add_right ..)
  have hinv := stripe_inverse (t := t) (p := p) (rel := rel)
  unfold stripeBase at hbase hinv
  simp only [placeEncode, hs, hchan, hidx, hw, hbase, hinv, hrel, Bool.not_true, Bool.false_eq_true, if_true, if_false]

/-- A block address keeps its place within the grain. -/
theorem stripeAddr_mod (hdvd : 2 ^ 25 ∣ stripeBase t p) (hblk : rel % 64 = 0) : stripeAddr t p rel % 64 = 0 := by
  have hrest : 64 ∣ rel % p.grainBytes := (Nat.dvd_mod_iff dvd_grainBytes).2 (Nat.dvd_of_mod_eq_zero hblk)
  exact Nat.mod_eq_zero_of_dvd
    (((by decide : 64 ∣ 2 ^ 25).trans hdvd).add ((dvd_grainBytes.mul_left _).add hrest))

/-- An address of a striped pond comes back. -/
theorem placeEncode_placeDecode_striped (hs : p.striped = true) (hmap : SetMapOk t p.set) (hmp : 0 < maskCount (memberMask t p))
    (hg : p.grain ≤ 8) (hdvd : 2 ^ 25 ∣ stripeBase t p) (hrel : rel < p.size * 2 ^ 28) (hblk : rel % 64 = 0) :
    placeEncode t p (placeDecode t p rel) = some rel := by
  have hidx : stripeIdx t p rel < maskCount (memberMask t p) := Nat.mod_lt _ hmp
  rw [placeDecode_striped hs hmp ((grainBytes_dvd hg).trans hdvd)]
  refine placeEncode_striped hs (mem_maskList.1 (memberChan_mem hidx)).2 (memberIdx_memberChan hidx) ?_ hrel
  exact encodeSet_decodeSet hmap.1 hmap.2 (stripeAddr_mod hdvd hblk)

end

/-! ### The coordinates of a placement -/

section
variable {t : Tab Nat} {p : Place} {rel : Nat}

/-- In both modes the coordinates are those of a set address on a member of the pond. -/
theorem placeDecode_eq_decodeSet (hmp : 0 < maskCount (memberMask t p))
    (hashed : p.striped = false → p.exclude = 0 ∧ maskCount (setMask t p.set) ∈ [1, 2, 4, 8]) :
    ∃ ch a, ∃ k < maskCount (memberMask t p), placeDecode t p rel = { decodeSet t p.set ch a with chan := memberChan (memberMask t p) k } := by
  cases hs : p.striped with
  | false =>
    obtain ⟨hex, hm⟩ := hashed hs
    exact ⟨_, _, _, hashed_chan_lt hex hm, placeDecode_hashed hs⟩
  | true =>
    exact ⟨_, _, _, Nat.mod_lt _ hmp, by rw [placeDecode, if_pos hs]⟩

end

/-- Settles O59: hashed and striped ponds each by the inverse of their map, and the coordinates by the fields of the set's decode. -/
theorem addressesComeBack : Obligations.AddressesComeBack := by
  intro t p rel mask m g ps hcl hnodup hlt hgrain hmembers hhashed hstriped hrel hblk c
  have hmp : 0 < maskCount (memberMask t p) := maskCount_memberMask_pos hmembers
  have hback : placeEncode t p c = some rel := by
    cases hs : p.striped with
    | false =>
      obtain ⟨hex, hm⟩ := hhashed hs
      exact placeEncode_placeDecode_hashed hs ⟨hnodup, hlt⟩ hex hm hrel hblk
    | true =>
      have hbase : 2 ^ 25 ∣ stripeBase t p := dvd_stripeBase (maskCount_setMask_pos hmembers) (hstriped hs)
      exact placeEncode_placeDecode_striped hs ⟨hnodup, hlt⟩ hmp hgrain hbase hrel hblk
  obtain ⟨ch, a, k, hk, hc⟩ := placeDecode_eq_decodeSet (rel := rel) hmp hhashed
  obtain ⟨hchan, hmask, hexcl⟩ := of_mem_memberMask (memberChan_mem hk)
  refine ⟨hback, ?_⟩
  rw [show c = _ from hc]
  exact ⟨hchan, hmask, hexcl, decodeSet_sc_lt, Nat.mod_lt _ (Nat.two_pow_pos _), Nat.mod_lt _ (Nat.two_pow_pos _), decodeSet_bg_lt,
    decodeSet_ba_lt, decodeSet_col_lt hcl⟩

end Sys2Proof.Machine

/-! The sluice engine: the arithmetic of a list, the entry in force, activation, and the loss and return of network time. -/

namespace Sys2Proof.Machine

/-! ### The next boundary (R185) -/

section
variable {t : Tab Nat} {id : Nat} {x : Int}

/-- A boundary is a whole number of cycles from BASE_TIME. -/
theorem nextBoundary_eq (t : Tab Nat) (id : Nat) (x : Int) :
    nextBoundary t id x = listBase t id + -((listBase t id - x) / listCycle t id) * listCycle t id := by
  have hdiv := Int.mul_ediv_add_emod (listBase t id - x) (listCycle t id)
  unfold nextBoundary modFloor
  linarith

/-- Each instant of the list at or after the time has counted at least as many cycles as the next boundary. -/
theorem nextBoundary_le {k : Int} (hc : 0 < listCycle t id) (h : x ≤ listBase t id + k * listCycle t id) :
    nextBoundary t id x ≤ listBase t id + k * listCycle t id := by
  have hcyc : (0 : Int) < listCycle t id := by omega
  have hcount : -k ≤ (listBase t id - x) / listCycle t id := (Int.le_ediv_iff_mul_le hcyc).2 (by linarith)
  rw [nextBoundary_eq]
  exact Int.add_le_add_left (mul_le_mul_of_nonneg_right (by omega) hcyc.le) _

theorem listPhase_eq (hc : 0 < listCycle t id) : (listPhase t id x : Int) = (x - listBase t id) % listCycle t id :=
  Int.toNat_of_nonneg (Int.emod_nonneg _ (by omega))

theorem listPhase_lt (hc : 0 < listCycle t id) : (listPhase t id x : Int) < listCycle t id := by
  rw [listPhase_eq hc]
  exact Int.emod_lt_of_pos _ (by omega)

theorem listPhase_nextBoundary (t : Tab Nat) (id : Nat) (x : Int) : listPhase t id (nextBoundary t id x) = 0 := by
  rw [nextBoundary_eq, listPhase, modFloor, add_sub_cancel_left, Int.mul_emod_left, Int.toNat_zero]

/-! ### The entry in force (R185) -/

/-- The phase at which an entry begins: the durations of the entries before it. -/
def entryStart (t : Tab Nat) (id e : Nat) : Nat := ((List.range e).map (listDur t id)).sum

theorem entryStart_succ (t : Tab Nat) (id e : Nat) : entryStart t id (e + 1) = entryStart t id e + listDur t id e :=
  List.sum_range_succ ..

/-- The entry found from one that begins no later than the phase begins no later than it, and unless it is the last of those
searched, the phase lies before its end. -/
theorem entryFrom_holds_phase {ph : Nat} (n e : Nat) (h : entryStart t id e ≤ ph) :
    let r := entryFrom t id ph n e (entryStart t id e)
    r ≤ e + n ∧ entryStart t id r ≤ ph ∧ (r < e + n → ph < entryStart t id r + listDur t id r) := by
  induction n generalizing e with
  | zero => exact ⟨le_refl e, h, fun hlt => absurd hlt (lt_irrefl e)⟩
  | succ n ih =>
    unfold entryFrom
    by_cases hin : ph < entryStart t id e + listDur t id e
    · rw [if_pos hin]
      exact ⟨by omega, h, fun _ => hin⟩
    · rw [if_neg hin, ← entryStart_succ]
      have hnext : entryStart t id (e + 1) ≤ ph := by rw [entryStart_succ]; omega
      rw [show e + (n + 1) = e + 1 + n by omega]
      exact ih (e + 1) hnext

theorem entryAt_holds_phase (t : Tab Nat) (id : Nat) (x : Int) :
    entryAt t id x ≤ listLen t id - 1 ∧ entryStart t id (entryAt t id x) ≤ listPhase t id x ∧
      (entryAt t id x < listLen t id - 1 →
        listPhase t id x < entryStart t id (entryAt t id x) + listDur t id (entryAt t id x)) := by
  have h := entryFrom_holds_phase (t := t) (id := id) (listLen t id - 1) 0 (Nat.zero_le (listPhase t id x))
  rwa [Nat.zero_add] at h

/-- A cycle begins with entry 0. -/
theorem entryAt_of_phase_zero (hph : listPhase t id x = 0) (hd : 0 < listDur t id 0) : entryAt t id x = 0 := by
  unfold entryAt
  rw [hph]
  cases listLen t id - 1 with
  | zero => rfl
  | succ n => exact if_pos (by omega)

end

/-- Settles O24: a boundary is the least instant of its remainder, and the entry found is the one whose span holds the phase. -/
theorem scheduleArithmetic : Obligations.ScheduleArithmetic := by
  intro t id x hc hl cyc base nb e start
  obtain ⟨hlast, hbegun, hends⟩ := entryAt_holds_phase t id x
  exact ⟨le_nextBoundary hc, ⟨_, nextBoundary_eq t id x⟩, fun _ hk => nextBoundary_le hc hk,
    entryAt_of_phase_zero (listPhase_nextBoundary t id x), by omega, listPhase_lt hc, hbegun, fun hmore => hends (by omega)⟩

/-! ### What time that passes, late causes, rearming and realignment of the channels leave alone -/

section
variable (b : Block)

/-- Time that passes does not change what reads neither the clock nor the counters. -/
theorem advance_keeps {γ : Type} (p : Block → γ) (h : ∀ c k, p { b with ctr := c, clk := k } = p b) (dt : Nat) :
    p (b.advance dt) = p b := by
  obtain ⟨c, hc⟩ := advance_only b dt
  rw [hc, h]

@[simp] theorem advance_clk (dt : Nat) : (b.advance dt).clk = b.clk.advance dt := by
  obtain ⟨c, hc⟩ := advance_only b dt
  rw [hc]
@[simp] theorem advance_cfg (dt : Nat) : (b.advance dt).cfg = b.cfg := advance_keeps b Block.cfg (fun _ _ => rfl) dt
@[simp] theorem advance_f (dt id inst bit : Nat) : (b.advance dt).f id inst bit = b.f id inst bit :=
  advance_keeps b (fun x => x.f id inst bit) (fun _ _ => rfl) dt
@[simp] theorem advance_net (dt : Nat) : (b.advance dt).net = b.net := advance_keeps b Block.net (fun _ _ => rfl) dt
@[simp] theorem advance_sluice (dt : Nat) : (b.advance dt).sluice = b.sluice := advance_keeps b Block.sluice (fun _ _ => rfl) dt
@[simp] theorem advance_mode (dt : Nat) : (b.advance dt).mode = b.mode := advance_keeps b Block.mode (fun _ _ => rfl) dt
@[simp] theorem advance_drain (dt : Nat) : (b.advance dt).drain = b.drain := advance_keeps b Block.drain (fun _ _ => rfl) dt
@[simp] theorem advance_pins (dt : Nat) : (b.advance dt).pins = b.pins := advance_keeps b Block.pins (fun _ _ => rfl) dt

@[simp] theorem lateCause_clk (n : Nat) : (b.lateCause n).clk = b.clk := rfl
@[simp] theorem lateCause_cfg (n : Nat) : (b.lateCause n).cfg = b.cfg := rfl
@[simp] theorem lateCause_net (n : Nat) : (b.lateCause n).net = b.net := rfl
@[simp] theorem lateCause_sluice (n : Nat) : (b.lateCause n).sluice = b.sluice := rfl
@[simp] theorem lateCause_mode (n : Nat) : (b.lateCause n).mode = b.mode := rfl

/-- Rearming the pending list does not change what no event and no field of the configuration changes. -/
theorem rearm_keeps {γ : Type} (p : Block → γ) (hset : ∀ x i n k v, p (Block.setF x i n k v) = p x)
    (hev : ∀ x code l, p (Block.event x code l) = p x) (now : Int) (strict : Bool) : p (b.rearm now strict) = p b := by
  unfold Block.rearm Block.armList
  extract_lets at_ near want a b1
  split
  · split
    · exact (hev ..).trans (hset ..)
    · exact hset ..
  · rfl

@[simp] theorem rearm_clk (now : Int) (strict : Bool) : (b.rearm now strict).clk = b.clk :=
  rearm_keeps b Block.clk (fun _ _ _ _ _ => rfl) event_clk now strict
@[simp] theorem rearm_net (now : Int) (strict : Bool) : (b.rearm now strict).net = b.net :=
  rearm_keeps b Block.net (fun _ _ _ _ _ => rfl) event_net now strict
@[simp] theorem rearm_sluice (now : Int) (strict : Bool) : (b.rearm now strict).sluice = b.sluice :=
  rearm_keeps b Block.sluice (fun _ _ _ _ _ => rfl) event_sluice now strict
@[simp] theorem rearm_mode (now : Int) (strict : Bool) : (b.rearm now strict).mode = b.mode :=
  rearm_keeps b Block.mode (fun _ _ _ _ _ => rfl) event_mode now strict

/-- Bringing alignment up to date does not change what no event and no channel changes. -/
theorem realignChans_keeps {γ : Type} (p : Block → γ) (hchan : ∀ x c g, p (Block.modChan x c g) = p x)
    (hev : ∀ x code l, p (Block.event x code l) = p x) (mask : Nat) : p (b.realignChans mask) = p b := by
  unfold Block.realignChans
  extract_lets cs lost won b1 bits b2
  have h1 : p b1 = p b := foldl_keeps p _ (fun x c => hchan x c _) cs b
  have h2 : p b2 = p b := by
    unfold b2
    split
    · exact h1
    · exact (hev ..).trans h1
  split
  · exact h2
  · exact (hev ..).trans h2

@[simp] theorem realignChans_clk (mask : Nat) : (b.realignChans mask).clk = b.clk :=
  realignChans_keeps b Block.clk modChan_clk event_clk mask
@[simp] theorem realignChans_cfg (mask : Nat) : (b.realignChans mask).cfg = b.cfg :=
  realignChans_keeps b Block.cfg modChan_cfg event_cfg mask
@[simp] theorem realignChans_net (mask : Nat) : (b.realignChans mask).net = b.net :=
  realignChans_keeps b Block.net (fun _ _ _ => rfl) event_net mask
@[simp] theorem realignChans_mode (mask : Nat) : (b.realignChans mask).mode = b.mode :=
  realignChans_keeps b Block.mode modChan_mode event_mode mask

end

/-! ### Activation (R189) -/

theorem activate_of_armed {b : Block} (hrun : b.sluice.running = true) (harm : b.f 0x0700 0 16 = 1) :
    let e : Block := { b with cfg := copyList b.cfg, sluice := { b.sluice with leadIn := false } }
    b.activate = ((e.lateCause 0).event 0x42 [(8, b.f 0x0700 0 128), (4, sat32 (listCycle e.cfg 0x0701)),
      (2, listLen e.cfg 0x0701)]).realignChans 255 := by
  unfold Block.activate
  rw [if_pos (by simp [hrun, Block.flag, harm])]
  rfl

/-- Settles O25: what follows the copy leaves the configuration, and `copyList_get` says what each field of it holds. -/
theorem listActivates : Obligations.ListActivates := by
  intro dt s hrun harm hrise t e b
  have hexec : exec (.sluiceActivated dt) s = .next { s with blk := t.activate } := rfl
  have hcfg : b.cfg = copyList s.blk.cfg := by simp [b, e, t]
  have hget {id inst bit : Nat} (hi : inst < 2 ^ 12) (hb : bit < 2 ^ 16) : b.f id inst bit =
      if id = 0x0701 ∧ inst = 0 then (if bit = 16 then 0 else s.blk.f 0x0700 0 bit)
      else if id = 0x0700 ∧ inst = 0 ∧ bit = 16 then 0 else s.blk.f id inst bit := by
    rw [Block.f, hcfg, copyList_get _ hrise hi hb]
    rfl
  refine ⟨?_, ?_, fun bit hb hne => ⟨?_, ?_⟩, ?_, ?_, fun id inst bit hi hb h0 h1 => ?_⟩
  · rw [hexec, activate_of_armed (by simpa [t] using hrun) (by simpa [t] using harm)]
    simp [b, e, t]
  · simp [b, e, t, realign_sluice]
  · rw [hget (by decide) hb]; simp [hne]
  · rw [hget (by decide) hb]; simp [hne]
  · rw [hget (by decide) (by decide)]; rfl
  · rw [hget (by decide) (by decide)]; rfl
  · rw [hget hi hb]; simp [h0, h1]

/-! ### The loss of network time (R191) -/

theorem loseTime_running {b : Block} (hv : b.net.valid = true) (hrun : b.sluice.running = true) :
    b.loseTime = ({ b with net := { b.net with valid := false, timeValid := false, lastValid := b.netTime, realign := none } } : Block).event
      0x44 [(8, twos 8 b.netTime)] := by
  unfold Block.loseTime
  rw [if_neg (by simp [hv])]
  extract_lets last n b1
  exact if_pos hrun

/-- Bit 6 of MW_MODE is TIME_VALID (R58). -/
theorem mwMode_testBit_six (b : Block) : b.mwMode.testBit 6 = b.net.timeValid := by
  have hmode : b.mode.code < 8 := by cases b.mode <;> decide
  have hlc : b.lc.code < 4 := by cases b.lc <;> decide
  rw [Nat.testBit_eq_decide_div_mod_eq]
  unfold Block.mwMode
  cases b.net.timeValid
  · simp only [decide_eq_false_iff_not, Bool.false_eq_true, if_false]
    split <;> split <;> omega
  · simp only [decide_eq_true_eq, if_true]
    split <;> split <;> omega

/-- Block time goes on with the local counter. -/
theorem blockTime_advance (b : Block) (dt : Nat) : (b.advance dt).blockTime - b.blockTime = (b.advance dt).clk.ns - b.clk.ns := by
  simp only [Block.blockTime, advance_net]
  omega

/-- Network time goes on with the local counter. -/
theorem netTime_advance (b : Block) (dt : Nat) : (b.advance dt).netTime - b.netTime = (b.advance dt).clk.ns - b.clk.ns := by
  simp only [Block.netTime, advance_net]
  omega

/-- The gates read the list, the engine's state and block time. -/
theorem gates_congr {b b' : Block} (hcfg : b'.cfg = b.cfg) (hsl : b'.sluice = b.sluice) (ht : b'.blockTime = b.blockTime) :
    b'.gates = b.gates := by
  simp only [Block.gates, Block.f, hcfg, hsl, ht]

/-- The percentage reads what the gates read, and drain. -/
theorem energyPct_congr {b b' : Block} (hcfg : b'.cfg = b.cfg) (hsl : b'.sluice = b.sluice) (ht : b'.blockTime = b.blockTime)
    (hd : b'.drain = b.drain) : b'.energyPct = b.energyPct := by
  simp only [Block.energyPct, Block.f, hcfg, hsl, ht, hd]

/-- Settles O20: the loss changes neither the list, the engine's state nor the offset of block time. -/
theorem sluiceRunsOnWithoutTime : Obligations.SluiceRunsOnWithoutTime := by
  intro s hv hrun lost b
  have hexec : exec .sluiceFreeRun s = .next { s with blk := s.blk.loseTime } := rfl
  have hclk : b.clk = s.blk.clk := event_clk ..
  have hnet : b.net = lost.net := event_net ..
  have hcfg : b.cfg = s.blk.cfg := event_cfg ..
  have hsl : b.sluice = s.blk.sluice := event_sluice ..
  have htime : b.blockTime = s.blk.blockTime := by rw [Block.blockTime, hclk, hnet]; rfl
  have hnt : b.netTime = s.blk.netTime := by rw [Block.netTime, hclk, hnet]; rfl
  refine ⟨by rw [hexec, loseTime_running hv hrun], htime, hsl, hcfg, gates_congr hcfg hsl htime,
    energyPct_congr hcfg hsl htime (event_drain ..), by rw [mwMode_testBit_six, hnet], fun dt => ⟨blockTime_advance b dt, ?_⟩⟩
  rw [← hnt, ← hclk]
  exact netTime_advance b dt

/-! ### Realignment (R192) -/

theorem realigned_of_planned {b : Block} {at_ : Int} (h : b.net.realign = some at_) :
    let e : Block := { b with
      net := { b.net with blkOff := b.net.off, timeValid := true, realign := none }, sluice := { b.sluice with leadIn := false } }
    b.realigned = (((e.lateCause 1).rearm at_ false).event 0x45 [(8, twos 8 at_), (8, twos 8 (b.net.blkOff - b.net.off))]).realignChans
      255 := by
  unfold Block.realigned
  rw [h]

/-- While the block serves, timestamps are block time (R418). -/
theorem stamp_of_serving {b : Block} (h : b.serving = true) : b.stamp = (b.blockTime, b.net.timeValid) := if_pos h

/-- Settles O22: what follows the switch of block time leaves the clock, the offsets, the engine and the mode. -/
theorem realignment : Obligations.Realignment := by
  intro dt at_ s hplan t e b
  have hexec : exec (.sluiceRealigned dt) s = .next { s with blk := t.realigned } := rfl
  have hclk : b.clk = t.clk := by simp [b, e]
  have hnet : b.net = e.net := by simp [b]
  have hmode : b.mode = s.blk.mode := by simp [b, e, t]
  have htime : b.blockTime = b.netTime := by rw [Block.blockTime, Block.netTime, hnet]
  have hvalid : b.net.timeValid = true := by rw [hnet]
  refine ⟨?_, htime, hvalid, by rw [hnet], by simp [b, e, t, realign_sluice], hclk, hmode, fun _ hserves => ?_⟩
  · rw [hexec, realigned_of_planned (by simpa [t] using hplan)]
  · have hs : b.serving = true := by rw [← hserves, Block.serving, Block.serving, hmode]
    rw [stamp_of_serving hs, htime, hvalid]

/-! ### The gates and the allowance in force (R183 to R187) -/

section
variable {b : Block}

theorem gates_of_standing (h : b.sluice.running = false ∨ listLen b.cfg 0x0701 = 0) : b.gates = 255 :=
  if_pos (by simpa using h)

theorem allowance_of_standing (h : b.sluice.running = false ∨ listLen b.cfg 0x0701 = 0) : b.allowance = b.pins.capMw := by
  have hpct : b.energyPct = 100 := if_pos (by rcases h with h | h <;> simp [h])
  rw [Block.allowance, hpct, Nat.mul_div_cancel _ (by decide)]

section
variable (hrun : b.sluice.running = true) (hlen : listLen b.cfg 0x0701 ≠ 0)
include hrun hlen

theorem gates_of_running : b.gates =
    if b.sluice.leadIn then b.f 0x0701 0 224 else entryGate b.cfg 0x0701 (entryAt b.cfg 0x0701 b.blockTime) :=
  if_neg (by simp [hrun, hlen])

theorem allowance_of_running (hd : b.drain = false) : b.allowance = b.pins.capMw * b.f 0x0701 0 (8 * (0x18 +
    if b.sluice.leadIn then b.f 0x0701 0 232 else entryLevel b.cfg 0x0701 (entryAt b.cfg 0x0701 b.blockTime))) / 100 := by
  unfold Block.allowance Block.energyPct
  rw [if_neg (by simp [hrun, hlen, hd])]

end

theorem endLeadIn_of_leadIn (hrun : b.sluice.running = true) (hlead : b.sluice.leadIn = true) :
    b.endLeadIn = (({ b with sluice := { b.sluice with leadIn := false } } : Block).lateCause 2).realignChans 255 :=
  if_pos (by simp [hrun, hlead])

end

/-- Settles O23: time that passes changes neither the list nor the engine, so block time alone decides the entry. -/
theorem entriesInForce : Obligations.EntriesInForce := by
  intro dt s t
  have hf (bit : Nat) : t.f 0x0701 0 bit = s.blk.f 0x0701 0 bit := advance_f ..
  have hcfg : t.cfg = s.blk.cfg := advance_cfg ..
  have hsl : t.sluice = s.blk.sluice := advance_sluice ..
  have hd : t.drain = s.blk.drain := advance_drain ..
  have hcap : t.pins.capMw = s.blk.pins.capMw := congrArg Pins.capMw (advance_pins ..)
  simp only [← hf, ← hcfg, ← hsl, ← hd, ← hcap]
  refine ⟨rfl, advance_clk .., fun h => ⟨gates_of_standing h, allowance_of_standing h⟩, fun hrun hlen hlead => ⟨?_, fun hnd => ?_⟩,
    fun hrun hlen hlead => ⟨?_, fun hnd => ?_⟩, fun hrun hlead => ?_⟩
  · rw [gates_of_running hrun hlen, if_pos hlead]
  · rw [allowance_of_running hrun hlen hnd, if_pos hlead]
  · rw [gates_of_running hrun hlen, if_neg (by simp [hlead])]
  · rw [allowance_of_running hrun hlen hnd, if_neg (by simp [hlead])]
  · rw [← endLeadIn_of_leadIn hrun hlead]
    rfl

end Sys2Proof.Machine

/-! The admission arbiters. -/

namespace Sys2Proof.Machine

/-! ### The oldest request (R196) -/

/-- The place of a request in the order of age: its birth, then its requester, then its tag. -/
def DReq.age (d : DReq) : ℕ ×ₗ ℕ ×ₗ ℕ := toLex (d.born, toLex (d.requester, d.tag))

theorem older_iff_age_lt (x y : DReq) : x.older y = true ↔ x.age < y.age := by
  simp [DReq.older, DReq.age, Prod.Lex.toLex_lt_toLex]

theorem oldest_eq_argmin (l : List DReq) : oldest l = l.argmin DReq.age := by
  unfold oldest List.argmin
  congr
  funext m d
  cases m with
  | none => rfl
  | some x => simp only [older_iff_age_lt, List.argAux]

section
variable {l : List DReq} {d : DReq}

theorem oldest_mem (h : oldest l = some d) : d ∈ l := List.argmin_mem ((oldest_eq_argmin l).symm.trans h)

theorem not_older_oldest (h : oldest l = some d) {x : DReq} (hx : x ∈ l) : x.older d = false :=
  Bool.eq_false_iff.2 fun hold => List.not_lt_of_mem_argmin hx ((oldest_eq_argmin l).symm.trans h) ((older_iff_age_lt x d).1 hold)

theorem exists_oldest (h : l ≠ []) : ∃ d, oldest l = some d :=
  Option.ne_none_iff_exists'.1 fun hnone => h (List.argmin_eq_none.1 ((oldest_eq_argmin l).symm.trans hnone))

end

/-! ### The draw (R201) -/

/-- One requester of the draw for `v`: the running sum of the tickets, and the winner once the sum has passed `v`. -/
def drawStep (v : Nat) (acc : Nat × Option Nat) (r : Nat × Nat) : Nat × Option Nat :=
  match acc.2 with
  | some _ => acc
  | none => if v < acc.1 + r.2 then (acc.1 + r.2, some r.1) else (acc.1 + r.2, none)

theorem drawOf_eq (lfsr : BitVec 32) (rs : List (Nat × Nat)) :
    drawOf lfsr rs = if (rs.map (·.2)).sum = 0 then none
      else (rs.foldl (drawStep (lfsr.toNat * (rs.map (·.2)).sum / 2 ^ 32)) (0, none)).2 := rfl

theorem foldl_drawStep_some (v a w : Nat) (rs : List (Nat × Nat)) : rs.foldl (drawStep v) (a, some w) = (a, some w) := by
  induction rs with
  | nil => rfl
  | cons r rs ih => exact ih

/-- From a running sum `a` at or below `v`, the winner is the requester whose tickets `v` falls on. -/
theorem foldl_drawStep_wins {v : Nat} (rs : List (Nat × Nat)) (a : Nat) (ha : a ≤ v) (hv : v < a + (rs.map (·.2)).sum) :
    ∃ (pre post : List (Nat × Nat)) (r : Nat × Nat), rs = pre ++ r :: post ∧ (rs.foldl (drawStep v) (a, none)).2 = some r.1 ∧
      a + (pre.map (·.2)).sum ≤ v ∧ v < a + (pre.map (·.2)).sum + r.2 := by
  induction rs generalizing a with
  | nil => exact absurd hv (by simpa using ha)
  | cons r rs ih =>
    by_cases hin : v < a + r.2
    · refine ⟨[], rs, r, rfl, ?_, ha, hin⟩
      rw [List.foldl_cons, show drawStep v (a, none) r = (a + r.2, some r.1) from if_pos hin, foldl_drawStep_some]
    · obtain ⟨pre, post, w, hsplit, hwins, hlow, hhigh⟩ := ih (a + r.2) (by omega) (by simpa [Nat.add_assoc] using hv)
      refine ⟨r :: pre, post, w, by rw [hsplit, List.cons_append], ?_, by simpa [Nat.add_assoc] using hlow,
        by simpa [Nat.add_assoc] using hhigh⟩
      rw [List.foldl_cons, show drawStep v (a, none) r = (a + r.2, none) from if_neg hin, hwins]

section
variable {lfsr : BitVec 32} {rs : List (Nat × Nat)}

theorem drawOf_no_ticket (h : (rs.map (·.2)).sum = 0) : drawOf lfsr rs = none := if_pos h

/-- The LFSR scaled to the tickets falls on one of them. -/
theorem lfsr_scaled_lt {total : Nat} (h : 0 < total) : lfsr.toNat * total / 2 ^ 32 < total :=
  Nat.div_lt_of_lt_mul (Nat.mul_lt_mul_of_pos_right lfsr.isLt h)

theorem drawOf_wins (h : 0 < (rs.map (·.2)).sum) :
    let v := lfsr.toNat * (rs.map (·.2)).sum / 2 ^ 32
    ∃ (pre post : List (Nat × Nat)) (r : Nat × Nat), rs = pre ++ r :: post ∧ drawOf lfsr rs = some r.1 ∧
      (pre.map (·.2)).sum ≤ v ∧ v < (pre.map (·.2)).sum + r.2 := by
  intro v
  have hv : v < 0 + (rs.map (·.2)).sum := (lfsr_scaled_lt h).trans_eq (Nat.zero_add _).symm
  rw [drawOf_eq, if_neg h.ne']
  simpa only [Nat.zero_add] using foldl_drawStep_wins rs 0 (Nat.zero_le v) hv

/-- The winner is one of the requesters drawn over. -/
theorem drawOf_mem {r : Nat} (h : drawOf lfsr rs = some r) : r ∈ rs.map Prod.fst := by
  rcases Nat.eq_zero_or_pos (rs.map (·.2)).sum with hzero | hpos
  · exact absurd ((drawOf_no_ticket hzero).symm.trans h) (Option.some_ne_none r).symm
  · obtain ⟨pre, post, w, hsplit, hwins, -⟩ := drawOf_wins (lfsr := lfsr) hpos
    have hw : w.1 = r := Option.some.inj (hwins.symm.trans h)
    rw [hsplit, ← hw]
    exact List.mem_map_of_mem List.mem_append_cons_self

end

/-! ### The choice of a grant (R199 to R203) -/

theorem exists_of_mem_requesters {l : List DReq} {r : Nat} (h : r ∈ requesters l) : ∃ d ∈ l, d.requester = r := by
  simpa using (List.mem_filter.1 h).2

/-- The class that an ordinary grant serves: the lowest with a candidate. -/
def lowestClass (l : List DReq) : Nat := (l.map (·.cls)).foldl min 7

theorem lowestClass_le {l : List DReq} {x : DReq} (h : x ∈ l) : lowestClass l ≤ min x.cls 7 := by
  rw [lowestClass, List.foldl_min]
  exact le_min (min_le_of_right_le (List.min?_getD_le_of_mem (List.mem_map_of_mem h))) (min_le_left _ _)

section
variable {b : Block} {c : Nat} {lfsr : BitVec 32}

/-- The candidates of the lowest class number. -/
def Block.lowestCands (b : Block) (c : Nat) : List DReq := (b.candidates c).filter (fun d => d.cls == lowestClass (b.candidates c))

/-- The requester that an ordinary grant goes to; none where a reserved grant is due, or no ticket is held. -/
def Block.drawn (b : Block) (c : Nat) (lfsr : BitVec 32) : Option Nat :=
  if !(b.f 0x0800 c 0 == 0) && decide (b.f 0x0800 c 0 ≤ (b.chan c).resCount + 1) then none
  else drawOf lfsr ((requesters (b.lowestCands c)).map (fun r => (r, b.tickets r)))

theorem choose_eq : b.choose c lfsr = (b.drawn c lfsr).elim ((oldest (b.candidates c)).map (fun d => (d, true)))
    (fun r => (oldest ((b.lowestCands c).filter (fun d => d.requester == r))).map (fun d => (d, false))) := by
  unfold Block.choose
  extract_lets cs n due k own drawn
  rw [show b.drawn c lfsr = drawn from rfl]
  cases drawn <;> rfl

theorem requester_of_drawn {r : Nat} (h : b.drawn c lfsr = some r) : ∃ d ∈ b.lowestCands c, d.requester = r := by
  unfold Block.drawn at h
  split at h
  · cases h
  · have hr := drawOf_mem h
    rw [List.map_map] at hr
    exact exists_of_mem_requesters (by simpa using hr)

/-- An ordinary grant: the oldest request of the requester drawn, among the candidates of the lowest class number. -/
theorem choose_ordinary {r : Nat} (h : b.drawn c lfsr = some r) :
    ∃ d ∈ b.candidates c, b.choose c lfsr = some (d, false) ∧ (∀ x ∈ b.candidates c, d.cls ≤ min x.cls 7) ∧
      ∀ x ∈ b.candidates c, x.cls = d.cls → x.requester = d.requester → x.older d = false := by
  obtain ⟨y, hy, hyr⟩ := requester_of_drawn h
  have hne : (b.lowestCands c).filter (fun d => d.requester == r) ≠ [] := List.ne_nil_of_mem (List.mem_filter.2 ⟨hy, beq_iff_eq.2 hyr⟩)
  obtain ⟨d, hd⟩ := exists_oldest hne
  obtain ⟨hlow, hdr⟩ := List.mem_filter.1 (oldest_mem hd)
  obtain ⟨hmem, hcls⟩ := List.mem_filter.1 hlow
  replace hcls : d.cls = lowestClass (b.candidates c) := beq_iff_eq.1 hcls
  replace hdr : d.requester = r := beq_iff_eq.1 hdr
  refine ⟨d, hmem, by rw [choose_eq, h, Option.elim_some, hd, Option.map_some], fun x hx => hcls ▸ lowestClass_le hx,
    fun x hx hxc hxr => not_older_oldest hd ?_⟩
  exact List.mem_filter.2 ⟨List.mem_filter.2 ⟨hx, beq_iff_eq.2 (hxc.trans hcls)⟩, beq_iff_eq.2 (hxr.trans hdr)⟩

/-- A reserved grant: the oldest candidate. -/
theorem choose_reserved (h : b.drawn c lfsr = none) (hne : b.candidates c ≠ []) :
    ∃ d ∈ b.candidates c, b.choose c lfsr = some (d, true) ∧ ∀ x ∈ b.candidates c, x.older d = false := by
  obtain ⟨d, hd⟩ := exists_oldest hne
  exact ⟨d, oldest_mem hd, by rw [choose_eq, h, Option.elim_none, hd, Option.map_some], fun x hx => not_older_oldest hd hx⟩

end

/-- Settles O29: the draw by induction on the requesters, the choice by whether a requester is drawn. -/
theorem drawAndChoice : Obligations.DrawAndChoice := by
  refine ⟨fun lfsr rs => ⟨drawOf_no_ticket, fun hpos => ⟨lfsr_scaled_lt hpos, drawOf_wins hpos⟩⟩, fun b c lfsr hne => ?_⟩
  cases hdrawn : b.drawn c lfsr with
  | some r =>
    obtain ⟨d, hmem, hchoose, hcls, hold⟩ := choose_ordinary hdrawn
    exact ⟨d, false, hchoose, hmem, fun _ => ⟨fun x hx hlt => absurd hlt (hcls x hx).not_gt, hold⟩, nofun⟩
  | none =>
    obtain ⟨d, hmem, hchoose, hold⟩ := choose_reserved hdrawn hne
    exact ⟨d, true, hchoose, hmem, nofun, fun _ => hold⟩

/-! ### Grants and tenures (R200 to R207) -/

section
variable {b : Block} {c : Nat} {d : DReq}

/-- The follow-on of a tenure is a candidate of its requester and class, and the tenure may go on. -/
theorem tenure_of_followOn (h : b.followOn c = some d) :
    d ∈ b.candidates c ∧
      ∃ t : Tenure, (b.chan c).tenure = some t ∧ t.count < b.f 0x0800 c 8 ∧ d.requester = t.requester ∧ d.cls = t.cls := by
  obtain ⟨t, ht, hnext⟩ := Option.bind_eq_some_iff.1 h
  obtain ⟨hmore, hold⟩ := Option.ite_none_right_eq_some.1 hnext
  obtain ⟨hmem, hof⟩ := List.mem_filter.1 (oldest_mem hold)
  obtain ⟨hreq, hcls⟩ : d.requester = t.requester ∧ d.cls = t.cls := by simpa using hof
  exact ⟨hmem, t, ht, hmore, hreq, hcls⟩

/-- The block in which the arbiter makes its choice. -/
def Block.atGrant (b : Block) (c : Nat) : Block := (b.dropPrefetches c).toAdmit c

/-- The effect of a grant of `d`: the LFSR advances, a tenure begins, the grant is counted, and the request is admitted. -/
def Block.startTenure (b : Block) (c : Nat) (d : DReq) (res : Bool) : Block :=
  let n := b.f 0x0800 c 0
  let t := b.modChan c (fun ch => { ch with lfsr := lfsrStep (b.chan c).lfsr, tenure := some ⟨d.requester, d.cls, 1⟩,
                                            resCount := if res || n == 0 then 0 else ch.resCount + 1 })
  let t := if res then (t.arbAdd c d.requester 0 1).arbAdd c d.requester 4 1 else t.arbAdd c d.requester 0 1
  let t := t.countC c 0x0D (some d.cls) (some d.requester) none 1
  (if res then t.countC c 0x0E (some d.cls) (some d.requester) none 1 else t).admitDReq c d res false

/-- The effect of a follow-on `d`: it is one more of its tenure, it is counted, and it is admitted. -/
def Block.continueTenure (b : Block) (c : Nat) (d : DReq) : Block :=
  ((b.modChan c (fun ch => { ch with tenure := ch.tenure.map (fun t => { t with count := t.count + 1 }) })).countC c 0x0F
    (some d.cls) (some d.requester) none 1).admitDReq c d false true

section
variable (hserves : b.chanServes c = true) (hpll : b.clk.pll = true)
include hserves hpll

theorem arbiter_runs : ¬(!(b.chanServes c) || !b.clk.pll) = true := by simp [hserves, hpll]

theorem grant_stays (h : ((b.atGrant c).followOn c).isSome = true ∨ (b.atGrant c).candidates c = []) : b.grant c = b.atGrant c := by
  unfold Block.grant
  rw [if_neg (arbiter_runs hserves hpll)]
  have hnone : (((b.atGrant c).followOn c).isSome || ((b.atGrant c).candidates c).isEmpty) = true := by simpa using h
  exact if_pos hnone

theorem grant_of_choice {res : Bool} (hno : (b.atGrant c).followOn c = none) (hne : (b.atGrant c).candidates c ≠ [])
    (hchoose : (b.atGrant c).choose c (lfsrStep ((b.atGrant c).chan c).lfsr) = some (d, res)) :
    b.grant c = (b.atGrant c).startTenure c d res := by
  unfold Block.grant
  rw [if_neg (arbiter_runs hserves hpll)]
  extract_lets b1 g lfsr
  have hgrants : ¬(((b.atGrant c).followOn c).isSome || ((b.atGrant c).candidates c).isEmpty) = true := by simpa [hno] using hne
  refine (if_neg hgrants).trans ?_
  rw [show g.choose c lfsr = some (d, res) from hchoose]
  cases res <;> rfl

theorem tenureStep_ends (h : (b.toAdmit c).followOn c = none) :
    b.tenureStep c = (b.toAdmit c).modChan c (fun ch => { ch with tenure := none }) := by
  unfold Block.tenureStep
  rw [if_neg (arbiter_runs hserves hpll)]
  extract_lets f
  rw [h]

theorem tenureStep_admits (h : (b.toAdmit c).followOn c = some d) : b.tenureStep c = (b.toAdmit c).continueTenure c d := by
  unfold Block.tenureStep
  rw [if_neg (arbiter_runs hserves hpll)]
  extract_lets f
  rw [h]
  rfl

end

end

/-- Settles O30: each command is its effect on the block at the cclk in which the arbiter may next grant. -/
theorem grantsAndTenures : Obligations.GrantsAndTenures := by
  intro c s hserves hpll
  refine ⟨⟨_, rfl, fun h => settlesTo_settle_of_eq (grant_stays hserves hpll h), fun d res hno hne hchoose => ?_⟩,
    ⟨_, rfl, fun h => settlesTo_settle_of_eq (tenureStep_ends hserves hpll h), fun d h => ⟨?_, tenure_of_followOn h⟩⟩⟩
  · exact settlesTo_settle_of_eq (grant_of_choice hserves hpll hno hne hchoose)
  · exact settlesTo_settle_of_eq (tenureStep_admits hserves hpll h)

/-! ### Entry into the queue, and a full wait list (R207, R212, R213) -/

section
variable {b : Block} {c : Nat}

theorem advance_cclk {k : Clk} (h : k.pll = true) (dt : Nat) : (k.advance dt).cclk = k.cclk + dt := by
  rw [Clk.advance, if_pos h]

theorem enqueueNext_of_none_granted (h : (b.chan c).granted = []) : b.enqueueNext c = b := by
  rw [Block.enqueueNext, h]

/-- The block in which the granted request `d` enters its queue. -/
def Block.atEnqueue (b : Block) (c : Nat) (d : DReq) : Block :=
  b.advance (max (d.grantAt + 2) (((b.chan c).lastEnq.map (· + 1)).getD 0) - b.clk.cclk)

theorem grantAt_le_atEnqueue (d : DReq) (h : b.clk.pll = true) : d.grantAt + 2 ≤ (b.atEnqueue c d).clk.cclk := by
  rw [Block.atEnqueue, advance_clk, advance_cclk h]
  omega

theorem enqueueNext_of_granted {d : DReq} {l : List DReq} (h : (b.chan c).granted = d :: l) (hserves : b.chanServes c = true) :
    b.enqueueNext c = ((((b.atEnqueue c d).arbAdd c d.requester 1 1).arbAdd c d.requester 2 (d.grantAt - d.born)).arbMax c d.requester
      (d.grantAt - d.born)).enqueue c d := by
  rw [Block.enqueueNext, h]
  exact if_neg (by simp [hserves])

theorem saturated_of_not_full (h : (b.chan c).fullSince = none) : b.saturated c = b := by
  rw [Block.saturated, h]

theorem saturated_of_full {t : Nat} (h : (b.chan c).fullSince = some t) :
    b.saturated c = if b.clk.hz ≤ (b.clk.cclk - t) * 10 ^ 6 then
      b.event 0x46 [(1, c), (4, (b.chan c).outside.length), (4, sat32 (b.clk.cclk - t))] else b := by
  rw [Block.saturated, h]

theorem exec_admissionSaturated (c : Fin 8) (s : State) :
    exec (.admissionSaturated c) s = .next { s with blk := s.blk.saturated c } := rfl

end

/-- Settles O31: ENQUEUE by whether a request is granted, ADMISSION_SATURATED by whether the wait list is full. -/
theorem enqueueAndSaturation : Obligations.EnqueueAndSaturation := by
  intro c s
  refine ⟨⟨_, rfl, fun h => settlesTo_settle_of_eq (enqueueNext_of_none_granted h), fun d l h hserves => ⟨grantAt_le_atEnqueue d, ?_⟩⟩,
    fun h => ?_, fun t h => ?_⟩
  · exact settlesTo_settle_of_eq (enqueueNext_of_granted h hserves)
  · rw [exec_admissionSaturated, saturated_of_not_full h]
  · rw [exec_admissionSaturated, saturated_of_full h]

end Sys2Proof.Machine

/-! Ranking and selection of commands, and alerts with their replay. -/

namespace Sys2Proof.Machine

/-! ### Ranking (R228, R229) -/

/-- A test that decides by one key where it differs, and goes on with `rest` where it does not, is the lexicographic order. -/
theorem ite_iff_toLex_lt {α β : Type} [LinearOrder α] [LinearOrder β] {k k' : α} {t t' : β} {differ first rest : Bool}
    (hdiffer : differ = true ↔ k ≠ k') (hfirst : k ≠ k' → (first = true ↔ k < k')) (hrest : rest = true ↔ t < t') :
    (if differ then first else rest) = true ↔ toLex (k, t) < toLex (k', t') := by
  rw [Prod.Lex.toLex_lt_toLex, ← hrest]
  by_cases h : k = k'
  · rw [if_neg (fun hd => hdiffer.1 hd h)]
    simp [h]
  · rw [if_pos (hdiffer.2 h), hfirst h]
    simp [h]

theorem flags_differ (p q : Bool) : (p != q) = true ↔ (!p) ≠ !q := by revert p q; decide

theorem flag_first (p q : Bool) : (!p) ≠ (!q) → (p = true ↔ (!p) < !q) := by revert p q; decide

theorem guarded_flags_differ (g p q : Bool) : (g && p != q) = true ↔ (!(g && p)) ≠ !(g && q) := by revert g p q; decide

theorem guarded_flag_first (g p q : Bool) : (!(g && p)) ≠ (!(g && q)) → (p = true ↔ (!(g && p)) < !(g && q)) := by
  revert g p q; decide

/-- The rank of a request: overdue first, column commands next where the channel is energy-short, then class, column commands, and age. -/
def Cand.entRank (short : Bool) (x : Cand) (e : QEnt) : Bool ×ₗ Bool ×ₗ ℕ ×ₗ Bool ×ₗ ℕ ×ₗ ℕ ×ₗ ℕ :=
  toLex (!x.overdue, toLex (!(short && x.hit), toLex (e.d.cls, toLex (!x.hit, e.d.age))))

/-- The place of a candidate in the order of ranking: requests by their rank, then closes by the time they have been due. -/
def Cand.rank (short : Bool) (x : Cand) : (Bool ×ₗ Bool ×ₗ ℕ ×ₗ Bool ×ₗ ℕ ×ₗ ℕ ×ₗ ℕ) ⊕ₗ ℕ :=
  match x.ent with
  | some e => Sum.inlₗ (x.entRank short e)
  | none => Sum.inrₗ x.due

theorem above_iff_rank_lt (short : Bool) (x y : Cand) : x.above short y = true ↔ x.rank short < y.rank short := by
  unfold Cand.above Cand.rank
  cases x.ent with
  | none =>
    cases y.ent with
    | none => simp
    | some b => simp
  | some a =>
    cases y.ent with
    | none => simp
    | some b =>
      refine Iff.trans ?_ Sum.Lex.inl_lt_inl_iff.symm
      exact ite_iff_toLex_lt (flags_differ _ _) (flag_first _ _) <|
        ite_iff_toLex_lt (guarded_flags_differ _ _ _) (guarded_flag_first _ _ _) <|
        ite_iff_toLex_lt bne_iff_ne (fun _ => decide_eq_true_iff) <|
        ite_iff_toLex_lt (flags_differ _ _) (flag_first _ _) (older_iff_age_lt _ _)

theorem topCand_eq_argmin (short : Bool) (l : List Cand) : topCand short l = l.argmin (Cand.rank short) := by
  unfold topCand List.argmin
  congr
  funext m x
  cases m with
  | none => rfl
  | some y => simp only [above_iff_rank_lt, List.argAux]

/-- Settles O32: ranking is by the place in one linear order, and the command taken is the least of it. -/
theorem rankingTakesTheTop : Obligations.RankingTakesTheTop := by
  intro short l
  rw [topCand_eq_argmin]
  refine ⟨List.argmin_eq_none.symm, fun x hx => ⟨List.argmin_mem hx, fun y hy => Bool.eq_false_iff.2 fun habove => ?_⟩⟩
  exact List.not_lt_of_mem_argmin hy hx ((above_iff_rank_lt short y x).1 habove)

/-! ### Selection (R225 to R235, R270) -/

section
variable {b : Block} {c q : Nat}

theorem countC_cfg (ev : Nat) (cls rq sc : Option Nat) (n : Nat) : (b.countC c ev cls rq sc n).cfg = b.cfg := by
  obtain ⟨ctr, h⟩ := countC_only b c ev cls rq sc n
  rw [h]

theorem goShort_cfg : (b.goShort c).cfg = b.cfg := by
  unfold Block.goShort
  split <;> rfl

theorem ddr4_congr {b' : Block} (h : b'.cfg = b.cfg) : b'.ddr4 c = b.ddr4 c := by
  rw [Block.ddr4, Block.flag, Block.f, h]
  rfl

/-- The subchannel under which the commands of a queue are counted; a DDR4 channel has none. -/
def Block.countedSc (b : Block) (c q : Nat) : Option Nat := if b.ddr4 c then none else some q

/-- The block once the queue has taken its direction (R225). -/
def Block.directed (b : Block) (c q : Nat) : Block :=
  let r := b.direct c ((b.chan c).queue q)
  (b.modQueue c q (fun _ => r.1)).countC c 0x16 none none (b.countedSc c q) r.2

/-- The request commands of a queue that the slots still open may take (R226, R227). -/
def Block.offers (t : Block) (c q : Nat) : List Cand :=
  let k := (t.chan c).queue q
  (t.reqCands c k).filter (fun x => if x.cmd.kind.column then (t.openSlots c k).1 else (t.openSlots c k).2)

/-- The channel is energy-short where one of the commands offered is not affordable (R271). -/
def Block.judged (t : Block) (c q : Nat) : Block :=
  if (t.offers c q).any (fun x => !(t.affordable c x.cmd.kind)) then t.goShort c else t

/-- The command of the highest rank among the affordable offers and the closes that are due (R229, R235, R270). -/
def Block.bestCand (t : Block) (c q : Nat) : Option Cand :=
  let u := t.judged c q
  let k := (t.chan c).queue q
  topCand (u.chan c).gov.short (((t.offers c q).filter (fun x => u.affordable c x.cmd.kind)) ++
    (if (t.openSlots c k).2 then u.closeCands c k else []))

/-- The candidate in its slot: the second command of a DDR4 channel in a CK/2 cycle goes one CK later (R226). -/
def Block.inSlot (u : Block) (c : Nat) (k : Queue) (x : Cand) : Cand :=
  if u.ddr4 c && (k.selCol == some (u.chan c).ck2 || k.selOther == some (u.chan c).ck2)
    then { x with cmd := { x.cmd with at_ := x.cmd.at_ + 1 } } else x

/-- The block with an overdue command counted. -/
def Block.countOverdue (u : Block) (c q : Nat) (x : Cand) : Block :=
  if x.overdue then u.countC c 0x17 (x.ent.map (·.d.cls)) none (u.countedSc c q) 1 else u

/-- The candidate is selected: a column command or another for its request, or a close. -/
def Block.selectCand (v : Block) (c q : Nat) (x : Cand) : Block :=
  match x.ent with
  | some e => if x.cmd.kind.column then v.colSelect c q e x.cmd else v.rowSelect c q x
  | none => v.rowSelect c q x

/-- What a queue selects once it has its direction: the best candidate in its slot, if there is one. -/
def Block.takeBest (t : Block) (c q : Nat) : Block :=
  let u := t.judged c q
  (t.bestCand c q).elim u (fun x =>
    let x := u.inSlot c ((t.chan c).queue q) x
    (u.countOverdue c q x).selectCand c q x)

theorem judged_eq (t : Block) : t.judged c q =
    if ((t.offers c q).filter (fun x => !(t.affordable c x.cmd.kind))).isEmpty then t else t.goShort c := by
  unfold Block.judged
  by_cases h : (t.offers c q).any (fun x => !(t.affordable c x.cmd.kind)) = true
  · rw [if_pos h, if_neg (by simpa using h)]
  · rw [if_neg h, if_pos (by simpa using h)]

theorem judged_ddr4 (t : Block) : (t.judged c q).ddr4 c = t.ddr4 c := by
  unfold Block.judged
  split
  · exact ddr4_congr goShort_cfg
  · rfl

theorem directed_ddr4 : (b.directed c q).ddr4 c = b.ddr4 c := ddr4_congr (countC_cfg _ _ _ _ _)

theorem select_stays (h : b.mayselect c = false ∨ b.ddr4 c = true ∧ q ≠ 0) : b.select c q = b := if_pos (by simpa using h)

theorem select_runs (hmay : b.mayselect c = true) (hq : b.ddr4 c = false ∨ q = 0) : b.select c q = (b.directed c q).takeBest c q := by
  have hruns : ¬(!(b.mayselect c) || (b.ddr4 c && !(q == 0))) = true := by rcases hq with h | h <;> simp [hmay, h]
  unfold Block.select Block.takeBest
  rw [if_neg hruns]
  extract_lets r t k free all poor u' closes shift u
  have hu : u' = u := (judged_eq t).symm
  have hbest : topCand (u'.chan c).gov.short ((all.filter (fun x => u'.affordable c x.cmd.kind)) ++ closes) =
      (b.directed c q).bestCand c q := by
    unfold closes
    rw [hu]
    rfl
  have hshift : shift = u.inSlot c k := by
    rw [← hu]
    rfl
  rw [hbest, hshift, hu]
  cases (b.directed c q).bestCand c q <;> rfl

theorem takeBest_none {t : Block} (h : t.bestCand c q = none) : t.takeBest c q = t.judged c q := by
  rw [Block.takeBest, h]
  rfl

/-- On a DDR5 channel the best candidate is selected as it stands. -/
theorem takeBest_some {t : Block} {x : Cand} (hddr5 : t.ddr4 c = false) (h : t.bestCand c q = some x) :
    t.takeBest c q = ((t.judged c q).countOverdue c q x).selectCand c q x := by
  have hslot : ∀ k, (t.judged c q).inSlot c k x = x := fun k => if_neg (by simp [judged_ddr4, hddr5])
  rw [Block.takeBest, h]
  simp only [Option.elim_some, hslot]

theorem countedSc_congr {b' : Block} (h : b'.ddr4 c = b.ddr4 c) : b'.countedSc c q = b.countedSc c q := by
  rw [Block.countedSc, h]
  rfl

theorem selectCand_column {v : Block} {x : Cand} {e : QEnt} (hent : x.ent = some e) (hcol : x.cmd.kind.column = true) :
    v.selectCand c q x = v.colSelect c q e x.cmd := by
  rw [Block.selectCand, hent]
  exact if_pos hcol

theorem selectCand_row {v : Block} {x : Cand} {e : QEnt} (hent : x.ent = some e) (hcol : x.cmd.kind.column = false) :
    v.selectCand c q x = v.rowSelect c q x := by
  rw [Block.selectCand, hent]
  exact if_neg (by simp [hcol])

theorem selectCand_close {v : Block} {x : Cand} (hent : x.ent = none) : v.selectCand c q x = v.rowSelect c q x := by
  rw [Block.selectCand, hent]

end

/-- Settles O33: selection by whether the queue may select, and then by the kind of the best candidate. -/
theorem selectionTakesOneCommand : Obligations.SelectionTakesOneCommand := by
  intro c q s b0 sc r t k free all u pick
  refine ⟨_, rfl, fun h => ?_, fun hmay hq hnone => ?_, fun x hmay hddr5 hbest => ?_⟩
  · exact settlesTo_settle_of_eq (select_stays (h.imp_right fun h4 => ⟨h4.1, fun h0 => h4.2 (Fin.ext h0)⟩))
  · exact settlesTo_settle_of_eq ((select_runs hmay (hq.imp_right (congrArg Fin.val))).trans (takeBest_none hnone))
  · intro v
    have hv : u.countOverdue c q x = v := by
      rw [Block.countOverdue, show u.countedSc c q = sc from countedSc_congr ((judged_ddr4 _).trans directed_ddr4)]
    have hs : b0.select c q = v.selectCand c q x := by
      rw [← hv, select_runs hmay (.inl hddr5)]
      exact takeBest_some (directed_ddr4.trans hddr5) hbest
    exact ⟨fun e hent hcol => settlesTo_settle_of_eq (hs.trans (selectCand_column hent hcol)),
      fun e hent hcol => settlesTo_settle_of_eq (hs.trans (selectCand_row hent hcol)),
      fun hent => settlesTo_settle_of_eq (hs.trans (selectCand_close hent))⟩

/-! ### Alerts, replay and recovery (R242 to R246) -/

/-- What an update of a channel keeps of every channel, it keeps of the one read. -/
theorem chan_modChan_keeps {γ : Type} (p : Chan → γ) (b : Block) (c k : Nat) (g : Chan → Chan) (h : ∀ ch, p (g ch) = p ch) :
    p ((b.modChan c g).chan k) = p (b.chan k) := by
  have hmap := congrArg (fun l : List γ => l.getD k (p {})) (map_modify p g h b.chans c)
  simpa [Block.chan, Block.modChan] using hmap

theorem length_chans_of_modeStates {b b' : Block} (h : b'.modeStates = b.modeStates) : b'.chans.length = b.chans.length := by
  simpa [Block.modeStates] using congrArg (fun x : Mode × List Nat => x.2.length) h

section
variable {b : Block} {c : Nat}

/-! #### What an alert starts -/

theorem countC_chan (k ev : Nat) (cls rq sc : Option Nat) (n : Nat) : (b.countC c ev cls rq sc n).chan k = b.chan k := by
  obtain ⟨ctr, h⟩ := countC_only b c ev cls rq sc n
  rw [h]
  rfl

theorem pdAlert_alert (u k : Nat) : ((b.pdAlert c u).chan k).alert = (b.chan k).alert := by
  unfold Block.pdAlert
  split
  · rw [event_chan]
    exact chan_modChan_keeps Chan.alert b c k _ fun _ => rfl
  · exact chan_modChan_keeps Chan.alert b c k _ fun _ => rfl

theorem startAlert_alert (missing : Bool) (h : c < b.chans.length) : ((b.startAlert c missing).chan c).alert = .waitHigh missing := by
  unfold Block.startAlert
  extract_lets b1 b2
  have h1 : (b1.chan c).alert = .waitHigh missing := congrArg Chan.alert (chan_modChan_self b c _ h)
  have h2 : (b2.chan c).alert = .waitHigh missing :=
    (foldl_keeps (fun x : Block => (x.chan c).alert) _ (fun _ _ => congrArg Chan.alert (countC_chan ..)) _ b1).trans h1
  split
  · exact h2
  · exact (foldl_keeps (fun x : Block => (x.chan c).alert) _ (fun _ u => pdAlert_alert u c) _ b2).trans h2

theorem mayselect_of_alert (h : (b.chan c).alert ≠ .none) : b.mayselect c = false := by
  have hbeq : ((b.chan c).alert == AlertState.none) = false := by simpa using h
  rw [Block.mayselect, hbeq, Bool.and_false]

/-! #### What a replay and a recovery leave alone -/

theorem reissue_modeStates (q : Nat) (x : Cmd) : (b.reissue c q x).modeStates = b.modeStates := by
  refine modeStates_of_outline ?_
  unfold Block.reissue
  extract_lets sc b1 b2
  have h2 : b2.outline = b.outline := by
    unfold b2
    split <;> simp [b1]
  split
  · rw [countC_outline, modQueue_outline, h2]
  · rw [raaFall_outline, countC_outline, h2]
  · rw [raaFall_outline, countC_outline, h2]
  · exact h2

theorem modQueue_modeStates (q : Nat) (g : Queue → Queue) : (b.modQueue c q g).modeStates = b.modeStates :=
  modeStates_of_outline (modQueue_outline b c q g)

theorem replayQueue_modeStates (q : Nat) : (b.replayQueue c q).modeStates = b.modeStates := by
  unfold Block.replayQueue
  extract_lets k start base t0 ranks pres acts acts' again b1 ids b2 rds live
  have h1 : b1.modeStates = b.modeStates := foldl_modeStates _ (fun _ x => reissue_modeStates q x) _ b
  have h2 : b2.modeStates = b1.modeStates :=
    foldl_modeStates _ (fun x (e : QEnt) => modeStates_of_frame (sansCfg_of_frame (modSnd_frame x e.d.owner _))) _ b1
  rw [modQueue_modeStates, h2, h1]

theorem recoverQueue_modeStates (q : Nat) : (b.recoverQueue c q).modeStates = b.modeStates := by
  unfold Block.recoverQueue
  extract_lets cmds b1 b2
  have h1 : b1.modeStates = b.modeStates := foldl_modeStates _ (fun _ x => reissue_modeStates q x) _ b
  rw [modQueue_modeStates, modeStates_of_outline (countC_outline ..), h1]

theorem loseEntry_frame (q : Nat) (e : QEnt) : (b.loseEntry c q e).frame = b.frame := by
  unfold Block.loseEntry
  extract_lets b1
  have h1 : b1.frame = b.frame := modQueue_frame ..
  split
  · exact h1
  · split
    iterate 2
      split
      · exact h1
      · rw [fillReturn_frame, h1]
    rw [finishOwner_frame, h1]

/-! #### Fences and failed replays -/

/-- The failed replays that the channel remembers of the last second (R246). -/
def Block.recentFails (b : Block) (c : Nat) : List Nat := (b.chan c).fails.filter (fun t => b.clk.ns ≤ t + 10 ^ 9)

/-- A failed replay comes about on a block of the same mode and states: the third within 1 s fences the channel, and any other
leaves it waiting for its recovery pass. -/
theorem failReplay_cases : ∃ (lost : Block) (told : Block → Block), lost.modeStates = b.modeStates ∧
    (∀ x, (told x).modeStates = x.modeStates) ∧
    b.failReplay c = if 2 ≤ (b.recentFails c).length then lost.fence c 0 told
      else (told lost).modChan c (fun ch => { ch with alert := .recoveryWait }) := by
  unfold Block.failReplay
  extract_lets blocks fails ready b1 told b2
  have h1 : b1.modeStates = b.modeStates := foldl_modeStates _ (fun _ q =>
    foldl_modeStates _ (fun _ e => modeStates_of_frame (sansCfg_of_frame (loseEntry_frame q e))) _ _) _ b
  have hcount : (3 ≤ fails.length) = (2 ≤ (b.recentFails c).length) := by
    rw [show fails.length = (b.recentFails c).length + 1 from List.length_append]
    simp
  have h2 : b2.modeStates = b1.modeStates := modChan_modeStates b1 c (fun ch => { ch with fails := fails }) fun _ => rfl
  refine ⟨b2, told, h2.trans h1, fun x => event_modeStates .., ?_⟩
  simp only [hcount]

end

/-- What the statement asks of a fence: the channel reads state 5, and SERVE becomes DEGRADED (R246). -/
def Block.fencedFrom (b e : Block) (c : Fin 8) : Prop :=
  (e.chan c).state = 5 ∧ e.mode = if b.mode = .serve then .degraded else b.mode

section
variable {b : Block} {c : Fin 8}

theorem chanServes_congr {b' : Block} (h : b'.modeStates = b.modeStates) (k : Nat) : b'.chanServes k = b.chanServes k := by
  rw [Block.chanServes, state_of_modeStates, h, ← state_of_modeStates]
  rfl

theorem Block.settlesTo.alert_eq {e t : Block} (h : e.settlesTo t) (k : Nat) : (t.chan k).alert = (e.chan k).alert :=
  (congrArg Chan.alert (h.chan_eq k) :)

section
variable {e t : Block} (hlen : b.chans.length = 8) (ht : e.settlesTo t)
include hlen ht

/-- After the update that sets the state of the alert, the channel reads that state. -/
theorem alert_of_settled {x : Block} {a : AlertState} (hx : x.modeStates = b.modeStates)
    (he : e = x.modChan c (fun ch => { ch with alert := a })) : (t.chan c).alert = a := by
  have hc : c < x.chans.length := by rw [length_chans_of_modeStates hx, hlen]; exact c.isLt
  rw [ht.alert_eq, he, chan_modChan_self x c _ hc]

theorem failReplay_recovers (he : e = b.failReplay c) (hfew : (b.recentFails c).length < 2) :
    (t.chan c).alert = .recoveryWait ∧ t.mode = b.mode := by
  obtain ⟨lost, told, hlost, htold, heq⟩ := failReplay_cases (b := b) (c := c)
  rw [← he, if_neg (Nat.not_le.2 hfew)] at heq
  refine ⟨alert_of_settled hlen ht ((htold lost).trans hlost) heq, ?_⟩
  rw [ht.mode_eq, heq, modChan_mode]
  exact congrArg Prod.fst ((htold lost).trans hlost)

variable (hserves : b.chanServes c = true)
include hserves

/-- A fence of a serving channel, on a block of the same mode and states. -/
theorem fencedFrom_fence {x : Block} {cause : Nat} {told : Block → Block} (hx : x.modeStates = b.modeStates)
    (htold : ∀ y, (told y).modeStates = y.modeStates) (he : e = x.fence c cause told) : b.fencedFrom t c := by
  have hserving : (x.chan c).state ≠ 5 := fun h5 => by
    have := (chanServes_congr hx c).trans hserves
    simp [Block.chanServes, h5] at this
  have hmode : x.mode = b.mode := congrArg Prod.fst hx
  obtain ⟨hstate, hm, -⟩ := fence_settled htold hserving ((length_chans_of_modeStates hx).trans hlen) (he ▸ ht)
  exact ⟨hstate, by rw [hm, hmode]⟩

theorem failReplay_fences (he : e = b.failReplay c) (hmany : 2 ≤ (b.recentFails c).length) : b.fencedFrom t c := by
  obtain ⟨lost, told, hlost, htold, heq⟩ := failReplay_cases (b := b) (c := c)
  rw [← he, if_pos hmany] at heq
  exact fencedFrom_fence hlen ht hserves hlost htold heq

end

end

/-! #### The commands -/

/-- An alert is heard, or a burst is missing; no burst is missing where no read is in flight. -/
def Block.heard (b : Block) (c : Nat) (missing : Bool) : Block :=
  if missing && (b.chan c).queues.all (fun k => k.flight.isEmpty) then b else b.alerted c missing

theorem exec_alerts (missing : Bool) (c : Fin 8) (s : State) :
    exec (if missing then .missingBurst c else .alert c) s = .next { s with blk := (s.blk.heard c missing).settle } := by
  cases missing <;> rfl

section
variable {b : Block} {c : Nat}

theorem heard_idle (h : ∀ k ∈ (b.chan c).queues, k.flight = []) : b.heard c true = b := if_pos (by simpa using h)

theorem heard_flight {missing : Bool} (h : missing = false ∨ ∃ k ∈ (b.chan c).queues, k.flight ≠ []) :
    b.heard c missing = b.alerted c missing := if_neg (by rcases h with h | h <;> simp [h])

section
variable {missing : Bool} (hserves : b.chanServes c = true) (hpll : b.clk.pll = true)
include hserves hpll

theorem alerted_none (h : (b.chan c).alert = .none) : b.alerted c missing = b.startAlert c missing := by
  rw [Block.alerted, if_neg (arbiter_runs hserves hpll), h]

theorem alerted_replaying {m : Bool} (h : (b.chan c).alert = .replaying m) : b.alerted c missing = b.failReplay c := by
  rw [Block.alerted, if_neg (arbiter_runs hserves hpll), h]

theorem alerted_recovery (h : (b.chan c).alert = .recovery) : b.alerted c missing = b.fence c 2 id := by
  rw [Block.alerted, if_neg (arbiter_runs hserves hpll), h]

theorem alerted_waiting (h : (∃ m, (b.chan c).alert = .waitHigh m) ∨ (b.chan c).alert = .recoveryWait) : b.alerted c missing = b := by
  rw [Block.alerted, if_neg (arbiter_runs hserves hpll)]
  rcases h with ⟨m, h⟩ | h <;> rw [h]

end

theorem released_waitHigh {m : Bool} (h : (b.chan c).alert = .waitHigh m) :
    b.released c = ((b.queuesOf c).foldl (fun b q => b.replayQueue c q) b).modChan c (fun ch => { ch with alert := .replaying m }) := by
  rw [Block.released, h]

theorem released_recoveryWait (h : (b.chan c).alert = .recoveryWait) :
    b.released c = (b.recover c).modChan c (fun ch => { ch with alert := .recovery }) := by
  rw [Block.released, h]

theorem stuck_waiting (h : (∃ m, (b.chan c).alert = .waitHigh m) ∨ (b.chan c).alert = .recoveryWait) : b.stuck c = b.fence c 1 id := by
  rw [Block.stuck]
  rcases h with ⟨m, h⟩ | h <;> rw [h]

section
variable (hwait : (b.chan c).alert ≠ .recoveryWait) (hhigh : ∀ m, (b.chan c).alert ≠ .waitHigh m)
include hwait hhigh

theorem released_other : b.released c = b := by
  unfold Block.released
  split
  case h_1 m h => exact absurd h (hhigh m)
  case h_2 h => exact absurd h hwait
  case h_3 => rfl

theorem stuck_other : b.stuck c = b := by
  unfold Block.stuck
  split
  case h_1 m h => exact absurd h (hhigh m)
  case h_2 h => exact absurd h hwait
  case h_3 => rfl

end

theorem replayed_recovery (h : (b.chan c).alert = .recovery) : b.replayed c = b.modChan c (fun ch => { ch with alert := .none }) := by
  rw [Block.replayed, h]

theorem replayed_other (hrec : (b.chan c).alert ≠ .recovery) (hrep : ∀ m, (b.chan c).alert ≠ .replaying m) : b.replayed c = b := by
  unfold Block.replayed
  extract_lets resume
  split
  case h_1 m h => exact absurd h (hrep m)
  case h_2 h => exact absurd h hrec
  case h_3 => rfl

theorem replayed_replaying {m : Bool} (h : (b.chan c).alert = .replaying m) :
    b.replayed c =
      (b.modChan c (fun ch => { ch with
        replays := ((b.chan c).replays.filter (fun t => b.clk.ns ≤ t + 10 ^ 9)) ++ [b.clk.ns], alert := .none })).event (chanCode c 4)
        [(1, if b.ddr4 c then 1 else 3), (1, if m then 1 else 0),
         (4, ((b.queuesOf c).map (fun q => ((b.chan c).queue q).replay.length)).sum),
         (4, sat32 (((b.chan c).replays.filter (fun t => b.clk.ns ≤ t + 10 ^ 9)) ++ [b.clk.ns]).length)] := by
  unfold Block.replayed
  rw [h]
  extract_lets resume n ok x
  have hx : x = b.modChan c (fun ch => { ch with replays := ok, alert := .none }) := by
    simp [x, resume, Block.modChan, List.modify_modify_eq, Function.comp_def]
  rw [hx]
  rfl

end

/-- Settles O28: each command by the state of the alert that it finds. -/
theorem alertsAndReplay : Obligations.AlertsAndReplay := by
  intro c s hlen hserves hpll b0 st fenced recent
  have hc : c < b0.chans.length := by rw [hlen]; exact c.isLt
  refine ⟨fun missing => ⟨_, exec_alerts missing c s, fun hm hidle => ?_, fun hheard => ?_⟩, ?_, ?_, ?_⟩
  · subst hm
    exact settlesTo_settle_of_eq (heard_idle hidle)
  · rw [heard_flight hheard]
    refine ⟨fun h => ?_, fun m h hmany => ?_, fun m h hfew => ?_, fun h => ?_, fun h => ?_⟩
    · have hs := settlesTo_settle_of_eq (alerted_none (missing := missing) hserves hpll h)
      have halert := (hs.alert_eq c).trans (startAlert_alert missing hc)
      exact ⟨hs, halert, mayselect_of_alert (by rw [halert]; exact nofun)⟩
    · exact failReplay_fences hlen (settle_settlesTo _) hserves (alerted_replaying hserves hpll h) hmany
    · exact failReplay_recovers hlen (settle_settlesTo _) (alerted_replaying hserves hpll h) hfew
    · exact fencedFrom_fence hlen (settle_settlesTo _) hserves rfl (fun _ => rfl) (alerted_recovery hserves hpll h)
    · exact settlesTo_settle_of_eq (alerted_waiting hserves hpll h)
  · refine ⟨_, rfl, fun m h => ?_, fun h => ?_, fun hwait hhigh => settlesTo_settle_of_eq (released_other hwait hhigh)⟩
    · have hkeeps := foldl_modeStates (fun b q => b.replayQueue c q) (fun _ q => replayQueue_modeStates q) (b0.queuesOf c) b0
      exact ⟨alert_of_settled hlen (settle_settlesTo _) hkeeps (released_waitHigh h), settlesTo_settle_of_eq (released_waitHigh h)⟩
    · have hkeeps := foldl_modeStates (fun b q => b.recoverQueue c q) (fun _ q => recoverQueue_modeStates q) (b0.queuesOf c) b0
      exact ⟨alert_of_settled hlen (settle_settlesTo _) hkeeps (released_recoveryWait h),
        settlesTo_settle_of_eq (released_recoveryWait h)⟩
  · exact ⟨_, rfl, fun h => fencedFrom_fence hlen (settle_settlesTo _) hserves rfl (fun _ => rfl) (stuck_waiting h),
      fun hwait hhigh => settlesTo_settle_of_eq (stuck_other hwait hhigh)⟩
  · exact ⟨_, rfl, fun m h => settlesTo_settle_of_eq (replayed_replaying h), fun h => settlesTo_settle_of_eq (replayed_recovery h),
      fun hrec hrep => settlesTo_settle_of_eq (replayed_other hrec hrep)⟩

end Sys2Proof.Machine

/-! The energy governor: the cycle of a bucket and the stall. -/

namespace Sys2Proof.Machine

/-! ### The cycle and the stall (R268, R271) -/

/-- What a CK/2 cycle moves on of a channel: its CK/2 cycles and the level of its energy bucket. -/
def Chan.meter (ch : Chan) : Nat × Int := (ch.ck2, ch.gov.level)

theorem meter_eq_iff {ch : Chan} {n : Nat} {l : Int} : ch.meter = (n, l) ↔ ch.ck2 = n ∧ ch.gov.level = l := Prod.ext_iff

/-- The charge of the background of a channel in a CK/2 cycle, in 2^-8 pJ (R268). -/
def Block.background (b : Block) (c : Nat) : Nat :=
  b.pj c 128 * ((List.range (b.units c)).filter (fun u => !((b.chan c).pd.contains u))).length * b.p256 c / 1000

/-- The level of a channel's bucket after a CK/2 cycle (R268). -/
def Block.refilled (b : Block) (c : Nat) : Int :=
  if b.governed c then
    min ((b.chan c).gov.level + ((b.chanMw c * b.p256 c : Nat) : Int) - (b.background c : Int)) (b.depth c)
  else (b.chan c).gov.level

section
variable {b : Block} {c : Nat}

/-! #### What a CK/2 cycle leaves of the meter -/

theorem meter_of_frame {b' : Block} (h : b'.frame.sansCfg = b.frame.sansCfg) (k : Nat) : (b'.chan k).meter = (b.chan k).meter :=
  (congrArg Chan.meter (chan_frame_of (congrArg (fun x : Frame => x.rest.chans) h) k) :)

theorem endShort_meter (k : Nat) : ((b.endShort c).chan k).meter = (b.chan k).meter := by
  unfold Block.endShort
  extract_lets ch
  split
  · exact chan_modChan_keeps Chan.meter b c k _ fun _ => rfl
  · rfl

theorem goShort_meter (k : Nat) : ((b.goShort c).chan k).meter = (b.chan k).meter := by
  unfold Block.goShort
  split
  · rfl
  · exact chan_modChan_keeps Chan.meter b c k _ fun _ => rfl

theorem dropPrefetches_frame : (b.dropPrefetches c).frame = b.frame :=
  foldl_keeps Block.frame _ (fun x d => by rw [count_frame, withdraw_frame, onCache_frame]) _ b

theorem cycleCounts_only : ∃ x, b.cycleCounts c = { b with ctr := x } := by
  unfold Block.cycleCounts
  split
  · exact ⟨b.ctr, rfl⟩
  · extract_lets ch one b1 b2 b3
    obtain ⟨x1, h1⟩ : ∃ x, b1 = { b with ctr := x } :=
      foldl_only _ (fun y q => foldl_only _ (fun z k => countC_only z ..) _ y) _ b
    obtain ⟨x2, h2⟩ : ∃ x, b2 = { b1 with ctr := x } := countC_only ..
    obtain ⟨x3, h3⟩ : ∃ x, b3 = { b2 with ctr := x } := countC_only ..
    obtain ⟨x4, h4⟩ := foldl_only _ (fun y q => countC_only y ..) _ b3
    exact ⟨x4, by rw [h4, h3, h2, h1]⟩

/-! #### The cycle -/

theorem Clk.advance_pll (k : Clk) (dt : Nat) : (k.advance dt).pll = k.pll := by
  unfold Clk.advance
  split <;> rfl

theorem ckCycle_stopped (h : b.chanServes c = false ∨ b.clk.pll = false) : b.ckCycle c = b := if_pos (by simpa using h)

theorem govCycle_length : (b.govCycle c).chans.length = b.chans.length := by
  unfold Block.govCycle
  split
  · rfl
  · exact List.length_modify ..

theorem govCycle_meter (hc : c < b.chans.length) : ((b.govCycle c).chan c).meter = ((b.chan c).ck2, b.refilled c) := by
  unfold Block.govCycle Block.refilled
  by_cases h : b.governed c = true
  · rw [if_neg (by simp [h]), if_pos h]
    exact congrArg Chan.meter (chan_modChan_self b c _ hc)
  · rw [if_pos (by simpa using h), if_neg h]
    rfl

/-- On a serving channel a CK/2 cycle is counted and the bucket refills; shortages that start or end move neither. -/
theorem ckCycle_meter (hserves : b.chanServes c = true) (hpll : b.clk.pll = true) (hc : c < b.chans.length) :
    ((b.ckCycle c).chan c).meter = ((b.chan c).ck2 + 1, b.refilled c) := by
  unfold Block.ckCycle
  rw [if_neg (arbiter_runs hserves hpll)]
  extract_lets b1 b2 b3 b4 b5 b6
  obtain ⟨x, hx⟩ : ∃ x, b1 = { b with ctr := x } := cycleCounts_only
  have h2 : (b2.chan c).meter = ((b.chan c).ck2, b.refilled c) := by
    unfold b2
    rw [hx]
    exact govCycle_meter hc
  have hc2 : c < b2.chans.length := by
    unfold b2
    rw [govCycle_length, hx]
    exact hc
  have h3 : (b3.chan c).meter = ((b.chan c).ck2 + 1, b.refilled c) := by
    unfold b3
    obtain ⟨hck2, hlevel⟩ := meter_eq_iff.1 h2
    rw [chan_modChan_self b2 c _ hc2]
    exact meter_eq_iff.2 ⟨congrArg (· + 1) hck2, hlevel⟩
  have h4 : (b4.chan c).meter = (b3.chan c).meter := endShort_meter c
  have h5 : (b5.chan c).meter = (b4.chan c).meter := by
    unfold b5
    split
    · exact goShort_meter c
    · rfl
  have h6 : (b6.chan c).meter = (b5.chan c).meter := by
    unfold b6
    split
    · exact chan_modChan_keeps Chan.meter b5 c c _ fun _ => rfl
    · rfl
  rw [meter_of_frame (sansCfg_of_frame dropPrefetches_frame), h6, h5, h4, h3]

/-! #### The stall -/

theorem exec_energyStall (c : Fin 8) (s : State) : exec (.energyStall c) s = .next { s with blk := s.blk.energyStall c } := rfl

theorem energyStall_due (hshort : (b.chan c).gov.short = true) (hgov : b.governed c = true) (hmw : b.chanMw c ≠ 0)
    (hdue : (b.chan c).gov.shortSince + 10000 ≤ b.clk.ns) :
    b.energyStall c = (b.event (chanCode c 0xA)
        [(2, b.chanMw c), (8, twos 8 (b.chan c).gov.level), (8, twos 8 (b.depth c)), (2, b.scale c)]).modChan c
      (fun ch => { ch with gov := { ch.gov with shortSince := b.clk.ns } }) :=
  if_pos (by simp [hshort, hgov, hmw, hdue])

theorem energyStall_not_due (h : (b.chan c).gov.short = false ∨ b.governed c = false ∨ b.chanMw c = 0 ∨
    b.clk.ns < (b.chan c).gov.shortSince + 10000) : b.energyStall c = b :=
  if_neg (by rcases h with h | h | h | h <;> simp [h])

end

/-- Settles O34: the cycle by whether the channel runs, the stall by whether it is due. -/
theorem governorCycles : Obligations.GovernorCycles := by
  intro c s hlen
  refine ⟨fun dt => ?_, fun hshort hgov hmw hdue => ?_, fun h => ?_⟩
  · intro t p awake
    have hserves : t.chanServes c = s.blk.chanServes c := advance_keeps s.blk (·.chanServes c) (fun _ _ => rfl) dt
    have hgov : t.governed c = s.blk.governed c := advance_keeps s.blk (·.governed c) (fun _ _ => rfl) dt
    have hchan : t.chan c = s.blk.chan c := advance_keeps s.blk (·.chan c) (fun _ _ => rfl) dt
    have hchans : t.chans = s.blk.chans := advance_keeps s.blk Block.chans (fun _ _ => rfl) dt
    have hpll : t.clk.pll = s.blk.clk.pll := by rw [advance_clk, Clk.advance_pll]
    refine ⟨_, rfl, fun h => settlesTo_settle_of_eq (ckCycle_stopped (by rwa [hserves, hpll])), fun hs hp => ?_⟩
    have hc : c < t.chans.length := by rw [hchans, hlen]; exact c.isLt
    have hmeter := (meter_of_frame (settle_sansCfg _) c).trans (ckCycle_meter (hserves.trans hs) (hpll.trans hp) hc)
    rw [← hgov, ← hchan]
    exact meter_eq_iff.1 hmeter
  · rw [exec_energyStall, energyStall_due hshort hgov hmw hdue]
  · rw [exec_energyStall, energyStall_not_due h]

end Sys2Proof.Machine

/-! MODE_SET, IMAGE_RESTORE and STATUS_READ. -/

namespace Sys2Proof.Machine

theorem Block.settlesTo.of_eq {x e b : Block} (hb : x.settlesTo b) (h : x = e) : e.settlesTo b := h ▸ hb

/-! ### MODE_SET (R385, R386) -/

section
variable {b : Block} {src : Src} {p : Packet} {n : Nat}

/-! #### The DETAIL of a refusal -/

theorem modeRefused_commission (hm : b.mode = .commission) : b.modeRefused 3 =
    if b.notReady ≠ [] then some 2 else if b.stat.savedSince = false then some 3 else if b.lc = .retired then some 5
    else if b.pins.pfail = true then some 7 else none := by
  simp [Block.modeRefused, hm]

theorem modeRefused_degraded (hm : b.mode = .degraded) : b.modeRefused 3 =
    if b.notReady ≠ [] then some 2 else if ∃ e ∈ b.ponds, e.2.lost = true ∨ e.2.marked = true then some 4 else none := by
  unfold Block.modeRefused
  simp only [hm]
  exact if_congr (by simp) rfl (if_congr (by simp) rfl rfl)

theorem modeRefused_other (h : (b.mode, n) ∉ [(.commission, 3), (.degraded, 3), (.serve, 4), (.serve, 5), (.dormant, 3)]) :
    b.modeRefused n = some 1 := by
  unfold Block.modeRefused
  extract_lets
  split
  case h_6 => rfl
  all_goals simp_all

/-! #### What MODE_SET comes to -/

theorem modeSet_same (hto : pP0 p 0 3 = b.mode.code) : b.modeSet src p = b.answer src p stOk 0 (pP0 p 0 3) [] := by
  simp [Block.modeSet, hto]

theorem modeSet_refused {d : Nat} (hto : pP0 p 0 3 = n) (hne : n ≠ b.mode.code) (h : b.modeRefused n = some d) :
    b.modeSet src p = b.answer src p stWrongMode d b.modeBits [] := by
  simp [Block.modeSet, hto, hne, h]

theorem modeSet_serves (hm : b.mode = .commission) (hto : pP0 p 0 3 = 3) (h : b.modeRefused 3 = none) :
    b.modeSet src p = (b.serveFrom .serve 1 0).answer src p stOk 0 3 [] := by
  simp [Block.modeSet, hto, hm, h, Mode.code, serveFrom_mode]

theorem modeSet_degrades (hm : b.mode = .serve) (hto : pP0 p 0 3 = 4) :
    b.modeSet src p = (b.changeMode .degraded 1 0).answer src p stOk 0 4 [] := by
  simp [Block.modeSet, Block.modeRefused, hto, hm, Mode.code]

theorem modeSet_recovers (hm : b.mode = .degraded) (hto : pP0 p 0 3 = 3) (h : b.modeRefused 3 = none) :
    b.modeSet src p = (b.changeMode .serve 1 0).answer src p stOk 0 3 [] := by
  simp [Block.modeSet, hto, hm, h, Mode.code]

theorem modeSet_enters (hm : b.mode = .serve) (hto : pP0 p 0 3 = 5) :
    b.modeSet src p = (b.beginEntry src).beginOp src p id := by
  simp [Block.modeSet, Block.modeRefused, hto, hm, Mode.code]

theorem modeSet_wakes (hm : b.mode = .dormant) (hto : pP0 p 0 3 = 3) : b.modeSet src p = b.modeWake src p := by
  simp [Block.modeSet, Block.modeRefused, hto, hm, Mode.code]

theorem modeWake_leaves (hp : b.pins.pfail = false) (hd : ∀ op at_, b.dorm ≠ .leaving op at_) :
    b.modeWake src p = (b.beginOp src p id).leave true := by
  unfold Block.modeWake
  rw [if_neg (by simp [hp])]
  cases h : b.dorm with
  | leaving op at_ => exact absurd h (hd op at_)
  | _ => simp only [Block.beginOp, h]

/-! #### The mode and the VOIDs afterwards -/

/-- An answer, and what waits, change no mode. -/
theorem mode_of_answered {e t : Block} {st d p0 : Nat} {body : List Byte} (h : (e.answer src p st d p0 body).settlesTo t) :
    t.mode = e.mode :=
  h.mode_eq.trans (replyHold_mode ..)

theorem beginEntry_cmdVoid : ∀ v ∈ (b.beginEntry src).inlets.map Inlet.cmdVoid, v = true := by
  simp only [Block.beginEntry, Block.raiseCmd, List.map_map, List.forall_mem_map, Function.comp_apply]
  intro n _
  split
  · assumption
  · rfl

/-- The block as DORMANT entry begins: the mode is as it was, and every command VOID is high. -/
theorem entering_of_settled {t : Block} (h : ((b.beginEntry src).beginOp src p id).settlesTo t) :
    t.mode = b.mode ∧ t.dorm = .entering src ∧ ∀ n ∈ t.inlets, n.cmdVoid = true := by
  have hvoids : ∀ v ∈ t.inlets.map Inlet.cmdVoid, v = true := by
    rw [h.voids_eq]
    exact beginEntry_cmdVoid (src := src)
  exact ⟨h.mode_eq, h.dorm_eq, List.forall_mem_map.1 hvoids⟩

end

/-- Settles O18: each clause is what MODE_SET comes to in the mode that the packet finds, by the DETAIL for which it is refused. -/
theorem modeSetChangesMode : Obligations.ModeSetChangesMode := by
  intro src p s hc hop t to3 unready told
  obtain ⟨b, hexec, hb⟩ := packet_settles s 0x20 src p Block.modeSet hop hc
  have refused : ∀ {m : Mode} {n d : Nat}, t.mode = m → to3 = n → n ≠ m.code → t.modeRefused n = some d →
      told b (t.answer src p stWrongMode d t.modeBits []) := by
    intro m n d hm hto hne h
    exact hb.of_eq (modeSet_refused hto (hm ▸ hne) h)
  refine ⟨b, hexec, fun hto => ?_, fun hm hto => ?_, fun hm hto => ?_, fun hm hto hr hs hl hp => ?_, fun hm hto hr => ?_,
    fun hm hto hr hs => ?_, fun hm hto hr hs hl => ?_, fun hm hto hr hs hl hp => ?_, fun hm hto hr => ?_, fun hm hto hr hponds => ?_,
    fun hm hto hr hponds => ?_, fun hm hto hp hd => ?_, fun hne hother => ?_⟩
  · exact hb.of_eq (modeSet_same hto)
  · have hb := hb.of_eq (modeSet_degrades hm hto)
    exact ⟨hb, (mode_of_answered hb).trans (changeMode_mode ..)⟩
  · have hb := hb.of_eq (modeSet_enters hm hto)
    obtain ⟨hmode, hdorm, hvoid⟩ := entering_of_settled hb
    exact ⟨hb, hmode.trans hm, hdorm, hvoid⟩
  · have hnone : t.modeRefused 3 = none := by
      rw [modeRefused_commission hm, if_neg hr, if_neg (by simp [hs]), if_neg hl, if_neg (by simp [hp])]
    have hb := hb.of_eq (modeSet_serves hm hto hnone)
    exact ⟨hb, (mode_of_answered hb).trans (serveFrom_mode ..)⟩
  · exact refused hm hto (by decide) ((modeRefused_commission hm).trans (if_pos hr))
  · exact refused hm hto (by decide) (by rw [modeRefused_commission hm, if_neg hr, if_pos hs])
  · exact refused hm hto (by decide) (by rw [modeRefused_commission hm, if_neg hr, if_neg (by simp [hs]), if_pos hl])
  · exact refused hm hto (by decide) (by rw [modeRefused_commission hm, if_neg hr, if_neg (by simp [hs]), if_neg hl, if_pos hp])
  · exact refused hm hto (by decide) ((modeRefused_degraded hm).trans (if_pos hr))
  · exact refused hm hto (by decide) (by rw [modeRefused_degraded hm, if_neg hr, if_pos hponds])
  · have hsound : ¬ ∃ e ∈ t.ponds, e.2.lost = true ∨ e.2.marked = true := by
      rintro ⟨e, he, hbad⟩
      simp [hponds e he] at hbad
    have hb := hb.of_eq (modeSet_recovers hm hto (by rw [modeRefused_degraded hm, if_neg hr, if_neg hsound]))
    exact ⟨hb, (mode_of_answered hb).trans (changeMode_mode ..)⟩
  · exact hb.of_eq ((modeSet_wakes hm hto).trans (modeWake_leaves hp hd))
  · exact refused rfl rfl hne (modeRefused_other hother)

/-! ### IMAGE_RESTORE (R411, R412) -/

section
variable {b : Block} {src : Src} {p : Packet}

/-- The block with an image in force: its identities, and its configuration but for the fields that no image holds. -/
def Block.withImage (b : Block) (src : Src) (p : Packet) (i : Image) : Block :=
  ({ b.unsaved with ids := i.dimms } : Block).applyConfig
    { checkImage b i.cfg with new := withUnsaved (checkImage b i.cfg).new b.cfg } false (repEvents src p (checkImage b i.cfg).rep)

theorem restoreFrom_invalid {objs : List Nat} {source cause sec : Nat} : b.restoreFrom src p objs source (.inl (cause, sec)) =
    (b.event 0x02 [(1, source), (1, cause), (1, sec)]).replyHold src p objs stRejected cause p.param0.toNat [] := rfl

theorem restoreFrom_valid {objs : List Nat} {source : Nat} {i : Image} : b.restoreFrom src p objs source (.inr i) =
    (b.withImage src p i).replyHold src p objs (repStatus (checkImage b i.cfg).rep) 0 p.param0.toNat
      (b.repBody (checkImage b i.cfg).rep) := rfl

theorem imageRestore_port (h : pP0 p 0 1 = 1) : b.imageRestore src p = b.beginOp src p id := if_pos (by simp [h])

theorem imageRestore_of_sram {x : (Nat × Nat) ⊕ Image} (h : pP0 p 0 1 = 0) (hx : b.sramImage = x) :
    b.imageRestore src p = b.restoreFrom src p (b.objects src p) 0 x := hx ▸ if_neg (by simp [h])

theorem sramImage_absent (h : b.ret = none) : b.sramImage = .inl (1, 0) := by simp only [Block.sramImage, h]

theorem sramImage_held {i : Image} (h : b.ret = some i) : b.sramImage = .inr i := by simp only [Block.sramImage, h]

theorem mirrorImage_invalid {bs : List Byte} {e : Nat × Nat} (h : imageFault bs = some e) : mirrorImage (.bytes bs) = .inl e := by
  simp only [mirrorImage, h]

theorem mirrorImage_valid {bs : List Byte} (h : imageFault bs = none) : mirrorImage (.bytes bs) = .inr (imageOf bs) := by
  simp only [mirrorImage, h]

/-- The long packet that waited for the mirror is in progress no more. -/
def Block.endRead (b : Block) (o : LongOp) : Block :=
  { b with pkts := { b.pkts with ops := b.pkts.ops.filter (fun x => !(x == o)) } }

theorem imageRestored_of_mirror {port : PortRead} {o : LongOp} {x : (Nat × Nat) ⊕ Image} (ho : b.op? 0x22 = some o)
    (hx : mirrorImage port = x) : b.imageRestored port = (b.endRead o).restoreFrom o.src o.pkt o.objs 1 x := by
  simp only [Block.imageRestored, ho, hx, Block.endRead]

/-! ### STATUS_READ (R414) -/

@[simp] theorem leBytes_length (n x : Nat) : (leBytes n x).length = n := by simp [leBytes]

theorem statusBody_length (b : Block) : b.statusBody.length = 64 := by
  simp [Block.statusBody]

theorem Mode.code_lt (m : Mode) : m.code < 8 := by cases m <;> decide

/-- Bits 3:0 of MW_MODE are MODE and DRAIN (R58). -/
theorem mwMode_mod (b : Block) : b.mwMode % 16 = b.modeBits := by
  have hmode := Mode.code_lt b.mode
  unfold Block.mwMode Block.modeBits
  split <;> split <;> split <;> omega

/-- PARAM0 of the reply begins with MODE and DRAIN. -/
theorem statusP0_mod (b : Block) : b.statusP0 % 16 = b.modeBits := by
  rw [← mwMode_mod]
  unfold Block.statusP0
  split <;> omega

theorem modeBits_mode (b : Block) : b.modeBits % 8 = b.mode.code := by
  have hmode := Mode.code_lt b.mode
  unfold Block.modeBits
  split <;> omega

theorem modeBits_drain (b : Block) : b.modeBits / 8 = if b.drain then 1 else 0 := by
  have hmode := Mode.code_lt b.mode
  unfold Block.modeBits
  split <;> omega

end

/-- Settles O41: retention SRAM and the mirror each come to a cause or to an image, which `Block.restoreFrom` answers, and PARAM0 of
STATUS_READ begins with the mode bits. -/
theorem imageRestoresAndStatus : Obligations.ImageRestoresAndStatus := by
  intro s refused applied
  refine ⟨fun src p hc => ?_, fun port o ho => ?_⟩
  · intro t
    refine ⟨fun hop => ?_, fun hop => ?_⟩
    · obtain ⟨b, hexec, hb⟩ := packet_settles s 0x22 src p Block.imageRestore hop hc
      refine ⟨b, hexec, fun hport => ?_, fun hsram hret => ?_, fun i hsram hret => ?_⟩
      · exact hb.of_eq (imageRestore_port hport)
      · exact hb.of_eq ((imageRestore_of_sram hsram (sramImage_absent hret)).trans restoreFrom_invalid)
      · exact hb.of_eq ((imageRestore_of_sram hsram (sramImage_held hret)).trans restoreFrom_valid)
    · intro body
      refine ⟨packet_settles s 0x90 src p _ hop hc, ?_, ?_, ?_, ?_⟩
      · exact statusBody_length t
      · intro hother
        simp [body, hother, statusBody_length t]
      · have h16 := statusP0_mod t
        have hmode := modeBits_mode t
        omega
      · have h16 := statusP0_mod t
        have hdrain := modeBits_drain t
        omega
  · have hb := settle_settlesTo (s.blk.imageRestored port)
    refine ⟨_, does_next s (·.imageRestored port), fun hport => ?_, fun bs cause sec hport hbad => ?_, fun bs hport hgood => ?_⟩
    · subst hport
      exact hb.of_eq ((imageRestored_of_mirror ho rfl).trans restoreFrom_invalid)
    · subst hport
      exact hb.of_eq ((imageRestored_of_mirror ho (mirrorImage_invalid hbad)).trans restoreFrom_invalid)
    · subst hport
      exact hb.of_eq ((imageRestored_of_mirror ho (mirrorImage_valid hgood)).trans restoreFrom_valid)

end Sys2Proof.Machine

/-! The silt log: what an occurrence does to it, and the packets that read, subscribe to and clear it. -/

namespace Sys2Proof.Machine

/-! ### Writing into the log (R420, R421) -/

section
variable {l : Log} {r : LogRec}

/-- With nothing to free, no record is picked. -/
theorem evictees_of_no_need (rs : List LogRec) (sev : Nat) : evictees rs sev 0 = some [] := by
  unfold evictees
  simp only [Nat.zero_le, if_true, List.foldl_fixed]

theorem spill_of_room {n : Nat} (h : n ≤ logCap) : spill n = 0 := by
  unfold spill
  exact Nat.sub_eq_zero_of_le h

theorem write_of_room (h : recsSize l.recs + r.size ≤ logCap) :
    l.write r = ({ l with recs := l.recs ++ [{ r with seq := l.nextSeq }], nextSeq := (l.nextSeq + 1) % 2 ^ 16 }, true) := by
  unfold Log.write
  rw [spill_of_room h, evictees_of_no_need]
  simp [Log.put]

theorem put_occ (l : Log) (r : LogRec) (ev : Option (List Nat)) : (l.put r ev).1.occ = l.occ := by
  cases ev <;> rfl

theorem write_occ (l : Log) (r : LogRec) : (l.write r).1.occ = l.occ := by
  unfold Log.write
  rw [put_occ]

theorem take_occ (l : Log) (r : LogRec) : (l.take r).1.occ = l.occ := by
  unfold Log.take
  split
  · rw [write_occ]
  · rfl

theorem take_of_room (hbudget : tget 0 l.used r.code < l.limit r.code) (hroom : recsSize l.recs + r.size ≤ logCap) :
    l.take r = ({ l with
      used := tmod 0 l.used r.code (· + 1), recs := l.recs ++ [{ r with seq := l.nextSeq }]
      nextSeq := (l.nextSeq + 1) % 2 ^ 16 }, true) := by
  unfold Log.take
  rw [if_pos hbudget]
  exact write_of_room hroom

theorem take_of_spent (h : l.limit r.code ≤ tget 0 l.used r.code) : l.take r = (l.suppress r.code r.ts, false) := by
  unfold Log.take
  rw [if_neg (Nat.not_lt.2 h)]

/-- A suppressed occurrence is the first of its window, or adds 1 to those before it. -/
theorem suppress_supp (l : Log) (code : Nat) (ts : BitVec 64) :
    ∃ x : Supp, aget (l.suppress code ts).supp code = some x ∧ x.lastTs = ts ∧
      x.count = sat32 (((aget l.supp code).map (·.count)).getD 0 + 1) := by
  refine ⟨_, (aget_aput ..).trans (if_pos rfl), ?_⟩
  cases aget l.supp code with
  | none => exact ⟨rfl, rfl⟩
  | some x => exact ⟨rfl, rfl⟩

end

/-! ### Event packets change the packets, the inlets and the recipients alone (R145, R146, R56) -/

section
variable (b : Block)

theorem queueEvent_only (src : Src) (e : EvPkt) :
    ∃ pk il rc, b.queueEvent src e = { b with pkts := pk, inlets := il, recips := rc } := by
  unfold Block.queueEvent
  split
  · exact ⟨_, b.inlets, b.recips, rfl⟩
  · split
    · exact ⟨_, b.inlets, b.recips, rfl⟩
    · extract_lets r b1 b2
      split
      · exact ⟨_, _, b.recips, rfl⟩
      · exact ⟨_, _, _, rfl⟩

theorem sendEvent_only (src : Src) (who : Nat) (pond : Option Nat) (n : Bool) (r : LogRec) :
    ∃ pk il rc, b.sendEvent src who pond n r = { b with pkts := pk, inlets := il, recips := rc } := by
  unfold Block.sendEvent
  extract_lets q b1
  obtain ⟨pk, il, rc, h⟩ := queueEvent_only b1 src { recipient := who, seq := q.seq, pond := pond, notLogged := n, record := r }
  exact ⟨pk, il, rc, h⟩

theorem fanOut_only (code : Nat) (pl : List Byte) (pond : Option Nat) (n : Bool) (r : LogRec) :
    ∃ pk il rc, b.fanOut code pl pond n r = { b with pkts := pk, inlets := il, recips := rc } := by
  unfold Block.fanOut
  extract_lets ann b1
  obtain ⟨pk, il, rc, h⟩ : ∃ pk il rc, b1 = { b with pkts := pk, inlets := il, recips := rc } := by
    refine foldl_holds (P := fun x : Block => ∃ pk il rc, x = { b with pkts := pk, inlets := il, recips := rc })
      ⟨b.pkts, b.inlets, b.recips, rfl⟩ ?_
    rintro x s ⟨pk, il, rc, rfl⟩
    split
    · split
      · obtain ⟨pk', il', rc', h'⟩ := sendEvent_only { b with pkts := pk, inlets := il, recips := rc } (.inlet ‹_›) s.1 ann n r
        exact ⟨pk', il', rc', h'⟩
      · exact ⟨pk, il, rc, rfl⟩
    · exact ⟨pk, il, rc, rfl⟩
  split
  · obtain ⟨pk', il', rc', h'⟩ := sendEvent_only b1 .mgmt 0xF6 ann n r
    exact ⟨pk', il', rc', by rw [h', h]⟩
  · exact ⟨pk, il, rc, h⟩

end

/-! ### What an occurrence comes to (R423) -/

section
variable {b : Block} {code : Nat} {fields : List (Nat × Nat)}

/-- The log after an occurrence whose code has a budget. -/
def Block.logOf (b : Block) (code : Nat) (fields : List (Nat × Nat)) : Log :=
  ((b.log.occur code).take (mkRec b code (encFields fields))).1

/-- The pending bits after an occurrence whose code has a budget: MASK keeps them as they were. -/
def Block.pendedBy (b : Block) (code : Nat) : BitVec 4 :=
  if b.flag 0x0F00 code 8 then b.mgmt.intStatus else b.mgmt.intStatus ||| (1#4 <<< evSev code)

theorem event_of_count_only (hr : evReserved code = false) (hl : b.log.limit code = 0) :
    b.event code fields = { b with log := b.log.occur code } := by
  have hl' : (b.log.occur code).limit code = 0 := hl
  simp [Block.event, Block.emitPond, hr, hl']

theorem event_of_budget (hr : evReserved code = false) (hl : b.log.limit code ≠ 0) :
    ∃ c pk il rc, b.event code fields = { b with
      log := b.logOf code fields, mgmt := { b.mgmt with intStatus := b.pendedBy code }
      ctr := c, pkts := pk, inlets := il, recips := rc } := by
  have hl' : (b.log.occur code).limit code ≠ 0 := hl
  unfold Block.event Block.emitPond
  simp only [hr, Bool.false_eq_true, if_false, if_neg hl']
  generalize hw : (b.log.occur code).take (mkRec b code (encFields fields)) = w
  obtain ⟨c, hc⟩ := count_only { b with log := w.1 } 0x14 none none (if w.2 then 1 else 0)
  rw [hc]
  obtain ⟨pk, il, rc, hf⟩ := fanOut_only
    (if b.flag 0x0F00 code 8 then { b with log := w.1, ctr := c } else ({ b with log := w.1, ctr := c } : Block).pend (evSev code))
    code (encFields fields) none (!w.2) (mkRec b code (encFields fields))
  refine ⟨c, pk, il, rc, hf.trans ?_⟩
  unfold Block.logOf Block.pendedBy
  rw [hw]
  split <;> rfl

theorem event_log (hr : evReserved code = false) :
    (b.event code fields).log = if b.log.limit code = 0 then b.log.occur code else b.logOf code fields := by
  split
  case isTrue hl => rw [event_of_count_only hr hl]
  case isFalse hl =>
    obtain ⟨c, pk, il, rc, h⟩ := event_of_budget (fields := fields) hr hl
    rw [h]

theorem event_intStatus (hr : evReserved code = false) (hl : b.log.limit code ≠ 0) :
    (b.event code fields).mgmt.intStatus = b.pendedBy code := by
  obtain ⟨c, pk, il, rc, h⟩ := event_of_budget (fields := fields) hr hl
  rw [h]

theorem event_intStatus_of_masked (hr : evReserved code = false) (hm : b.f 0x0F00 code 8 = 1) :
    (b.event code fields).mgmt.intStatus = b.mgmt.intStatus := by
  by_cases hl : b.log.limit code = 0
  · rw [event_of_count_only hr hl]
  · rw [event_intStatus hr hl]
    exact if_pos (by simp [Block.flag, hm])

/-- Every occurrence of a code that is not reserved is counted, whatever becomes of its record. -/
theorem event_occ (hr : evReserved code = false) : (b.event code fields).log.occ = (b.log.occur code).occ := by
  rw [event_log hr]
  split
  · rfl
  · exact take_occ ..

theorem event_log_of_room (hr : evReserved code = false) (hbudget : tget 0 b.log.used code < b.log.limit code)
    (hroom : recsSize b.log.recs + (mkRec b code (encFields fields)).size ≤ logCap) :
    (b.event code fields).log = { b.log.occur code with
      used := tmod 0 b.log.used code (· + 1), recs := b.log.recs ++ [mkRec b code (encFields fields)]
      nextSeq := (b.log.nextSeq + 1) % 2 ^ 16 } := by
  rw [event_log hr, if_neg (Nat.ne_zero_of_lt hbudget)]
  exact congrArg Prod.fst (take_of_room (l := b.log.occur code) (r := mkRec b code (encFields fields)) hbudget hroom)

theorem event_log_of_spent (hr : evReserved code = false) (hl : b.log.limit code ≠ 0)
    (hspent : b.log.limit code ≤ tget 0 b.log.used code) :
    (b.event code fields).log = (b.log.occur code).suppress code b.stamp64 := by
  rw [event_log hr, if_neg hl]
  exact congrArg Prod.fst (take_of_spent (l := b.log.occur code) (r := mkRec b code (encFields fields)) hspent)

/-- The record of an event, with the channel that its code names (R416). -/
theorem mkRec_eq (b : Block) (code : Nat) (payload : List Byte) :
    mkRec b code payload = ⟨code, evSev code, decide (0x80 ≤ code), if 0x80 ≤ code then (code - 0x80) / 16 else 0, b.stamp.2,
      b.log.nextSeq, b.stamp64, payload⟩ := by
  unfold mkRec codeChan
  split <;> simp [*]

end

/-- Settles O36: every occurrence is counted; with a budget its record is taken into the log and its severity pends. -/
theorem eventsAreRecorded : Obligations.EventsAreRecorded := by
  intro b code fields hr hocc e payload size limit
  have hrising : risingKeys b.log.occ = true := (Bool.and_eq_true_iff.1 hocc).1
  have hcount : e.log.occ = tput 0 b.log.occ code ((tget 0 b.log.occ code + 1) % 2 ^ 32) := event_occ hr
  refine ⟨event_sansLog b code fields, ?_, fun k hk => ?_, event_of_count_only hr, fun hl hm => ?_, event_intStatus_of_masked hr,
    fun hbudget hroom => ?_, fun hl hspent => ?_⟩
  · rw [hcount, tget_tput_self hrising]
  · rw [hcount, tget_tput_ne hk]
  · exact (event_intStatus hr hl).trans (if_neg (by simpa [Block.flag] using hm))
  · have hlog := event_log_of_room (fields := fields) hr hbudget hroom
    rw [mkRec_eq] at hlog
    rw [show e.log = _ from hlog]
    exact ⟨rfl, rfl, rfl, rfl⟩
  · rw [show e.log = _ from event_log_of_spent hr hl hspent]
    exact ⟨rfl, rfl, suppress_supp (b.log.occur code) code b.stamp64⟩

/-! ### EVENTS_READ (R416, R425) -/

section
variable {l : Log} {first limit : Nat}

theorem recBytes_length (r : LogRec) (notLogged : Bool) : (r.bytes notLogged).length = r.size := by
  simp only [LogRec.bytes, LogRec.size, List.length_append, leBytes_length]

theorem recBytes_flatMap_length (rs : List LogRec) : (rs.flatMap (fun r => r.bytes false)).length = recsSize rs := by
  simp only [List.length_flatMap, recBytes_length, recsSize]

theorem fitRecs_prefix (n room : Nat) (rs : List LogRec) : fitRecs n room rs <+: rs := by
  induction n, room, rs using fitRecs.induct with
  | case1 => exact List.nil_prefix
  | case2 => simp [fitRecs]
  | case3 n room r rs hfit ih => simpa [fitRecs, hfit] using ih
  | case4 n room r rs hfit => simp [fitRecs, hfit]

theorem fitRecs_length_le (n room : Nat) (rs : List LogRec) : (fitRecs n room rs).length ≤ n := by
  induction n, room, rs using fitRecs.induct with
  | case1 => exact Nat.le_refl 0
  | case2 => simp [fitRecs]
  | case3 n room r rs hfit ih => simpa [fitRecs, hfit] using ih
  | case4 n room r rs hfit => simp [fitRecs, hfit]

theorem fitRecs_size_le (n room : Nat) (rs : List LogRec) : recsSize (fitRecs n room rs) ≤ room := by
  induction n, room, rs using fitRecs.induct with
  | case1 => simp [fitRecs, recsSize]
  | case2 => simp [fitRecs, recsSize]
  | case3 n room r rs hfit ih =>
    simp only [fitRecs, hfit, if_true, recsSize, List.map_cons, List.sum_cons] at ih ⊢
    omega
  | case4 n room r rs hfit => simp [fitRecs, hfit, recsSize]

theorem page_body_length_le : ((l.page first limit).1.flatMap (fun r => r.bytes false)).length ≤ 496 :=
  (recBytes_flatMap_length _).trans_le (fitRecs_size_le ..)

theorem page_length_le (h : limit ≠ 0) : (l.page first limit).1.length ≤ limit :=
  (fitRecs_length_le ..).trans_eq (if_neg h)

/-- A page and what follows it are the end of the log, in its order. -/
theorem page_suffix : (l.page first limit).1 ++ (l.page first limit).2 <:+ l.recs := by
  have hpage : (l.page first limit).1 ++ (l.page first limit).2 = l.fromSeq first :=
    List.prefix_iff_eq_append.1 (fitRecs_prefix ..)
  rw [hpage]
  exact List.dropWhile_suffix _

theorem pageP0_eq (l : Log) (pg : List LogRec × List LogRec) :
    l.pageP0 pg = (if pg.2 = [] then 0 else 1) + pg.1.length * 2 ^ 8 + ((pg.2.head?.map (·.seq)).getD l.nextSeq) * 2 ^ 16 := by
  simp only [Log.pageP0, List.isEmpty_iff]

end

/-- What EVENTS_READ of a log whose memory reads clean comes to. -/
theorem eventsRead_clean (b : Block) (src : Src) (p : Packet) :
    Block.eventsRead .clean b src p =
      b.reply src p stOk 0 (b.log.pageP0 (b.log.page (pP0 p 0 16) (pP0 p 16 8)))
        ((b.log.page (pP0 p 0 16) (pP0 p 16 8)).1.flatMap (fun r => r.bytes false)) := rfl

/-! ### EVENTS_SUBSCRIBE (R424, R428) -/

/-- The record of a sender's subscriptions. -/
def subsRecord : Src → Nat
  | .mgmt => 0x0F03
  | .inlet _ => 0x0F02

/-- Which record of that ID holds a sender's subscriptions: the only one, or that of the requester's slot. -/
def subsInstance (src : Src) (p : Packet) : Nat :=
  match src with
  | .mgmt => 0
  | .inlet _ => p.requester.toNat

/-- The codes that the body asks for and the sender may have. -/
def subsGranted (owner : Bool) (p : Packet) : List Nat :=
  ((List.range 256).filter (subBit p)).filter (fun e => (subReason owner e).isNone)

/-- The configuration after a record is replaced by one that holds 1 in these fields alone. -/
def cfgOnes (t : Tab Nat) (id inst : Nat) (bits : List Nat) : Tab Nat :=
  bits.foldl (fun t e => cfgSet t id inst e 1) (cfgReset t id inst)

/-- The report of the bits that are cleared. -/
def subsReport (owner : Bool) (src : Src) (p : Packet) : List RepEnt :=
  ((List.range 256).filter (subBit p)).filterMap
    (fun e => (subReason owner e).map (fun r => ⟨subsRecord src, subsInstance src p, e, r, 1, 0⟩))

theorem eventsSubscribe_eq (b : Block) (src : Src) (p : Packet) :
    b.eventsSubscribe src p =
      ({ b with cfg := cfgOnes b.cfg (subsRecord src) (subsInstance src p) (subsGranted (b.sendsAsOwner src p.requester.toNat) p) } :
        Block).replyReport src p [] (subsReport (b.sendsAsOwner src p.requester.toNat) src p) [] := by
  cases src <;> rfl

theorem subsInstance_lt (src : Src) (p : Packet) : subsInstance src p < 2 ^ 12 := by
  cases src with
  | mgmt => exact Nat.two_pow_pos 12
  | inlet i => exact p.requester.isLt.trans (by decide)

/-- No code is subscribed to by default. -/
theorem fieldDefault_subs (src : Src) (inst e : Nat) : fieldDefault (subsRecord src) inst e = 0 := by
  have hzero : ∀ kept, (((recSubs kept).find? (fun f => f.bit == e)).map (·.dflt)).getD 0 = 0 := by
    intro kept
    cases hf : (recSubs kept).find? (fun f => f.bit == e) with
    | none => rfl
    | some f =>
      obtain ⟨k, -, rfl⟩ := List.mem_map.1 (List.mem_of_find?_eq_some hf)
      rfl
  cases src with
  | mgmt => exact hzero 15
  | inlet i => exact hzero 1

theorem mem_subsGranted {owner : Bool} {p : Packet} {e : Nat} :
    e ∈ subsGranted owner p ↔ e < 256 ∧ (subBit p e && !evReserved e && (owner || evTenantVisible e)) = true := by
  have hreason : (subReason owner e).isNone = (!evReserved e && (owner || evTenantVisible e)) := by
    unfold subReason
    cases evReserved e <;> cases owner || evTenantVisible e <;> rfl
  simp only [subsGranted, List.mem_filter, List.mem_range, hreason, Bool.and_assoc, Bool.and_eq_true, and_assoc]

section
variable {id inst id' inst' e : Nat}

/-- A field after some fields of one record are set to 1. -/
theorem cfgGet_foldl_ones (bits : List Nat) (t : Tab Nat) (hi : inst < 2 ^ 12) (hbits : ∀ k ∈ bits, k < 2 ^ 16) (hi' : inst' < 2 ^ 12)
    (he : e < 2 ^ 16) :
    cfgGet (bits.foldl (fun t e => cfgSet t id inst e 1) t) id' inst' e =
      if (id', inst') = (id, inst) ∧ e ∈ bits then 1 else cfgGet t id' inst' e := by
  induction bits generalizing t with
  | nil => simp
  | cons k bits ih =>
    obtain ⟨hk, hrest⟩ := List.forall_mem_cons.1 hbits
    rw [List.foldl_cons, ih _ hrest, cfgGet_cfgSet t 1 hi hk hi' he]
    by_cases hrec : (id', inst') = (id, inst)
    · obtain ⟨rfl, rfl⟩ := Prod.mk.inj hrec
      by_cases hke : k = e
      · simp [hke]
      · simp [hke, Ne.symm hke]
    · have hother : ¬ (id = id' ∧ inst = inst' ∧ k = e) := by
        rintro ⟨rfl, rfl, -⟩
        exact hrec rfl
      simp only [hrec, hother, false_and, if_false]

theorem cfgGet_cfgOnes_same {t : Tab Nat} {bits : List Nat} (hi : inst < 2 ^ 12) (hbits : ∀ k ∈ bits, k < 2 ^ 16) (he : e < 2 ^ 16)
    (hd : fieldDefault id inst e = 0) : cfgGet (cfgOnes t id inst bits) id inst e = if e ∈ bits then 1 else 0 := by
  unfold cfgOnes
  rw [cfgGet_foldl_ones bits _ hi hbits hi he, cfgGet_cfgReset t hi hi he, hd]
  simp

theorem cfgGet_cfgOnes_other {t : Tab Nat} {bits : List Nat} (hi : inst < 2 ^ 12) (hbits : ∀ k ∈ bits, k < 2 ^ 16) (hi' : inst' < 2 ^ 12)
    (he : e < 2 ^ 16) (hne : (id', inst') ≠ (id, inst)) : cfgGet (cfgOnes t id inst bits) id' inst' e = cfgGet t id' inst' e := by
  unfold cfgOnes
  rw [cfgGet_foldl_ones bits _ hi hbits hi' he, if_neg (fun h => hne h.1), cfgGet_cfgReset t hi hi' he, if_neg]
  rintro ⟨rfl, rfl⟩
  exact hne rfl

end

/-- Settles O37: each packet's own work, on the block that it was taken from. -/
theorem logPackets : Obligations.LogPackets := by
  intro src p s hc t
  refine ⟨fun hop => ?_, fun hop => ?_, fun hop => ?_⟩
  · intro pg body
    obtain ⟨b, hexec, hb⟩ := packet_settles_of_eq hop hc (eventsRead_clean t src p)
    rw [pageP0_eq] at hb
    obtain ⟨pre, hpre⟩ := page_suffix (l := t.log) (first := pP0 p 0 16) (limit := pP0 p 16 8)
    exact ⟨b, hexec, hb, page_body_length_le, page_length_le, pre, by rw [List.append_assoc, hpre]⟩
  · intro id inst owner
    obtain ⟨b, hexec, hb⟩ := packet_settles_of_eq hop hc (eventsSubscribe_eq t src p)
    have hgranted : ∀ k ∈ subsGranted owner p, k < 2 ^ 16 := fun k hk => (mem_subsGranted.1 hk).1.trans (by decide)
    have hid : id = subsRecord src := by cases src <;> rfl
    have hinst : inst = subsInstance src p := by cases src <;> rfl
    rw [hid, hinst]
    refine ⟨b, _, _, hexec, hb, fun e he => ?_, fun id' inst' e hi' he hne => ?_⟩
    · rw [cfgGet_cfgOnes_same (subsInstance_lt src p) hgranted (he.trans (by decide)) (fieldDefault_subs src _ e)]
      exact if_congr (mem_subsGranted.trans (and_iff_right he)) rfl rfl
    · exact cfgGet_cfgOnes_other (subsInstance_lt src p) hgranted hi' he hne
  · intro e
    exact packet_settles s 0x62 src p _ hop hc

end Sys2Proof.Machine

/-! The step on a queue that holds a command. -/

namespace Sys2Proof.Machine

/-- The other branch of the step, beside `step_of_pending_nil`. -/
theorem step_of_pending_cons {s : State} {c : Instr} {rest : List Instr} (h : s.pending = c :: rest) :
    step s = exec c { s with pending := rest } := by
  simp only [step, h]

/-- Settles O1: the front of the queue chooses the branch of the step. -/
theorem stepRunsFront : Obligations.StepRunsFront :=
  fun _ _ _ hfront => step_of_pending_cons hfront

end Sys2Proof.Machine
